-- ==== Sys2Proof/Word.lean ====
section
/-! DEFINITION. The word types of the Wyncord 612 node, and the index type of what the part has two of
(slope ports, contexts, matrix banks). -/

namespace Sys2Proof

/-- One byte of a frame, a record or the stacked DRAM. -/
abbrev Byte := BitVec 8

/-- A frame tag, 0..65535 (00_scope.md section 5.2); request tags, labels and shape numbers have the same width. -/
abbrev Tag := BitVec 16

/-- A reading of the timebase, in microseconds, wrapping at 2^32 (R20). -/
abbrev Time := BitVec 32

/-- A set of events, laid out as R201 gives: transient events in bits 0..13, fatal events in bits 16..21. -/
abbrev EventSet := BitVec 32

/-- A contributor mask: bit k is node k (R77, R199). -/
abbrev NodeMask := BitVec 8

/-- The number of a slope port, a context or a matrix bank: each node has number 0 and number 1. -/
inductive Ix where
  | zero
  | one
deriving DecidableEq, Repr

/-- The number itself. -/
def Ix.toNat : Ix → Nat
  | .zero => 0
  | .one => 1

/-- The other of the two. -/
def Ix.other : Ix → Ix
  | .zero => .one
  | .one => .zero

/-- The index a number names: 0 or 1, nothing else. -/
def Ix.ofNat? : Nat → Option Ix
  | 0 => some .zero
  | 1 => some .one
  | _ => none

/-- Two things of one kind, numbered 0 and 1. -/
structure Pair (α : Type) where
  fst : α
  snd : α
deriving DecidableEq, Repr

/-- The thing with number `i`. -/
def Pair.get {α : Type} (p : Pair α) : Ix → α
  | .zero => p.fst
  | .one => p.snd

/-- The pair with thing number `i` replaced. -/
def Pair.set {α : Type} (p : Pair α) (i : Ix) (x : α) : Pair α :=
  match i with
  | .zero => { p with fst := x }
  | .one => { p with snd := x }

end Sys2Proof
end

