-- ==== Sys2Proof/Syntax.lean ====
section
/-! DEFINITION. The commands: one constructor per row of spec/opcode_table.json, in the table's order.
A command stands for one whole and indivisible step of the part (95_what_each_step_holds.md). Its operands are what comes
from outside with it: the bytes of a frame, the number of a port or a context, the upsets that have struck the DRAM.
A request row carries no operand: the request it executes is the oldest of the request queue (R183). -/

namespace Sys2Proof

/-- An upset of one DRAM codeword of 8 bytes, found when it is next read (R39). -/
structure Strike where
  /-- Number of the codeword: its byte address divided by 8. -/
  codeword : Nat
  /-- True for a double-bit error, false for a single-bit error. -/
  double : Bool
deriving DecidableEq, Repr

/-- Whose request watchdog expires (R188). -/
inductive WatchdogTarget where
  | execution     -- the request in execution
  | slopeSide     -- the entry of the slope-side staged queue whose watchdog ends first
  | actuatorSide  -- the entry of the actuator-side staged queue whose watchdog ends first
deriving DecidableEq, Repr

/-- The commands of the node. -/
inductive Instr where
  | powerOnReset (nodeId : BitVec 3)
  | slLinkDown (port : Ix)
  | slLinkUp (port : Ix)
  | slopePacketHeader (port : Ix) (bytes : List Byte)
  | slopePacketEnd (port : Ix) (bytes : List Byte)
  | columnEngineTakePacket
  | substitutionJobRun
  | columnBurstDelivered (strikes : List Strike)
  | assemblyDeadline (ctx : Ix)
  | deliveryDeadline (ctx : Ix)
  | tiFrameReceived (bytes : List Byte)
  | tiLinkDown (inReception : Bool)
  | tiLinkUp
  | toSendEnd
  | toLinkDown
  | toLinkUp
  | parkRefreshExpiry
  | starvationExpiry
  | mlSendEnd
  | mlLinkDown
  | mlLinkUp
  | echoReceived (bytes : List Byte)
  | echoEntryExpiry
  | pokeRecordFetchArrival (strikes : List Strike)
  | telemetryRecordCommit
  | telemetryReadEnd (strikes : List Strike)
  | loadColumnWriteEnd
  | readbackBurstEnd (strikes : List Strike)
  | pokeRecordsTransferEnd (strikes : List Strike)
  | requestWatchdogExpiry (target : WatchdogTarget)
  | eventHoldoffExpiry
  | readObject
  | readCounters
  | readMatrixColumnSegment
  | readPokeRecords
  | writeNodeParameters
  | writePortConfiguration
  | writeReferenceSlopes
  | writeActuatorEntries
  | writeGainProfiles
  | writeOverrideRanges
  | writeSlaveRecords
  | writeNeighbourPairs
  | writeOpenShape
  | writePokeRecords
  | writeTelemetryConfiguration
  | writeEventState
  | writeObjectOther
  | bankSetup
  | loadColumn
  | closeBank
  | swapBank
  | retireBank
  | loopOff
  | loopOpen
  | loopClose
  | loopHold
  | resetIntegrators
  | pokeStart
  | pokeStop
  | telemetryArm
  | telemetryStop
  | readTelemetry
  | clearFault
  | nodeReset
  | nodeResetBegin
  | dramBurstComplete (strikes : List Strike)
deriving DecidableEq, Repr

end Sys2Proof
end

