-- ==== Sys2Proof/Config.lean ====
section
/-! DEFINITION. What is fixed for the part: the capacities of 00_scope.md section 3.3, the places of the DRAM areas (R38),
and the FREE VALUES: constants without a body, one for each value that the spec leaves open. -/

namespace Sys2Proof

/-- Words of an assembly ring (R6). -/
def Config.ringWords : Nat := 8192
/-- Actuators of one segment (R38, R77). -/
def Config.segmentSize : Nat := 512
/-- Actuators of every table (R114, R100, R108). -/
def Config.maxActuators : Nat := 6144
/-- Entries of the reference slope table and the hold table (R14, R16). -/
def Config.maxSlopes : Nat := 8192
/-- Frames that the realtime queue of TO holds (R67). -/
def Config.realtimeCapacity : Nat := 24
/-- Frames that the control queue of TO holds (R68). -/
def Config.controlCapacity : Nat := 16
/-- Requests that the request queue holds (R183). -/
def Config.requestCapacity : Nat := 8
/-- Entries that each staged-write queue holds (R187). -/
def Config.stagedCapacity : Nat := 32
/-- Entries of the outstanding-echo list (R150). -/
def Config.echoCapacity : Nat := 4
/-- Greatest payload of a trunk frame, in bytes (R61). -/
def Config.maxPayload : Nat := 49152
/-- Greatest value of a counter (00_scope.md section 5.6). -/
def Config.counterMax : Nat := 4294967295
/-- Bytes of one bank area (R38). -/
def Config.bankBytes : Nat := 100663296
/-- Byte at which the telemetry area begins (R38). -/
def Config.telemetryBase : Nat := 201326592
/-- Byte at which the poke area begins (R38). -/
def Config.pokeBase : Nat := 469762048
/-- Bytes between the starts of two columns of a bank (R38). -/
def Config.columnStride : Nat := 12288
/-- Units of 32 bytes of the telemetry area (R168). -/
def Config.telemetryUnits : Nat := 8388608
/-- Units of the largest telemetry record (R171). -/
def Config.largestRecord : Nat := 1281
/-- Microseconds between two SHAPE frames in SAFE (R145). -/
def Config.parkRefresh : Nat := 10000

/-- The places of a response or record for which chapter 12 gives a width but no code. -/
inductive UnstatedField where
  | contextState        -- R22, in the loop state object
  | bankState           -- R40, in the bank headers object
  | swapMark            -- R40: clear, NEXT, or a tag
  | noUnmarked          -- R40: the first unmarked segment when none is unmarked
  | noUncorrectable     -- R39: the last uncorrectable location while absent
  | dramArea            -- R39: the area of the last uncorrectable location
  | snapshotState       -- R153
  | firstCause          -- R153
  | absentDriverStatus  -- R134, R153: a driver status code that is absent
  | absentInterval      -- R134: the time since the last finished frame while absent
  | pokeState           -- R159
  | pokeItemWhileIdle   -- R159: current record, phase, frames remaining of an IDLE engine
  | noPrefetched        -- R159: no prefetched record
  | framesAwaiting      -- R159: frames remaining has no meaning before the copy has arrived
  | noLiveBank          -- R153: the LIVE bank and label where no bank is LIVE
  | absentEffectiveTag  -- R199: the two bytes of an effective tag, or last applied tag, that is absent
  | idlePokeRecord      -- R200, R202: the poke record of a frame that carries the IDLE mark
deriving DecidableEq, Repr

/-- FREE VALUE (DESIGN CHOICE, log entry 9): the bits that stand for a value whose code the spec does not give.
The number says which value of the field is meant. Nothing constrains it. -/
opaque Config.unstatedCode : UnstatedField → Nat → BitVec 32

/-- FREE VALUE (log entry 6): the byte at an address of the stacked DRAM that nothing has written since power-on reset
number `epoch` ("DRAM contents are undefined after power-on reset", R38). -/
opaque Config.dramByte : (epoch : Nat) → (address : Nat) → BitVec 8

/-- FREE VALUE (log entry 10): byte `k` of a REQUEST payload that is too short to hold it, where the RESPONSE copies it. -/
opaque Config.absentRequestByte : (payload : List Byte) → (k : Nat) → BitVec 8

/-- FREE VALUE (log entry 12): the 48-bit value that a merged sum takes where the exact sum of what an upstream segment
carries and the local sum falls outside 48 signed bits. R53 and R77 bound the sums that nodes make, and say nothing of
others. -/
opaque Config.overflowedSum : (exact : Int) → BitVec 48

/-- FREE VALUE (log entry 13): whether context 0 is the one displaced where the tags of the two open contexts lie exactly
32768 apart, so that neither is newer than the other (R29, 00_scope.md section 5.2). -/
opaque Config.displacesFirst : (tag0 : BitVec 16) → (tag1 : BitVec 16) → Bool

end Sys2Proof
end

