-- ==== Sys2Proof/Machine/Table.lean ====
section
/-! DEFINITION. Tables of the part as plain data: a list of (index, value) pairs with the index rising and no entry equal to
the table's default, so that equal tables are equal lists. The stacked DRAM is held in the same way, as (address, byte)
cells, with no value at an address that nothing has written. -/

namespace Sys2Proof.Machine

/-- The value listed at key `k`, if one is listed. -/
def lookupEntry {α : Type} : List (Nat × α) → Nat → Option α
  | [], _ => none
  | (k', v) :: rest, k => if k = k' then some v else lookupEntry rest k

/-- The list with key `k` listed at value `v`, in its place in rising order. -/
def insertEntry {α : Type} (k : Nat) (v : α) : List (Nat × α) → List (Nat × α)
  | [] => [(k, v)]
  | (k', v') :: rest =>
    if k < k' then (k, v) :: (k', v') :: rest
    else if k = k' then (k, v) :: rest
    else (k', v') :: insertEntry k v rest

/-- The list without key `k`. -/
def eraseEntry {α : Type} (k : Nat) (es : List (Nat × α)) : List (Nat × α) :=
  es.filter (fun e => e.1 ≠ k)

/-- The keys of the list rise strictly, and every key is greater than `below` where one is given. -/
def keysRise {α : Type} : Option Nat → List (Nat × α) → Bool
  | _, [] => true
  | none, (k, _) :: rest => keysRise (some k) rest
  | some b, (k, _) :: rest => decide (b < k) && keysRise (some k) rest

/-- A table whose unlisted entries read as `d`. -/
structure Table {α : Type} (d : α) where
  entries : List (Nat × α)
deriving DecidableEq, Repr

/-- The table with every entry at its default. -/
def Table.blank {α : Type} {d : α} : Table d := ⟨[]⟩

/-- Entry `k`. -/
def Table.get {α : Type} {d : α} (t : Table d) (k : Nat) : α :=
  (lookupEntry t.entries k).getD d

/-- The table with entry `k` at `v`. -/
def Table.set {α : Type} [DecidableEq α] {d : α} (t : Table d) (k : Nat) (v : α) : Table d :=
  if v = d then ⟨eraseEntry k t.entries⟩ else ⟨insertEntry k v t.entries⟩

/-- The table with the entries from `k` on at the values of the run. -/
def Table.setRun {α : Type} [DecidableEq α] {d : α} (t : Table d) (k : Nat) : List α → Table d
  | [] => t
  | v :: vs => (t.set k v).setRun (k + 1) vs

/-- The table whose entries below `n` are given by `f`, all others at the default. -/
def Table.build {α : Type} [DecidableEq α] {d : α} (n : Nat) (f : Nat → α) : Table d :=
  ⟨((List.range n).filter (fun k => f k ≠ d)).map (fun k => (k, f k))⟩

/-- The table with every entry whose key satisfies `p` set back to the default. -/
def Table.clearWhere {α : Type} {d : α} (t : Table d) (p : Nat → Bool) : Table d :=
  ⟨t.entries.filter (fun e => !p e.1)⟩

/-- The canonical form of a table. -/
def Table.wf {α : Type} [DecidableEq α] {d : α} (t : Table d) : Bool :=
  keysRise none t.entries && t.entries.all (fun e => e.2 ≠ d)

/-- The bytes of the stacked DRAM that have been written since power-on reset. -/
structure Memory where
  cells : List Host.Cell
deriving DecidableEq, Repr

/-- The memory right after power-on reset: nothing written. -/
def Memory.blank : Memory := ⟨[]⟩

/-- The byte written at an address, or no value where nothing has been written. -/
def Memory.read? (m : Memory) (a : Nat) : Option Byte := lookupEntry m.cells a

/-- The memory with one byte written. -/
def Memory.write (m : Memory) (a : Nat) (b : Byte) : Memory := ⟨insertEntry a b m.cells⟩

/-- The memory with a run of bytes written from an address on. -/
def Memory.writeRun (m : Memory) (a : Nat) : List Byte → Memory
  | [] => m
  | b :: bs => (m.write a b).writeRun (a + 1) bs

/-- The canonical form of the memory: addresses strictly rising. An unlisted address has no value, so no entry can equal it. -/
def Memory.wf (m : Memory) : Bool := keysRise none m.cells

end Sys2Proof.Machine
end

