-- ==== Sys2Proof/Machine/State.lean ====
section
/-! DEFINITION. The state of the node as plain data, block by block as 00_scope.md section 3.1 lists the blocks,
and the state right after power-on reset. -/

namespace Sys2Proof.Machine

/-! ## Names of states and codes -/

/-- The four roles of a node (00_scope.md section 2.3, R76). -/
inductive Role where
  | solo | head | middle | tail
deriving DecidableEq, Repr

/-- The missing-slope policies of a port (R2, R17). -/
inductive MissingPolicy where
  | zero | hold
deriving DecidableEq, Repr

/-- What a port does when its ring lacks room (R2, R7, R8). -/
inductive RingFullMode where
  | drop | stop
deriving DecidableEq, Repr

/-- The states of a port (R3). -/
inductive PortState where
  | idle | running | stopped
deriving DecidableEq, Repr

/-- The states of a context (R23). -/
inductive CtxState where
  | free | assembling | accumulated | merging | done
deriving DecidableEq, Repr

/-- The substitution job of a context (R22). -/
inductive JobState where
  | none | queued | running | ended
deriving DecidableEq, Repr

/-- The classes of a finished frame (R92), or none where a frame is not finished at this node. -/
inductive FrameClass where
  | none | good | late | incomplete
deriving DecidableEq, Repr

/-- The states of a matrix bank (R41). -/
inductive BankState where
  | empty | loading | ready | live
deriving DecidableEq, Repr

/-- The target of a scheduled swap (R48). -/
inductive SwapTarget where
  | tag (t : Tag)
  | next
deriving DecidableEq, Repr

/-- The actuator classes (R114), in the order of their codes (R199). -/
inductive ActClass where
  | active | frozen | slaved | dead
deriving DecidableEq, Repr

/-- The loop states (R134). -/
inductive LoopState where
  | off | opened | closed | held | safe
deriving DecidableEq, Repr

/-- The first cause of an entry to SAFE (R153). -/
inductive SafeCause where
  | badFrames | saturation | mirrorLinkLost
  | driverFault (code : Nat)
deriving DecidableEq, Repr

/-- The states of the fault snapshot (R153). -/
inductive SnapshotState where
  | empty | held | released
deriving DecidableEq, Repr

/-- The phases of a poke record (R159). -/
inductive PokePhase where
  | push | pull
deriving DecidableEq, Repr

/-- The capture states of the Telemetry Unit (R172). -/
inductive CaptureState where
  | idle | running | triggered | frozen | stopped
deriving DecidableEq, Repr

/-- What the Telemetry Unit does when its ring lacks room (R169). -/
inductive CaptureFullMode where
  | wrap | stop
deriving DecidableEq, Repr

/-- The statuses of a response, in the order of the table of R182 (their codes, R199). -/
inductive Status where
  | done | busy | badRequest | badObject | badValue | badRange | bankLive | swapPending
  | incomplete | mismatch | wrongState | notTail | timedOut | mediaError
deriving DecidableEq, Repr

/-- The events, in the order R190 and R201 list them. -/
inductive Event where
  | lateFrame | incompleteFrame | packetDropped | linkCrc | linkDown | lateInput | contextAbandoned
  | bankSwapped | matrixCorrected | pokeDone | pokeFault | telemetryTriggered | telemetryFull | starvationHold
  | port0Stopped | port1Stopped | matrixUncorrectable | mirrorLinkLost | driverFault | loopSafe
deriving DecidableEq, Repr

/-- The frame flags of a context, in the order of their bits in the telemetry record header (R202). -/
inductive FrameFlag where
  | slopeClamp | slopesSubstituted | slopesLost | assemblyDeadline | deliveryDeadline | corrupt
  | residualSaturated | saturated | neighborLimited | unresolvedPair | outputClamped
deriving DecidableEq, Repr

/-- The flags of a segment, in the order of their bits (R199). -/
inductive SegFlag where
  | upstreamMissing | mixed | corrupt
deriving DecidableEq, Repr

/-! ## Counters -/

/-- The counters of a Slope Port, in the order of R19. -/
inductive PortCounter where
  | accepted | headerErrors | notRunning | rangeErrors | droppedFull | stoppedDiscard | lateAtArrival | noMatrix
  | payloadErrors | truncated | lateAtConsumption | duplicates | clamped | missing | substituted | lost | linkDown
deriving DecidableEq, Repr

/-- Every counter of the node, group by group in the order of R193, each group in the order of its block's table. -/
inductive Counter where
  | port (p : Ix) (c : PortCounter)
  -- Frame Context Unit (R37)
  | contextsOpened | assembled | assemblyDeadlines | lateAccumulations | deliveryDeadlines | abandoned
  | forcedByDisplacement | lateSegments | outOfOrderDeliveries
  -- Bank Store (R60)
  | swaps | swapsCancelled | loadsWritten | loadsTimedOut | readbacks | correctedBank | correctedTelemetry
  | correctedPoke | uncorrectableColumn | uncorrectablePoke | uncorrectableTelemetry | uncorrectableReadback
  -- Trunk Interface (R75)
  | receivedPartial | receivedRequest | receivedResponse | receivedEvent | lengthErrors | crcErrors | unknownKind
  | truncatedTi | partialDiscarded | consumedRequests | forwarded | realtimeSent | controlSent | realtimeOverflow
  | controlOverflow | transmitAborted | tiLinkDown | toLinkDown
  -- Merge Unit (R94)
  | malformedSegments | mismatchedSegments | passedThrough | storedSegments | duplicateSegments | contributingMerges
  | ownBitPresent | mixedSegments | forcedSegments | goodFrames | lateFrames | lateByDeadline | lateByDisplacement
  | lateByTag | incompleteFrames
  -- Controller Unit (R113)
  | residualsComputed | residualSaturatedFrames | closedUpdates | antiWindupClamps | bumplessLoads | integratorResets
  -- Constraint Unit (R133)
  | limitClamps | unslaved | slaveParked | pokeIgnored | pairsOutOfRange | deadPairs | limitedPairs | unresolvedPairs
  | outputClamps | commandsBuilt
  -- Loop Supervisor with the Mirror Link Interface (R156)
  | safeEntries | starvationHolds | commandSent | shapeSent | superseded | unsent | mlTransmitAborted | mlLinkDown
  | missedEchoes | echoesOk | echoErrors | unknownEchoes | driverFaults | mirrorLinkLost
  -- Poke Engine (R167)
  | sequencesStarted | sequencesDone | sequencesStopped | sequencesAborted | pokeFaults | illFormedRecords
  | recordsCompleted | withheldFrames | recordReadbackErrors
  -- Telemetry Unit (R181)
  | recordsWritten | telemetryDropped | overwritten | refusedFull | triggers | recordsRead | mediaDiscarded
  -- Management Unit (R193)
  | requestsAccepted | requestsRefused | busy | stagedFull | stagedPlaced | stagedDrained | timedOut | eventFrames
deriving DecidableEq, Repr

/-! ## Node parameters -/

/-- The node parameters (R186). -/
structure Params where
  role : Role
  /-- The actuator count A; 0 is unset. -/
  actuators : Nat
  dAsm : Nat
  dDel : Nat
  expectedMask : NodeMask
  kBad : Nat
  saturationLimit : Nat
  saturationFrames : Nat
  /-- In milliseconds. -/
  starvationInterval : Nat
  /-- In microseconds. -/
  echoTimeout : Nat
  echoMissLimit : Nat
  dMax : Nat
  /-- In milliseconds. -/
  requestWatchdog : Nat
  /-- In milliseconds. -/
  eventHoldoff : Nat
deriving DecidableEq, Repr

/-! ## Slope Ports and assembly rings -/

/-- The configuration of a port (R2). -/
structure PortConfig where
  enabled : Bool
  slopeCount : Nat
  policy : MissingPolicy
  holdLimit : Nat
  fullMode : RingFullMode
deriving DecidableEq, Repr

/-- The descriptor of a packet in the ring (R6). -/
structure Descriptor where
  tag : Tag
  first : Nat
  count : Nat
  last : Bool
  ctx : Ix
deriving DecidableEq, Repr

/-- What a 32-bit word of an assembly ring holds (R6). How the fields of a descriptor are packed into its two words is
not stated and not visible, so the first word stands for the whole descriptor (log entry 4). -/
inductive RingWord where
  | blank
  | descriptor (d : Descriptor)
  | descriptorRest
  | slopes (lower : BitVec 16) (upper : Option (BitVec 16))
deriving DecidableEq, Repr

/-- The packet in reception: its header bytes as received, and the descriptor written for it (R9, R10). -/
structure Reception where
  header : List Byte
  descriptor : Descriptor
deriving DecidableEq, Repr

/-- A Slope Port with its assembly ring (R2, R3, R4, R6). -/
structure Port where
  config : PortConfig
  state : PortState
  linkUp : Bool
  ring : Table RingWord.blank
  readPos : Nat
  visiblePos : Nat
  writePos : Nat
  freeCount : Nat
  reception : Option Reception
deriving DecidableEq, Repr

/-! ## Column Engine -/

/-- An entry of the hold table (R16). -/
structure HoldEntry where
  value : Int
  age : Nat
deriving DecidableEq, Repr

/-- What the Column Engine is working on (R13, R17). -/
inductive EngineWork where
  | idle
  /-- A packet of the ring of port `p`; `next` is the position of the next slope to treat. -/
  | packet (p : Ix) (d : Descriptor) (next : Nat)
  /-- The substitution job of context `c`; `next` is the next local index to visit. -/
  | job (c : Ix) (next : Nat)
  /-- The context of a packet or job was abandoned while a burst of it was in progress: the engine waits for that burst's end,
  and then releases the packet, if there is one (R29). -/
  | draining (packet : Option (Ix × Descriptor))
deriving DecidableEq, Repr

/-- The column being fetched and added (R52): the value v of local index i in context c. -/
structure ColumnPass where
  ctx : Ix
  index : Nat
  value : Int
deriving DecidableEq, Repr

/-- The Column Engine with the tables that it reads (R13, R14, R16). A hold entry that is not listed is a zeroed one. -/
structure Engine where
  refs : Table (0 : Int)
  hold : Table (none : Option HoldEntry)
  lastPort : Ix
  work : EngineWork
  pass : Option ColumnPass
deriving DecidableEq, Repr

/-! ## Segments, contexts and the Frame Context Unit -/

/-- A segment of partial sums (R77). -/
structure Segment where
  tag : Tag
  index : Nat
  count : Nat
  first : Nat
  actuators : Nat
  mask : NodeMask
  flags : BitVec 8
  label : Tag
  scale : Nat
  sums : List Int
deriving DecidableEq, Repr

/-- A segment slot of a context (R80). A MERGED slot holds the segment at a TAIL, nothing at a MIDDLE or HEAD node. -/
inductive Slot where
  | empty
  | stored (g : Segment)
  | merged (g : Option Segment)
deriving DecidableEq, Repr

/-- The poke record and phase that a frame carries (R166). -/
inductive PokeMark where
  | idle
  | active (record : Nat) (phase : PokePhase) (withheld : Bool)
deriving DecidableEq, Repr

/-- A context (R22), with what its telemetry record takes from it (R85, R91, R95, R97, R131, R166, R170). -/
structure Context where
  state : CtxState
  tag : Tag
  bank : Ix
  label : Tag
  scale : Nat
  openTime : Time
  dAsm : Nat
  dDel : Nat
  /-- The assembly deadline has neither expired nor been cancelled. -/
  asmRunning : Bool
  /-- The delivery deadline has neither expired nor been cancelled. -/
  delRunning : Bool
  seen : Table false
  slopes : Table (0 : Int)
  sums : Table (0 : Int)
  lastDelivered : Pair Bool
  heldCount : Pair Nat
  job : JobState
  deliveryPending : Bool
  flags : BitVec 16
  slots : Table Slot.empty
  /-- The indices of the STORED slots in the order in which their segments arrived. -/
  storedOrder : List Nat
  frameMask : NodeMask
  segFlags : BitVec 8
  residuals : List Int
  residualSaturations : Nat
  cls : FrameClass
  applied : Bool
  commands : List Int
  poke : PokeMark
  finishTime : Time
  finishLoop : LoopState
deriving DecidableEq, Repr

/-- The Frame Context Unit (R20, R21, R22) with the order in which substitution jobs were queued (R18). -/
structure FrameUnit where
  timebase : Time
  newestOpened : Option Tag
  newestDelivered : Option Tag
  jobs : List Ix
  ctxs : Pair Context
deriving DecidableEq, Repr

/-! ## Bank Store, DRAM and Memory Arbiter -/

/-- The header of a bank with its coverage map (R40); the mark of column i, segment g has key 12 x i + g. -/
structure Bank where
  state : BankState
  nb : Nat
  ab : Nat
  scale : Nat
  label : Tag
  coverage : Table false
  swapMark : Option SwapTarget
  useCount : Nat
deriving DecidableEq, Repr

/-- The place of an uncorrectable burst (R39). -/
inductive DramPlace where
  | bank (b : Ix) (column segment : Nat)
  | telemetry (offset : Nat)
  | poke (offset : Nat)
deriving DecidableEq, Repr

/-- The on-chip part of the Bank Store: the two headers and the last uncorrectable location with its time (R39, R40). -/
structure BankStore where
  banks : Pair Bank
  lastBad : Option (DramPlace × Time)
deriving DecidableEq, Repr

/-- The error state of a DRAM codeword (R39). -/
inductive CodewordState where
  | clean | single | double
deriving DecidableEq, Repr

/-- The stacked DRAM: the bytes written, the codewords in error, and the number of power-on resets so far (the model's own). A
codeword that nothing has written and no upset has struck is clean (DESIGN CHOICE, log entry 40). -/
structure Dram where
  memory : Memory
  errors : Table CodewordState.clean
  epoch : Nat
deriving DecidableEq, Repr

/-- What a burst is part of (R57). -/
inductive BurstJob where
  | columnFetch (c : Ix) (bank : Ix) (column segment : Nat)
  | pokeFetch (record : Nat)
  | telemetryWrite
  /-- A read of the held record that begins at this unit of the telemetry area. -/
  | telemetryRead (unit : Nat)
  | loadColumn
  | readback
  | pokeRecordWrite
  | pokeRecordRead
deriving DecidableEq, Repr

/-- A burst of at most 1 KiB (R38). -/
structure Burst where
  job : BurstJob
  address : Nat
  length : Nat
  /-- The bytes of a write; empty for a read. -/
  data : List Byte
  /-- The last burst of its column, record, load, read or transfer. -/
  last : Bool
  /-- Its requester has given it up while it was in progress: it completes, and its data goes nowhere. -/
  dropped : Bool
deriving DecidableEq, Repr

/-- The Memory Arbiter: one queue per requester, highest priority first, and the burst that the DRAM is serving (R57, R58). -/
structure Arbiter where
  columnFetch : List Burst
  pokeFetch : List Burst
  telemetryWrite : List Burst
  telemetryRead : List Burst
  management : List Burst
  inProgress : Option Burst
deriving DecidableEq, Repr

/-! ## Trunk Interface -/

/-- A frame in a TO queue, whole (R61); the mark says that it is the RESPONSE of a NODE RESET that waits to begin (R73). -/
structure ToFrame where
  bytes : List Byte
  resetResponse : Bool
deriving DecidableEq, Repr

/-- The frame being sent on TO, and whether it came from the realtime queue (R70). -/
structure Sending where
  frame : ToFrame
  realtime : Bool
deriving DecidableEq, Repr

/-- The Trunk Interface (R67, R68, R70, R72). -/
structure Trunk where
  tiUp : Bool
  toUp : Bool
  realtime : List ToFrame
  control : List ToFrame
  sending : Option Sending
deriving DecidableEq, Repr

/-! ## Tables of the tail -/

/-- A gain profile (R98). -/
structure GainProfile where
  gain : Nat
  leak : Nat
deriving DecidableEq, Repr

/-- The value of every gain profile after power-on reset (R98). -/
def GainProfile.powerOn : GainProfile := ⟨0, 65536⟩

/-- An actuator entry (R114). -/
structure ActuatorEntry where
  lo : Int
  hi : Int
  park : Int
  cls : ActClass
  profile : Nat
deriving DecidableEq, Repr

/-- The value of every actuator entry after power-on reset (R114). -/
def ActuatorEntry.powerOn : ActuatorEntry := ⟨-32768, 32767, 0, .active, 0⟩

/-- An override range (R115). -/
structure OverrideRange where
  first : Nat
  count : Nat
  cls : ActClass
  enabled : Bool
deriving DecidableEq, Repr

/-- The value of every override range after power-on reset (R115). -/
def OverrideRange.powerOn : OverrideRange := ⟨0, 0, .active, false⟩

/-- A slave record; with no master it is unused (R117). -/
structure SlaveRecord where
  slave : Nat
  masters : List Nat
deriving DecidableEq, Repr

/-- The value of every slave record after power-on reset (R117). -/
def SlaveRecord.unused : SlaveRecord := ⟨0, []⟩

/-- The tables of the Controller Unit and the Constraint Unit. -/
structure Tables where
  gains : Table GainProfile.powerOn
  integrators : Table (0 : Int)
  openShape : Table (0 : Int)
  actuators : Table ActuatorEntry.powerOn
  overrides : Table OverrideRange.powerOn
  effective : Table ActClass.active
  slaves : Table SlaveRecord.unused
  pairs : Table ((0, 0) : Nat × Nat)
  pairCount : Nat
  lastOutputs : Table (0 : Int)
deriving DecidableEq, Repr

/-! ## Loop Supervisor and Mirror Link Interface -/

/-- The contents of the fault snapshot (R153). -/
structure Snapshot where
  cause : SafeCause
  lastFinished : Option Tag
  lastApplied : Option Tag
  loopBefore : LoopState
  badFrames : Nat
  satRun : Nat
  lastClampCount : Nat
  liveBank : Option (Ix × Tag)
  poke : Option (Nat × PokePhase)
  latches : EventSet
  timestamp : Time
  later : EventSet
deriving DecidableEq, Repr

/-- The Loop Supervisor (R134, R141, R142, R143, R145, R153). A timer holds the time of its last start. -/
structure Loop where
  state : LoopState
  badFrames : Nat
  satRun : Nat
  lastClampCount : Nat
  lastFinish : Option Time
  starvation : Option Time
  parkRefresh : Option Time
  snapshotState : SnapshotState
  snapshot : Option Snapshot
deriving DecidableEq, Repr

/-- The kinds of frame that the tail sends on ML (R148, R149). -/
inductive MlKind where
  | command | shape
deriving DecidableEq, Repr

/-- A frame handed to ML (R148, R149, R200); a reset takes away its outstanding entry (R155). -/
structure MlFrame where
  kind : MlKind
  number : Tag
  bytes : List Byte
  makesEntry : Bool
deriving DecidableEq, Repr

/-- An entry of the outstanding-echo list (R150). -/
structure EchoEntry where
  kind : MlKind
  number : Tag
  expiry : Time
deriving DecidableEq, Repr

/-- The Mirror Link Interface (R147, R149, R150). -/
structure Mirror where
  up : Bool
  sending : Option MlFrame
  waiting : Option MlFrame
  echoes : List EchoEntry
  misses : Nat
  lastDriverStatus : Option Nat
  shapeNumber : Tag
deriving DecidableEq, Repr

/-! ## Poke Engine -/

/-- The fields of a well-formed poke record (R157). -/
structure PokeRecord where
  entries : List (Nat × Int)
  dwell : Nat
  pushPull : Bool
  /-- The next record, or none for END. -/
  next : Option Nat
deriving DecidableEq, Repr

/-- What the Poke Engine holds while RUNNING (R159); a copy that is awaited, or still fetching, is none. -/
structure PokeRun where
  current : Nat
  copy : Option PokeRecord
  phase : PokePhase
  remaining : Nat
  prefetched : Option (Nat × Option PokeRecord)
deriving DecidableEq, Repr

/-! ## Telemetry Unit -/

/-- The telemetry configuration (R169); the sections of the content mask are slope, residual and command. -/
structure TelemetryConfig where
  ringStart : Nat
  ringEnd : Nat
  slopeSection : Bool
  residualSection : Bool
  commandSection : Bool
  decimation : Nat
  fullMode : CaptureFullMode
  triggerMask : EventSet
  postTrigger : Nat
deriving DecidableEq, Repr

/-- The record write in flight: the context it is taken from and its length in units (R174). -/
structure RecordWrite where
  ctx : Ix
  units : Nat
deriving DecidableEq, Repr

/-- The Telemetry Unit (R168, R169, R172): `lengths` are the lengths in units of the held records, oldest first, from which
record count, held size and free size follow. -/
structure Telemetry where
  config : TelemetryConfig
  state : CaptureState
  readPos : Nat
  writePos : Nat
  lengths : List Nat
  remaining : Nat
  phase : Nat
  nextRecord : BitVec 32
  inFlight : Option RecordWrite
deriving DecidableEq, Repr

/-! ## Management Unit -/

/-- A request as it stands in the request queue: its payload whole (R182, R183). -/
structure Request where
  payload : List Byte
deriving DecidableEq, Repr

/-- A write to a slope-side staged object (R28). -/
inductive SlopeWrite where
  | references (first : Nat) (values : List Int)
  | portPolicy (p : Ix) (policy : Option MissingPolicy) (holdLimit : Option Nat)
deriving DecidableEq, Repr

/-- A write to an actuator-side staged object (R118). -/
inductive ActuatorWrite where
  | actuatorEntries (first : Nat) (entries : List ActuatorEntry)
  | gainProfiles (first : Nat) (profiles : List GainProfile)
  | overrideRanges (first : Nat) (ranges : List OverrideRange)
  | slaveRecords (first : Nat) (records : List SlaveRecord)
  | neighbourPairs (count : Nat) (first : Nat) (pairs : List (Nat × Nat))
  | openShape (first : Nat) (values : List Int)
deriving DecidableEq, Repr

/-- An entry of a staged-write queue: the accepted write whole, its request, its acceptance time and its watchdog in
microseconds (R187, R188). -/
structure StagedEntry (α : Type) where
  request : Request
  acceptedAt : Time
  watchdog : Nat
  write : α
deriving DecidableEq, Repr

/-- A held record chosen by a READ TELEMETRY: its first unit, its length in units and the bytes read so far (R178). -/
structure ChosenRecord where
  unit : Nat
  units : Nat
  data : List Byte
deriving DecidableEq, Repr

/-- What a request that needs the Memory Arbiter is doing (R183). -/
inductive Transfer where
  | loadColumn (bank : Ix) (column firstSegment segments : Nat)
  | readback (bank : Ix) (column segment : Nat)
  | pokeWrite
  | pokeRead (data : List Byte)
  | readTelemetry (chosen : List ChosenRecord)
deriving DecidableEq, Repr

/-- The request in execution (R183, R188); `begun` says that its first burst has been granted. -/
structure Execution where
  request : Request
  acceptedAt : Time
  watchdog : Nat
  begun : Bool
  transfer : Transfer
deriving DecidableEq, Repr

/-- The progress of an accepted NODE RESET (R73, R195). -/
inductive ResetPhase where
  | none     -- no reset accepted
  | waiting  -- its response is queued or being sent
  | due      -- the moment has come at which the reset begins
deriving DecidableEq, Repr

/-- The request side of the Management Unit (R183, R187). -/
structure Mgmt where
  queue : List Request
  executing : Option Execution
  slopeQueue : List (StagedEntry SlopeWrite)
  actuatorQueue : List (StagedEntry ActuatorWrite)
  reset : ResetPhase
deriving DecidableEq, Repr

/-- The event side of the Management Unit (R190, R191). The pending bit of a fatal event is its latch. The holdoff timer
holds the time of the last placing, or none once it has expired. -/
structure Events where
  pending : EventSet
  enabled : EventSet
  critical : EventSet
  reported : EventSet
  reportEnable : Bool
  frameNumber : Tag
  holdoff : Option Time
deriving DecidableEq, Repr

/-! ## The node -/

/-- The whole state of the node, with the queue of commands that wait. -/
structure State where
  pending : List Instr
  nodeNumber : BitVec 3
  safeOut : Bool
  counters : Table (0 : Nat)
  params : Params
  ports : Pair Port
  engine : Engine
  frames : FrameUnit
  bankStore : BankStore
  dram : Dram
  arbiter : Arbiter
  trunk : Trunk
  lastApplied : Option Tag
  tables : Tables
  loop : Loop
  mirror : Mirror
  poke : Option PokeRun
  telemetry : Telemetry
  mgmt : Mgmt
  events : Events
deriving DecidableEq, Repr

/-- The reasons for which the machine stops with a fault: none. The spec gives this part no fault that stops it, and every
command has an effect in every state, so no meaning raises one (safe). -/
inductive Fault where
deriving DecidableEq, Repr

/-- The reasons for which a command is refused. -/
inductive Refusal where
  /-- Raised by `exec` for a command that has no meaning yet; no arm raises it (safe). -/
  | notModelled (mnemonic : String)
deriving DecidableEq, Repr

/-! ## Power-on reset -/

/-- The node's own bit in a contributor mask (R76). -/
def ownBit (nodeNumber : BitVec 3) : NodeMask := 1#8 <<< nodeNumber.toNat

/-- The node parameters after power-on reset (R186). -/
def Params.powerOn (nodeNumber : BitVec 3) : Params where
  role := .solo
  actuators := 0
  dAsm := 300
  dDel := 600
  expectedMask := ownBit nodeNumber
  kBad := 16
  saturationLimit := 256
  saturationFrames := 50
  starvationInterval := 20
  echoTimeout := 1000
  echoMissLimit := 8
  dMax := 65535
  requestWatchdog := 100
  eventHoldoff := 1

/-- A port after power-on reset (R2, R3, R4, R6). -/
def Port.powerOn : Port where
  config := ⟨false, 0, .zero, 4, .drop⟩
  state := .idle
  linkUp := false
  ring := Table.blank
  readPos := 0
  visiblePos := 0
  writePos := 0
  freeCount := Config.ringWords
  reception := none

/-- A FREE context. The other fields of a FREE context have no meaning (R22); they stand at these values (log entry 5). -/
def Context.free : Context where
  state := .free
  tag := 0
  bank := .zero
  label := 0
  scale := 0
  openTime := 0
  dAsm := 0
  dDel := 0
  asmRunning := false
  delRunning := false
  seen := Table.blank
  slopes := Table.blank
  sums := Table.blank
  lastDelivered := ⟨false, false⟩
  heldCount := ⟨0, 0⟩
  job := .none
  deliveryPending := false
  flags := 0
  slots := Table.blank
  storedOrder := []
  frameMask := 0xFF#8
  segFlags := 0
  residuals := []
  residualSaturations := 0
  cls := .none
  applied := false
  commands := []
  poke := .idle
  finishTime := 0
  finishLoop := .off

/-- A bank after power-on reset (R40). -/
def Bank.powerOn : Bank where
  state := .empty
  nb := 0
  ab := 0
  scale := 0
  label := 0
  coverage := Table.blank
  swapMark := none
  useCount := 0

/-- The telemetry configuration after power-on reset and NODE RESET (R169, R180). -/
def TelemetryConfig.reset : TelemetryConfig where
  ringStart := 0
  ringEnd := Config.telemetryUnits
  slopeSection := false
  residualSection := false
  commandSection := false
  decimation := 1
  fullMode := .wrap
  triggerMask := 0
  postTrigger := 0

/-- The Telemetry Unit after power-on reset and NODE RESET (R180). -/
def Telemetry.reset : Telemetry where
  config := TelemetryConfig.reset
  state := .idle
  readPos := 0
  writePos := 0
  lengths := []
  remaining := 0
  phase := 0
  nextRecord := 0
  inFlight := none

/-- The six fatal events (R190, R201). -/
def fatalSet : EventSet := 0x003F0000#32

/-- The fourteen transient events (R190, R201). -/
def transientSet : EventSet := 0x00003FFF#32

/-- The event side of the Management Unit after power-on reset (R190, R191). -/
def Events.powerOn : Events where
  pending := 0
  enabled := transientSet ||| fatalSet
  critical := fatalSet
  reported := 0
  reportEnable := true
  frameNumber := 0
  holdoff := none

/-- The tables of the tail after power-on reset (R98, R101, R108, R114, R115, R116, R117, R127, R130). -/
def Tables.powerOn : Tables where
  gains := Table.blank
  integrators := Table.blank
  openShape := Table.blank
  actuators := Table.blank
  overrides := Table.blank
  effective := Table.blank
  slaves := Table.blank
  pairs := Table.blank
  pairCount := 0
  lastOutputs := Table.blank

/-- The node right after power-on reset with the given straps (R196), its command queue empty. -/
def State.powerOn (nodeId : BitVec 3) (epoch : Nat) : State where
  pending := []
  nodeNumber := nodeId
  safeOut := false
  counters := Table.blank
  params := Params.powerOn nodeId
  ports := ⟨Port.powerOn, Port.powerOn⟩
  engine := ⟨Table.blank, Table.blank, .one, .idle, none⟩
  frames := ⟨0, none, none, [], ⟨Context.free, Context.free⟩⟩
  bankStore := ⟨⟨Bank.powerOn, Bank.powerOn⟩, none⟩
  dram := ⟨Memory.blank, Table.blank, epoch⟩
  arbiter := ⟨[], [], [], [], [], none⟩
  trunk := ⟨false, false, [], [], none⟩
  lastApplied := none
  tables := Tables.powerOn
  loop := ⟨.off, 0, 0, 0, none, none, none, .empty, none⟩
  mirror := ⟨false, none, none, [], 0, none, 0⟩
  poke := none
  telemetry := Telemetry.reset
  mgmt := ⟨[], none, [], [], .none⟩
  events := Events.powerOn

/-- The machine right after reset. The spec does not say what the NODE_ID straps of a part are; this state has 0 (DESIGN
CHOICE, log entry 2). -/
def State.reset : State := State.powerOn 0 0

end Sys2Proof.Machine
end

