-- ==== Sys2Proof/Machine/Operands.lean ====
section
/-! DEFINITION. The arithmetic and the encodings that the rules share: tag order, rounding, clamps, little-endian fields,
the two checks, and the layouts of frames, segments and records (chapter 12). -/

namespace Sys2Proof.Machine

/-! ## Tags, intervals and rounding -/

/-- Tag `a` is newer than tag `b` (00_scope.md section 5.2). -/
def tagNewer (a b : Tag) : Bool :=
  let d := (a - b).toNat
  1 ≤ d && d ≤ 32767

/-- A tag against a kept tag that may be absent; while it is absent every tag counts as newer (R21, R90). -/
def tagNewerThan (a : Tag) : Option Tag → Bool
  | none => true
  | some b => tagNewer a b

/-- The interval from `t` to `now`, modulo 2^32 (R20). -/
def interval (now t : Time) : Nat := (now - t).toNat

/-- The timebase `now` has reached the moment `t` (R150); every expiry lies less than half a turn of the timebase away. -/
def hasReached (now t : Time) : Bool := (now - t).toNat < 2147483648

/-- To clamp a value to [lo, hi] (00_scope.md section 5.1). -/
def clampInt (lo hi v : Int) : Int := if v < lo then lo else if hi < v then hi else v

/-- The rounding rule RN of the quotient a / b: to the nearest integer, ties away from zero (00_scope.md section 5.3). -/
def roundRN (a : Int) (b : Nat) : Int :=
  let q : Int := ((2 * a.natAbs + b) / (2 * b) : Nat)
  if a < 0 then -q else q

/-- ceil(a / b). -/
def ceilDiv (a b : Nat) : Nat := (a + b - 1) / b

/-! ## Little-endian fields (R197) -/

/-- The `n` bytes of a number, least significant first. -/
def leBytes : Nat → Nat → List Byte
  | 0, _ => []
  | n + 1, v => BitVec.ofNat 8 (v % 256) :: leBytes n (v / 256)

/-- The number that little-endian bytes spell. -/
def leNat : List Byte → Nat
  | [] => 0
  | b :: bs => b.toNat + 256 * leNat bs

/-- The two's complement value of a number in `w` bits. -/
def signedOf (w v : Nat) : Int := (BitVec.ofNat w v).toInt

/-- The number whose `w` bits are the two's complement of a value. -/
def unsignedOf (w : Nat) (v : Int) : Nat := (BitVec.ofInt w v).toNat

/-- The field of `n` bytes at an offset. -/
def fieldAt (bs : List Byte) (offset n : Nat) : Nat := leNat ((bs.drop offset).take n)

/-- The signed field of `n` bytes at an offset. -/
def signedAt (bs : List Byte) (offset n : Nat) : Int := signedOf (8 * n) (fieldAt bs offset n)

/-- A signed 16-bit field. -/
def sle16 (v : Int) : List Byte := leBytes 2 (unsignedOf 16 v)

/-- A run of signed 16-bit fields. -/
def sle16s (vs : List Int) : List Byte := vs.flatMap sle16

/-- The elements of `size` bytes, `n` of them, from the front of a byte string. -/
def splitElements (size : Nat) : Nat → List Byte → List (List Byte)
  | 0, _ => []
  | n + 1, bs => bs.take size :: splitElements size n (bs.drop size)

/-- The elements of a byte string that holds a whole number of them. -/
def elements (size : Nat) (bs : List Byte) : List (List Byte) := splitElements size (bs.length / size) bs

/-! ## Checks (R197) -/

/-- One bit of the reflected CRC-32 of polynomial 04C11DB7 hex. -/
def crc32Bit (c : BitVec 32) : BitVec 32 :=
  if c.getLsbD 0 then (c >>> 1) ^^^ 0xEDB88320#32 else c >>> 1

/-- The CRC-32 register after `n` bits. -/
def crc32Bits : Nat → BitVec 32 → BitVec 32
  | 0, c => c
  | n + 1, c => crc32Bits n (crc32Bit c)

/-- The CRC-32 of a byte string: initial value FFFFFFFF hex, final inversion (R197). -/
def crc32 (bs : List Byte) : BitVec 32 :=
  ~~~ bs.foldl (fun c b => crc32Bits 8 (c ^^^ b.setWidth 32)) 0xFFFFFFFF#32

/-- One bit of the CRC-16 of polynomial 1021 hex, not reflected. -/
def crc16Bit (c : BitVec 16) : BitVec 16 :=
  if c.getLsbD 15 then (c <<< 1) ^^^ 0x1021#16 else c <<< 1

/-- The CRC-16 register after `n` bits. -/
def crc16Bits : Nat → BitVec 16 → BitVec 16
  | 0, c => c
  | n + 1, c => crc16Bits n (crc16Bit c)

/-- The CRC-16 of a byte string: initial value FFFF hex, no inversion (R197). -/
def crc16 (bs : List Byte) : BitVec 16 :=
  bs.foldl (fun c b => crc16Bits 8 (c ^^^ ((b.setWidth 16 : BitVec 16) <<< (8 : Nat)))) 0xFFFF#16

/-- A frame with its CRC-32 appended (R197). -/
def sealFrame (body : List Byte) : List Byte := body ++ leBytes 4 (crc32 body).toNat

/-- The last four bytes of a frame are the CRC-32 of the bytes before them. -/
def crc32Holds (frame : List Byte) : Bool :=
  fieldAt frame (frame.length - 4) 4 == (crc32 (frame.take (frame.length - 4))).toNat

/-! ## Slope packets (R198) -/

/-- Ring words of a packet of `count` slopes (R6). -/
def footprint (count : Nat) : Nat := 2 + ceilDiv count 2

/-- Bytes of a packet of `count` slopes (R198). -/
def slopePacketLength (count : Nat) : Nat := 14 + 2 * count

/-- The ring words that the slopes of a packet fill, two to a word, the lower-indexed slope in the lower half (R6). -/
def slopeWords : List (BitVec 16) → List RingWord
  | [] => []
  | [a] => [.slopes a none]
  | a :: b :: rest => .slopes a (some b) :: slopeWords rest

/-- The slopes that the bytes after the header carry. -/
def slopesOf (count : Nat) (bs : List Byte) : List (BitVec 16) :=
  (splitElements 2 count bs).map (fun e => BitVec.ofNat 16 (leNat e))

/-! ## Segments (R77, R199) -/

/-- Segments of a frame of `a` actuators: G = ceil(A/512) (00_scope.md section 3.3). -/
def segmentCount (a : Nat) : Nat := ceilDiv a Config.segmentSize

/-- Actuators of segment `g` of a frame of `a` actuators (R77). -/
def segmentLength (a g : Nat) : Nat := min Config.segmentSize (a - Config.segmentSize * g)

/-- The bit of a segment flag (R199). -/
def SegFlag.bit : SegFlag → Nat
  | .upstreamMissing => 0
  | .mixed => 1
  | .corrupt => 2

/-- The segment flags with one added. -/
def addSegFlag (fs : BitVec 8) (f : SegFlag) : BitVec 8 := fs ||| (1#8 <<< f.bit)

/-- The segment flags hold one. -/
def hasSegFlag (fs : BitVec 8) (f : SegFlag) : Bool := fs.getLsbD f.bit

/-- The PARTIAL payload of a segment (R199). -/
def Segment.encode (g : Segment) : List Byte :=
  leBytes 2 g.tag.toNat ++ leBytes 1 g.index ++ leBytes 1 g.count ++ leBytes 2 g.first ++ leBytes 2 g.actuators
    ++ leBytes 1 g.mask.toNat ++ leBytes 1 g.flags.toNat ++ leBytes 2 g.label.toNat ++ leBytes 1 g.scale
    ++ leBytes 3 0 ++ g.sums.flatMap (fun v => leBytes 6 (unsignedOf 48 v))

/-- The payload forms a segment (R78): long enough for the fields, counts and index in range, and a length that agrees. -/
def formsSegment (p : List Byte) : Bool :=
  16 ≤ p.length && (1 ≤ fieldAt p 6 2 && fieldAt p 6 2 ≤ 512) && (1 ≤ fieldAt p 3 1 && fieldAt p 3 1 ≤ 12)
    && fieldAt p 2 1 < fieldAt p 3 1 && p.length == 16 + 6 * fieldAt p 6 2

/-- The segment that a PARTIAL payload spells; bits 3..7 of the flags byte are ignored (R201). -/
def Segment.decode (p : List Byte) : Segment where
  tag := BitVec.ofNat 16 (fieldAt p 0 2)
  index := fieldAt p 2 1
  count := fieldAt p 3 1
  first := fieldAt p 4 2
  actuators := fieldAt p 6 2
  mask := BitVec.ofNat 8 (fieldAt p 8 1)
  flags := BitVec.ofNat 8 (fieldAt p 9 1) &&& 7#8
  label := BitVec.ofNat 16 (fieldAt p 10 2)
  scale := fieldAt p 12 1
  sums := (elements 6 (p.drop 16)).map (fun e => signedOf 48 (leNat e))

/-! ## Trunk frames (R61, R62, R199) -/

/-- The host's trunk adapter (R62). -/
def adapterAddress : Nat := 8

/-- The all-nodes destination (R62). -/
def allNodes : Nat := 15

/-- A trunk frame with its header, payload and CRC-32 (R199). -/
def trunkFrame (kind source destination : Nat) (payload : List Byte) : List Byte :=
  sealFrame (leBytes 1 kind ++ leBytes 1 source ++ leBytes 1 destination ++ leBytes 1 0 ++ leBytes 2 payload.length
    ++ leBytes 2 0 ++ payload)

/-- The kind byte of a trunk frame. -/
def frameKind (f : List Byte) : Nat := fieldAt f 0 1

/-- The destination of a trunk frame: bits 0..3 of its byte (R201). -/
def frameDestination (f : List Byte) : Nat := fieldAt f 2 1 % 16

/-- The payload of a trunk frame whose length checks have passed. -/
def framePayload (f : List Byte) : List Byte := (f.drop 8).take (fieldAt f 4 2)

/-! ## Requests (R182, R199) -/

/-- The request kind. -/
def Request.kind (r : Request) : Nat := fieldAt r.payload 0 1

/-- The form. -/
def Request.form (r : Request) : Nat := fieldAt r.payload 1 1

/-- The body. -/
def Request.body (r : Request) : List Byte := r.payload.drop 4

/-- A byte of the payload, or a free value where the payload is too short to hold it (log entry 10). -/
def Request.byteOr (r : Request) (k : Nat) : Byte := (r.payload[k]?).getD (Config.absentRequestByte r.payload k)

/-- The object that a READ OBJECT or WRITE OBJECT names, if its body is long enough to name one. -/
def Request.object? (r : Request) : Option Nat := (r.body.head?).map BitVec.toNat

/-- The code of a status (R199): its place in the table of R182. -/
def Status.code : Status → Nat
  | .done => 0 | .busy => 1 | .badRequest => 2 | .badObject => 3 | .badValue => 4 | .badRange => 5 | .bankLive => 6
  | .swapPending => 7 | .incomplete => 8 | .mismatch => 9 | .wrongState => 10 | .notTail => 11 | .timedOut => 12
  | .mediaError => 13

/-- A tag of two bytes and its presence byte; the bytes of an absent one are a free value (log entry 9). -/
def optionalTag : Option Tag → List Byte
  | some t => leBytes 2 t.toNat ++ leBytes 1 1
  | none => leBytes 2 (Config.unstatedCode .absentEffectiveTag 0).toNat ++ leBytes 1 0

/-- The RESPONSE payload (R182, R199). -/
def responsePayload (r : Request) (st : Status) (effective : Option Tag) (body : List Byte) : List Byte :=
  [r.byteOr 0] ++ leBytes 1 st.code ++ [r.byteOr 2, r.byteOr 3] ++ optionalTag effective ++ leBytes 1 0 ++ body

/-! ## Poke records (R202, R203) -/

/-- The poke record that 128 bytes spell, if they are well-formed (R203). -/
def PokeRecord.decode? (bs : List Byte) : Option PokeRecord :=
  let count := fieldAt bs 0 1
  let entries := (splitElements 4 count (bs.drop 8)).map (fun e => (fieldAt e 0 2, signedAt e 2 2))
  let next := fieldAt bs 4 2
  if (1 ≤ count && count ≤ 16) && fieldAt bs 1 1 ≤ 1 && (1 ≤ fieldAt bs 2 2 && fieldAt bs 2 2 ≤ 4096)
      && (next ≤ 1023 || next == 65535) && entries.all (fun e => e.1 < Config.maxActuators) then
    some ⟨entries, fieldAt bs 2 2, fieldAt bs 1 1 == 1, if next = 65535 then none else some next⟩
  else none

/-- The code of a poke phase with the IDLE and withheld marks (R200). -/
def PokeMark.code : PokeMark → Nat
  | .idle => 2
  | .active _ .push w => if w then 128 else 0
  | .active _ .pull w => if w then 129 else 1

/-- The poke record field of a frame or record; under the IDLE mark a free value (log entry 9). -/
def PokeMark.recordField : PokeMark → Nat
  | .idle => (Config.unstatedCode .idlePokeRecord 0).toNat
  | .active r _ _ => r

/-- The code of a loop state (R202). -/
def LoopState.code : LoopState → Nat
  | .off => 0 | .opened => 1 | .closed => 2 | .held => 3 | .safe => 4

/-- The code of a frame class with the applied mark (R202). -/
def FrameClass.code : FrameClass → Nat
  | .none => 0 | .good => 1 | .late => 2 | .incomplete => 3

/-- The code of an actuator class (R199). -/
def ActClass.code : ActClass → Nat
  | .active => 0 | .frozen => 1 | .slaved => 2 | .dead => 3

/-- The actuator class of a code (R199). -/
def ActClass.ofCode? : Nat → Option ActClass
  | 0 => some .active | 1 => some .frozen | 2 => some .slaved | 3 => some .dead
  | _ => none

/-- The code of a role (R199). -/
def Role.code : Role → Nat
  | .solo => 0 | .head => 1 | .middle => 2 | .tail => 3

/-- The role of a code (R199). -/
def Role.ofCode? : Nat → Option Role
  | 0 => some .solo | 1 => some .head | 2 => some .middle | 3 => some .tail
  | _ => none

/-- 1 for true, 0 for false: the code of a state that is set or clear (R199). -/
def boolCode (b : Bool) : Nat := if b then 1 else 0

/-! ## Mirror-link frames (R200) -/

/-- A COMMAND frame (R148, R200). -/
def commandFrame (tag : Tag) (mark : PokeMark) (commands : List Int) : List Byte :=
  sealFrame (leBytes 1 1 ++ leBytes 1 0 ++ leBytes 2 tag.toNat ++ leBytes 2 mark.recordField ++ leBytes 1 mark.code
    ++ leBytes 1 0 ++ leBytes 2 commands.length ++ leBytes 2 0 ++ sle16s commands)

/-- A SHAPE frame (R149, R200). -/
def shapeFrame (number : Tag) (parks : List Int) : List Byte :=
  sealFrame (leBytes 1 2 ++ leBytes 1 0 ++ leBytes 2 number.toNat ++ leBytes 2 parks.length ++ leBytes 2 0
    ++ sle16s parks)

end Sys2Proof.Machine
end

