-- ==== Sys2Proof/Machine/Flags.lean ====
section
/-! DEFINITION. Frame flags, event sets and counter numbers: the bits and numbers that R193, R201 and R202 give them. -/

namespace Sys2Proof.Machine

/-- The bit of a frame flag (R202). -/
def FrameFlag.bit : FrameFlag → Nat
  | .slopeClamp => 0 | .slopesSubstituted => 1 | .slopesLost => 2 | .assemblyDeadline => 3 | .deliveryDeadline => 4
  | .corrupt => 5 | .residualSaturated => 6 | .saturated => 7 | .neighborLimited => 8 | .unresolvedPair => 9
  | .outputClamped => 10

/-- The context carries a frame flag. -/
def Context.hasFlag (x : Context) (f : FrameFlag) : Bool := x.flags.getLsbD f.bit

/-- The context with a frame flag set. -/
def Context.addFlag (x : Context) (f : FrameFlag) : Context := { x with flags := x.flags ||| (1#16 <<< f.bit) }

/-- The context with a frame flag set if a condition holds. -/
def Context.addFlagIf (x : Context) (b : Bool) (f : FrameFlag) : Context := if b then x.addFlag f else x

/-- The bit of an event in an event set (R201). -/
def Event.bit : Event → Nat
  | .lateFrame => 0 | .incompleteFrame => 1 | .packetDropped => 2 | .linkCrc => 3 | .linkDown => 4 | .lateInput => 5
  | .contextAbandoned => 6 | .bankSwapped => 7 | .matrixCorrected => 8 | .pokeDone => 9 | .pokeFault => 10
  | .telemetryTriggered => 11 | .telemetryFull => 12 | .starvationHold => 13
  | .port0Stopped => 16 | .port1Stopped => 17 | .matrixUncorrectable => 18 | .mirrorLinkLost => 19
  | .driverFault => 20 | .loopSafe => 21

/-- The set holding one event. -/
def Event.single (e : Event) : EventSet := 1#32 <<< e.bit

/-- An event is in a set. -/
def hasEvent (es : EventSet) (e : Event) : Bool := es.getLsbD e.bit

/-- Every event of the set is one that R190 lists (R201). -/
def knownEvents (es : EventSet) : Bool := es &&& ~~~(transientSet ||| fatalSet) == 0#32

/-- The fatal event of a stopped port (R8). -/
def portStopped : Ix → Event
  | .zero => .port0Stopped
  | .one => .port1Stopped

/-- The fatal events that join the later causes of a HELD snapshot (R154). -/
def joinsLaterCauses : Event → Bool
  | .port0Stopped | .port1Stopped | .matrixUncorrectable | .driverFault => true
  | _ => false

/-- The place of a port counter in its table (R19). -/
def PortCounter.place : PortCounter → Nat
  | .accepted => 0 | .headerErrors => 1 | .notRunning => 2 | .rangeErrors => 3 | .droppedFull => 4
  | .stoppedDiscard => 5 | .lateAtArrival => 6 | .noMatrix => 7 | .payloadErrors => 8 | .truncated => 9
  | .lateAtConsumption => 10 | .duplicates => 11 | .clamped => 12 | .missing => 13 | .substituted => 14
  | .lost => 15 | .linkDown => 16

/-- The number of a counter in the counters object: groups in the order of R193, each in the order of its table. -/
def Counter.number : Counter → Nat
  | .port p c => 17 * p.toNat + c.place
  | .contextsOpened => 34 | .assembled => 35 | .assemblyDeadlines => 36 | .lateAccumulations => 37
  | .deliveryDeadlines => 38 | .abandoned => 39 | .forcedByDisplacement => 40 | .lateSegments => 41
  | .outOfOrderDeliveries => 42
  | .swaps => 43 | .swapsCancelled => 44 | .loadsWritten => 45 | .loadsTimedOut => 46 | .readbacks => 47
  | .correctedBank => 48 | .correctedTelemetry => 49 | .correctedPoke => 50 | .uncorrectableColumn => 51
  | .uncorrectablePoke => 52 | .uncorrectableTelemetry => 53 | .uncorrectableReadback => 54
  | .receivedPartial => 55 | .receivedRequest => 56 | .receivedResponse => 57 | .receivedEvent => 58
  | .lengthErrors => 59 | .crcErrors => 60 | .unknownKind => 61 | .truncatedTi => 62 | .partialDiscarded => 63
  | .consumedRequests => 64 | .forwarded => 65 | .realtimeSent => 66 | .controlSent => 67 | .realtimeOverflow => 68
  | .controlOverflow => 69 | .transmitAborted => 70 | .tiLinkDown => 71 | .toLinkDown => 72
  | .malformedSegments => 73 | .mismatchedSegments => 74 | .passedThrough => 75 | .storedSegments => 76
  | .duplicateSegments => 77 | .contributingMerges => 78 | .ownBitPresent => 79 | .mixedSegments => 80
  | .forcedSegments => 81 | .goodFrames => 82 | .lateFrames => 83 | .lateByDeadline => 84 | .lateByDisplacement => 85
  | .lateByTag => 86 | .incompleteFrames => 87
  | .residualsComputed => 88 | .residualSaturatedFrames => 89 | .closedUpdates => 90 | .antiWindupClamps => 91
  | .bumplessLoads => 92 | .integratorResets => 93
  | .limitClamps => 94 | .unslaved => 95 | .slaveParked => 96 | .pokeIgnored => 97 | .pairsOutOfRange => 98
  | .deadPairs => 99 | .limitedPairs => 100 | .unresolvedPairs => 101 | .outputClamps => 102 | .commandsBuilt => 103
  | .safeEntries => 104 | .starvationHolds => 105 | .commandSent => 106 | .shapeSent => 107 | .superseded => 108
  | .unsent => 109 | .mlTransmitAborted => 110 | .mlLinkDown => 111 | .missedEchoes => 112 | .echoesOk => 113
  | .echoErrors => 114 | .unknownEchoes => 115 | .driverFaults => 116 | .mirrorLinkLost => 117
  | .sequencesStarted => 118 | .sequencesDone => 119 | .sequencesStopped => 120 | .sequencesAborted => 121
  | .pokeFaults => 122 | .illFormedRecords => 123 | .recordsCompleted => 124 | .withheldFrames => 125
  | .recordReadbackErrors => 126
  | .recordsWritten => 127 | .telemetryDropped => 128 | .overwritten => 129 | .refusedFull => 130 | .triggers => 131
  | .recordsRead => 132 | .mediaDiscarded => 133
  | .requestsAccepted => 134 | .requestsRefused => 135 | .busy => 136 | .stagedFull => 137 | .stagedPlaced => 138
  | .stagedDrained => 139 | .timedOut => 140 | .eventFrames => 141

/-- The number of counters of the node. -/
def counterCount : Nat := 142

end Sys2Proof.Machine
end

