-- ==== Sys2Proof/Machine/Ops.lean ====
section
/-! DEFINITION. The operations that every block shares: reading and replacing a block's part of the state, counters, the TO
queues and their transmitter, responses, the raising and reporting of events, and the Memory Arbiter with the stacked DRAM. -/

namespace Sys2Proof.Machine

/-! ## Parts of the state -/

/-- Context `c`. -/
def State.ctx (s : State) (c : Ix) : Context := s.frames.ctxs.get c

/-- The state with context `c` replaced. -/
def State.setCtx (s : State) (c : Ix) (x : Context) : State :=
  { s with frames := { s.frames with ctxs := s.frames.ctxs.set c x } }

/-- Port `p`. -/
def State.port (s : State) (p : Ix) : Port := s.ports.get p

/-- The state with port `p` replaced. -/
def State.setPort (s : State) (p : Ix) (x : Port) : State := { s with ports := s.ports.set p x }

/-- Bank `b`. -/
def State.bank (s : State) (b : Ix) : Bank := s.bankStore.banks.get b

/-- The state with bank `b` replaced. -/
def State.setBank (s : State) (b : Ix) (x : Bank) : State :=
  { s with bankStore := { s.bankStore with banks := s.bankStore.banks.set b x } }

/-- The state with another Memory Arbiter. -/
def State.setArbiter (s : State) (a : Arbiter) : State := { s with arbiter := a }

/-- The timebase (R20). -/
def State.now (s : State) : Time := s.frames.timebase

/-- The node is a tail: its role is TAIL or SOLO (00_scope.md section 2.3). -/
def State.isTail (s : State) : Bool := s.params.role == .tail || s.params.role == .solo

/-- A context is open in every state but FREE (R23). -/
def Context.isOpen (x : Context) : Bool := x.state != .free

/-- Some context is open. -/
def State.anyOpen (s : State) : Bool := (s.ctx .zero).isOpen || (s.ctx .one).isOpen

/-- The number of the LIVE bank, if there is one (R42). -/
def State.liveBank? (s : State) : Option Ix :=
  if (s.bank .zero).state = .live then some .zero
  else if (s.bank .one).state = .live then some .one
  else none

/-- A bank is in use when it is LIVE or when its use count is above 0 (R41). -/
def Bank.inUse (b : Bank) : Bool := b.state == .live || 0 < b.useCount

/-- An event is pending; for a fatal event, it is latched (R190). -/
def State.isPending (s : State) (e : Event) : Bool := hasEvent s.events.pending e

/-- Slopes of the node: N0 + N1 (R1). -/
def State.slopeTotal (s : State) : Nat := (s.port .zero).config.slopeCount + (s.port .one).config.slopeCount

/-- The port that owns local slope index `i` (R1); an index of N0 + N1 or above goes with port 1 (R16). -/
def State.ownerOf (s : State) (i : Nat) : Ix := if i < (s.port .zero).config.slopeCount then .zero else .one

/-- The local slope index of port-relative index `k` (R1). -/
def State.localIndex (s : State) (p : Ix) (k : Nat) : Nat :=
  match p with
  | .zero => k
  | .one => (s.port .zero).config.slopeCount + k

/-- Segments of a frame at this node: G (00_scope.md section 3.3). -/
def State.segments (s : State) : Nat := segmentCount s.params.actuators

/-! ## Counters -/

/-- The value of a counter. -/
def State.counter (s : State) (c : Counter) : Nat := s.counters.get c.number

/-- A counter counts `n` occurrences; it saturates at 4294967295 (00_scope.md section 5.6). -/
def State.bumpBy (s : State) (c : Counter) (n : Nat) : State :=
  { s with counters := s.counters.set c.number (min (s.counters.get c.number + n) Config.counterMax) }

/-- A counter counts one occurrence. -/
def State.bump (s : State) (c : Counter) : State := s.bumpBy c 1

/-- A counter counts one occurrence if a condition holds. -/
def State.bumpIf (s : State) (b : Bool) (c : Counter) : State := if b then s.bump c else s

/-! ## The TO queues and transmitter (R67 to R71) -/

/-- A grant: with TO UP and the transmitter idle, the oldest realtime frame is taken, otherwise the oldest control frame (R70). -/
def State.grantTo (s : State) : State :=
  if s.trunk.toUp && s.trunk.sending.isNone then
    match s.trunk.realtime, s.trunk.control with
    | f :: rest, _ => { s with trunk := { s.trunk with realtime := rest, sending := some ⟨f, true⟩ } }
    | [], f :: rest => { s with trunk := { s.trunk with control := rest, sending := some ⟨f, false⟩ } }
    | [], [] => s
  else s

/-- A frame joins the control queue, or is discarded and counted where the queue holds 16 (R68, R69). -/
def State.placeControl (s : State) (f : ToFrame) : State :=
  if Config.controlCapacity ≤ s.trunk.control.length then s.bump .controlOverflow
  else State.grantTo { s with trunk := { s.trunk with control := s.trunk.control ++ [f] } }

/-- A segment's frame joins the realtime queue; a queue of 24 first loses its oldest (R67). -/
def State.placeRealtime (s : State) (bytes : List Byte) : State :=
  let full := Config.realtimeCapacity ≤ s.trunk.realtime.length
  let kept := if full then s.trunk.realtime.drop 1 else s.trunk.realtime
  State.grantTo
    (State.bumpIf { s with trunk := { s.trunk with realtime := kept ++ [⟨bytes, false⟩] } } full .realtimeOverflow)

/-- The RESPONSE frame of this node to a request (R62, R182, R199). -/
def State.responseFrame (s : State) (r : Request) (st : Status) (effective : Option Tag) (body : List Byte) : List Byte :=
  trunkFrame 3 s.nodeNumber.toNat adapterAddress (responsePayload r st effective body)

/-- A response is made: it is placed in the control queue at that moment (R189). -/
def State.respond (s : State) (r : Request) (st : Status) (effective : Option Tag) (body : List Byte) : State :=
  s.placeControl ⟨s.responseFrame r st effective body, false⟩

/-! ## Events (R190, R191, R177) -/

/-- The reportable events: pending and enabled and, if fatal, not yet reported; while the Poke Engine runs, critical (R191). -/
def State.reportable (s : State) : EventSet :=
  let base := s.events.pending &&& s.events.enabled &&& ~~~(s.events.reported &&& fatalSet)
  if s.poke.isSome then base &&& s.events.critical else base

/-- The EVENT frame that reports a set (R191, R199). -/
def State.eventFrame (s : State) (reported : EventSet) : List Byte :=
  trunkFrame 4 s.nodeNumber.toNat adapterAddress
    (leBytes 2 s.events.frameNumber.toNat ++ leBytes 2 0 ++ leBytes 4 s.now.toNat ++ leBytes 4 reported.toNat
      ++ leBytes 4 (s.events.pending &&& fatalSet).toNat)

/-- An EVENT frame is placed: transient events of the reported set leave pending, fatal ones get their reported mark, and
the holdoff restarts; with holdoff 0 it has expired at once (R191). -/
def State.placeEvent (s : State) : State :=
  let rep := s.reportable
  let s1 := s.placeControl ⟨s.eventFrame rep, false⟩
  let ev := { s1.events with
    pending := s1.events.pending &&& ~~~(rep &&& transientSet)
    reported := s1.events.reported ||| (rep &&& fatalSet)
    frameNumber := s1.events.frameNumber + 1
    holdoff := if s1.params.eventHoldoff = 0 then none else some s1.now }
  State.bump { s1 with events := ev } .eventFrames

/-- The report test (R191). No EVENT frame is placed while a NODE RESET waits to begin (R195). -/
def State.reportTest (s : State) : State :=
  if s.events.reportEnable && s.events.holdoff.isNone && s.mgmt.reset == .none && s.reportable != 0#32 then s.placeEvent
  else s

/-- An event's indication is set. -/
def State.setPending (s : State) (e : Event) : State :=
  { s with events := { s.events with pending := s.events.pending ||| e.single } }

/-- A fatal event newly latched while the snapshot is HELD joins its later causes (R154). -/
def State.joinLaterCauses (s : State) (e : Event) : State :=
  if joinsLaterCauses e && s.loop.snapshotState == .held then
    { s with loop := { s.loop with snapshot := s.loop.snapshot.map (fun n => { n with later := n.later ||| e.single }) } }
  else s

/-- An event that passes from clear to pending triggers the capture (R177). With post-trigger count 0 the capture freezes
at once and TELEMETRY_TRIGGERED becomes pending with it. -/
def State.triggerCapture (s : State) (e : Event) : State :=
  if s.telemetry.state == .running && hasEvent s.telemetry.config.triggerMask e then
    let s1 := s.bump .triggers
    if s.telemetry.config.postTrigger = 0 then
      State.setPending { s1 with telemetry := { s1.telemetry with state := .frozen, remaining := 0 } } .telemetryTriggered
    else
      { s1 with telemetry :=
          { s1.telemetry with state := .triggered, remaining := s.telemetry.config.postTrigger } }
  else s

/-- A block raises an event: its indication or latch is set, a passing from clear to set may trigger the capture and join
the snapshot's later causes, and the report test is made (R190, R177, R154, R191). -/
def State.raise (s : State) (e : Event) : State :=
  let s1 := s.setPending e
  let s2 := if s.isPending e then s1 else (s1.joinLaterCauses e).triggerCapture e
  s2.reportTest

/-! ## Memory Arbiter (R57, R58) -/

/-- A burst joins the end of its requester's queue. -/
def Arbiter.push (a : Arbiter) (b : Burst) : Arbiter :=
  match b.job with
  | .columnFetch _ _ _ _ => { a with columnFetch := a.columnFetch ++ [b] }
  | .pokeFetch _ => { a with pokeFetch := a.pokeFetch ++ [b] }
  | .telemetryWrite => { a with telemetryWrite := a.telemetryWrite ++ [b] }
  | .telemetryRead _ => { a with telemetryRead := a.telemetryRead ++ [b] }
  | .loadColumn | .readback | .pokeRecordWrite | .pokeRecordRead => { a with management := a.management ++ [b] }

/-- The oldest burst of the highest-priority queue that holds one, and the arbiter without it. -/
def Arbiter.takeNext (a : Arbiter) : Option (Burst × Arbiter) :=
  match a.columnFetch with
  | b :: q => some (b, { a with columnFetch := q })
  | [] =>
  match a.pokeFetch with
  | b :: q => some (b, { a with pokeFetch := q })
  | [] =>
  match a.telemetryWrite with
  | b :: q => some (b, { a with telemetryWrite := q })
  | [] =>
  match a.telemetryRead with
  | b :: q => some (b, { a with telemetryRead := q })
  | [] =>
  match a.management with
  | b :: q => some (b, { a with management := q })
  | [] => none

/-- Queued bursts whose job satisfies `p` leave the arbiter; such a burst in progress completes for nobody (R57, R54). -/
def Arbiter.withdraw (a : Arbiter) (p : BurstJob → Bool) : Arbiter where
  columnFetch := a.columnFetch.filter (fun b => !p b.job)
  pokeFetch := a.pokeFetch.filter (fun b => !p b.job)
  telemetryWrite := a.telemetryWrite.filter (fun b => !p b.job)
  telemetryRead := a.telemetryRead.filter (fun b => !p b.job)
  management := a.management.filter (fun b => !p b.job)
  inProgress := a.inProgress.map (fun b => if p b.job then { b with dropped := true } else b)

/-- A job of the column-fetch requester. -/
def BurstJob.isColumn : BurstJob → Bool
  | .columnFetch _ _ _ _ => true
  | _ => false

/-- A job of the poke-fetch requester. -/
def BurstJob.isPoke : BurstJob → Bool
  | .pokeFetch _ => true
  | _ => false

/-- A job of the telemetry-write requester. -/
def BurstJob.isTelemetryWrite : BurstJob → Bool
  | .telemetryWrite => true
  | _ => false

/-- A job of the telemetry-read requester. -/
def BurstJob.isTelemetryRead : BurstJob → Bool
  | .telemetryRead _ => true
  | _ => false

/-- A job of a request in execution: the telemetry-read and the management-transfer requesters. -/
def BurstJob.isRequest : BurstJob → Bool
  | .telemetryRead _ | .loadColumn | .readback | .pokeRecordWrite | .pokeRecordRead => true
  | _ => false

/-- The state after bursts have been withdrawn. -/
def State.withdraw (s : State) (p : BurstJob → Bool) : State := s.setArbiter (s.arbiter.withdraw p)

/-- The first burst of the request in execution is granted: its watchdog can no longer withdraw it (R188). -/
def State.markBegun (s : State) : State :=
  { s with mgmt := { s.mgmt with executing := s.mgmt.executing.map (fun e => { e with begun := true }) } }

/-- The write of a LOAD COLUMN begins: a READY bank becomes LOADING (R45). -/
def State.beginLoad (s : State) : State :=
  match s.mgmt.executing with
  | some ⟨_, _, _, _, .loadColumn b _ _ _⟩ =>
    if (s.bank b).state = .ready then s.setBank b { s.bank b with state := .loading } else s
  | _ => s

/-- What the grant of a burst changes besides the arbiter. -/
def State.beginBurst (s : State) (j : BurstJob) : State :=
  match j with
  | .loadColumn => s.markBegun.beginLoad
  | .telemetryRead _ | .readback | .pokeRecordWrite | .pokeRecordRead => s.markBegun
  | _ => s

/-- A grant: with the DRAM idle, the oldest burst of the highest-priority queue that holds one begins (R58). -/
def State.grantDram (s : State) : State :=
  match s.arbiter.inProgress with
  | some _ => s
  | none =>
    match s.arbiter.takeNext with
    | none => s
    | some (b, a) => (s.setArbiter { a with inProgress := some b }).beginBurst b.job

/-- Bursts join their requesters' queues in the order given; a burst that joins while the DRAM is idle is granted (R58). -/
def State.queueBursts (s : State) (bs : List Burst) : State :=
  (s.setArbiter (bs.foldl Arbiter.push s.arbiter)).grantDram

/-- The burst in progress, if it satisfies `p`, and the state in which the DRAM has completed it. -/
def State.takeBurst (s : State) (p : Burst → Bool) : Option (Burst × State) :=
  match s.arbiter.inProgress with
  | some b => if p b then some (b, s.setArbiter { s.arbiter with inProgress := none }) else none
  | none => none

/-- The bursts of a run of (address, length) places for one job, the last of them marked last. -/
def readBursts (job : BurstJob) : List (Nat × Nat) → List Burst
  | [] => []
  | [(a, n)] => [⟨job, a, n, [], true, false⟩]
  | (a, n) :: rest => ⟨job, a, n, [], false, false⟩ :: readBursts job rest

/-- The bursts that write a run of (address, bytes) places for one job, the last of them marked last. -/
def writeBursts (job : BurstJob) : List (Nat × List Byte) → List Burst
  | [] => []
  | [(a, d)] => [⟨job, a, d.length, d, true, false⟩]
  | (a, d) :: rest => ⟨job, a, d.length, d, false, false⟩ :: writeBursts job rest

/-! ## The stacked DRAM (R38, R39) -/

/-- The bytes that the DRAM holds from an address on; a byte that nothing has written is a free value (log entry 6). -/
def State.dramBytes (s : State) (a n : Nat) : List Byte :=
  (List.range n).map (fun k => (s.dram.memory.read? (a + k)).getD (Config.dramByte s.dram.epoch (a + k)))

/-- The codewords of a burst. -/
def codewordsOf (a n : Nat) : List Nat := (List.range (ceilDiv n 8)).map (fun k => a / 8 + k)

/-- A write replaces whole codewords with fresh check bits, and so clears any error they held (R39). -/
def State.dramWrite (s : State) (a : Nat) (bytes : List Byte) : State :=
  { s with dram := { s.dram with
      memory := s.dram.memory.writeRun a bytes
      errors := (codewordsOf a bytes.length).foldl (fun t k => t.set k .clean) s.dram.errors } }

/-- The worse of two error states. -/
def CodewordState.worse : CodewordState → CodewordState → CodewordState
  | .double, _ | _, .double => .double
  | .single, _ | _, .single => .single
  | .clean, .clean => .clean

/-- Upsets that have struck the DRAM; an error stays until its codeword is written (R39, log entry 7). -/
def State.strike (s : State) (ks : List Strike) : State :=
  { s with dram := { s.dram with
      errors := ks.foldl (fun t k => t.set k.codeword ((t.get k.codeword).worse (if k.double then .double else .single)))
        s.dram.errors } }

/-- The place of a byte address as the last uncorrectable location gives it (R39). -/
def placeOf (a : Nat) : DramPlace :=
  if a < Config.bankBytes then .bank .zero (a / Config.columnStride) (a % Config.columnStride / 1024)
  else if a < Config.telemetryBase then
    .bank .one ((a - Config.bankBytes) / Config.columnStride) ((a - Config.bankBytes) % Config.columnStride / 1024)
  else if a < Config.pokeBase then .telemetry (a - Config.telemetryBase)
  else .poke (a - Config.pokeBase)

/-- The corrected-codeword counter of an area (R39, R60). -/
def DramPlace.correctedCounter : DramPlace → Counter
  | .bank _ _ _ => .correctedBank
  | .telemetry _ => .correctedTelemetry
  | .poke _ => .correctedPoke

/-- The counter of an uncorrectable burst of a requester (R39, R60; a record readback counts at the Poke Engine, R158). -/
def BurstJob.uncorrectableCounter? : BurstJob → Option Counter
  | .columnFetch _ _ _ _ => some .uncorrectableColumn
  | .pokeFetch _ => some .uncorrectablePoke
  | .telemetryRead _ => some .uncorrectableTelemetry
  | .readback => some .uncorrectableReadback
  | .pokeRecordRead => some .recordReadbackErrors
  | .telemetryWrite | .loadColumn | .pokeRecordWrite => none

/-- `n` single-bit errors are corrected one by one: each is counted and raises MATRIX_CORRECTED (R39). -/
def State.correct (s : State) (c : Counter) : Nat → State
  | 0 => s
  | n + 1 => State.correct ((s.bump c).raise .matrixCorrected) c n

/-- An uncorrectable burst is counted once and its place becomes the last uncorrectable location (R39). -/
def State.noteUncorrectable (s : State) (b : Burst) : State :=
  let s1 := match b.job.uncorrectableCounter? with
    | some c => s.bump c
    | none => s
  { s1 with bankStore := { s1.bankStore with lastBad := some (placeOf b.address, s1.now) } }

/-- The burst holds a codeword with a double-bit error. -/
def State.burstFails (s : State) (b : Burst) : Bool :=
  (codewordsOf b.address b.length).any (fun k => s.dram.errors.get k == .double)

/-- A read burst is checked codeword by codeword (R39). -/
def State.checkRead (s : State) (b : Burst) : State :=
  let singles := (codewordsOf b.address b.length).countP (fun k => s.dram.errors.get k == .single)
  let s1 := s.correct (placeOf b.address).correctedCounter singles
  if s.burstFails b then s1.noteUncorrectable b else s1

/-- A write burst that completes stores its bytes (R45, R174, R158); a read burst stores nothing. -/
def State.storeBurst (s : State) (b : Burst) : State :=
  if b.data.isEmpty then s else s.dramWrite b.address b.data

end Sys2Proof.Machine
end

