-- ==== Sys2Proof/Machine/Capture.lean ====
section
/-! DEFINITION. The Telemetry Unit: records, the ring in the telemetry area, the offer of a finished frame, commit, drop and
room (chapter 10), with the release of a context (R23). -/

namespace Sys2Proof.Machine

/-! ## Release of a context -/

/-- A context is released to FREE and its bank's use count falls by one (R23, R42). -/
def State.release (s : State) (c : Ix) : State :=
  let x := s.ctx c
  if x.state = .free then s
  else
    let b := s.bank x.bank
    (s.setBank x.bank { b with useCount := b.useCount - 1 }).setCtx c Context.free

/-! ## The record (R170, R171, R202) -/

/-- The sections that the content mask selects and the frame can supply: slope, residual, command (R171). -/
def State.recordSections (s : State) (x : Context) : Bool × Bool × Bool :=
  let f := s.telemetry.config
  (f.slopeSection, f.residualSection && s.isTail, f.commandSection && s.isTail && x.applied)

/-- The bytes of the sections of a frame's record, in order (R171). -/
def State.sectionBytes (s : State) (x : Context) : List Byte :=
  let sec := s.recordSections x
  (if sec.1 then (List.range s.slopeTotal).flatMap (fun i => sle16 (x.slopes.get i)) else [])
    ++ (if sec.2.1 then x.residuals.flatMap (fun e => sle16 (clampInt (-32768) 32767 e)) else [])
    ++ (if sec.2.2 then sle16s x.commands else [])

/-- The length in units of a frame's record: its header of 32 bytes and its sections, padded to a whole unit (R171). -/
def State.recordUnits (s : State) (x : Context) : Nat := ceilDiv (32 + (s.sectionBytes x).length) 32

/-- The header of a frame's record (R170, R202). -/
def State.recordHeader (s : State) (x : Context) (number : BitVec 32) : List Byte :=
  let sec := s.recordSections x
  leBytes 4 number.toNat ++ leBytes 2 (s.recordUnits x)
    ++ leBytes 1 (boolCode sec.1 + 2 * boolCode sec.2.1 + 4 * boolCode sec.2.2 + 128 * x.bank.toNat)
    ++ leBytes 1 (x.cls.code + 128 * boolCode x.applied) ++ leBytes 2 x.tag.toNat
    ++ leBytes 1 x.finishLoop.code ++ leBytes 1 x.poke.code
    ++ leBytes 4 x.openTime.toNat ++ leBytes 4 x.finishTime.toNat ++ leBytes 2 x.flags.toNat
    ++ leBytes 1 x.frameMask.toNat ++ leBytes 1 x.segFlags.toNat ++ leBytes 2 x.label.toNat
    ++ leBytes 2 s.slopeTotal ++ leBytes 2 s.params.actuators ++ leBytes 2 x.poke.recordField

/-- The record of a frame, whole (R202, R203). -/
def State.recordBytes (s : State) (x : Context) (number : BitVec 32) : List Byte :=
  let body := s.recordHeader x number ++ s.sectionBytes x
  body ++ List.replicate (32 * s.recordUnits x - body.length) 0#8

/-! ## The ring (R168) -/

/-- Units of the ring. -/
def Telemetry.ringSize (t : Telemetry) : Nat := t.config.ringEnd - t.config.ringStart

/-- Number of whole records held. -/
def Telemetry.recordCount (t : Telemetry) : Nat := t.lengths.length

/-- Units occupied by the held records. -/
def Telemetry.heldSize (t : Telemetry) : Nat := t.lengths.sum

/-- Ring size minus held size. -/
def Telemetry.freeSize (t : Telemetry) : Nat := t.ringSize - t.heldSize

/-- The unit `n` units after unit `u` of the ring: the unit after end - 1 is start. -/
def Telemetry.advance (t : Telemetry) (u n : Nat) : Nat :=
  t.config.ringStart + (u - t.config.ringStart + n) % t.ringSize

/-- The ring emptied: positions at start, no record held. -/
def Telemetry.emptied (t : Telemetry) : Telemetry :=
  { t with readPos := t.config.ringStart, writePos := t.config.ringStart, lengths := [] }

/-- The bursts of up to 1 KiB that cover `n` bytes of the ring from unit `u` on; a burst ends at the ring's end (R174, R178). -/
def ringPlaces (ringStart ringEnd : Nat) : Nat → Nat → Nat → List (Nat × Nat)
  | 0, _, _ => []
  | fuel + 1, u, n =>
    let m := min (min 1024 n) (32 * (ringEnd - u))
    if m = 0 then []
    else
      let u' := u + m / 32
      (Config.telemetryBase + 32 * u, m) :: ringPlaces ringStart ringEnd fuel (if u' = ringEnd then ringStart else u') (n - m)

/-- The places in DRAM of a record of `units` units that begins at unit `u`. -/
def Telemetry.places (t : Telemetry) (u units : Nat) : List (Nat × Nat) :=
  ringPlaces t.config.ringStart t.config.ringEnd (units + 1) u (32 * units)

/-- A byte string laid over places. -/
def spread : List (Nat × Nat) → List Byte → List (Nat × List Byte)
  | [], _ => []
  | (a, n) :: rest, bs => (a, bs.take n) :: spread rest (bs.drop n)

/-! ## Reads by request (R178, R179) -/

/-- The body of a READ TELEMETRY response (R199). -/
def telemetryBody (records : List ChosenRecord) : List Byte :=
  leBytes 2 records.length ++ leBytes 2 0 ++ records.flatMap ChosenRecord.data

/-- The ring without its `n` oldest records. -/
def Telemetry.dropOldest (t : Telemetry) (n : Nat) : Telemetry :=
  { t with readPos := t.advance t.readPos (t.lengths.take n).sum, lengths := t.lengths.drop n }

/-- The request in execution leaves execution. -/
def State.leaveExecution (s : State) : State := { s with mgmt := { s.mgmt with executing := none } }

/-- A discarded record leaves the choice of a READ TELEMETRY in execution; a read whose choice becomes empty has nothing
left to read and is answered DONE without a record (R178, log entry 11). -/
def State.forgetChosen (s : State) (unit : Nat) : State :=
  match s.mgmt.executing with
  | some ⟨r, t0, w, b, .readTelemetry chosen⟩ =>
    if chosen.any (fun k => k.unit == unit) then
      let rest := chosen.filter (fun k => k.unit != unit)
      let s1 := s.withdraw (fun j => j == .telemetryRead unit)
      if rest.isEmpty then s1.leaveExecution.respond r .done none (telemetryBody [])
      else { s1 with mgmt := { s1.mgmt with executing := some ⟨r, t0, w, b, .readTelemetry rest⟩ } }
    else s
  | _ => s

/-- The oldest held record is discarded in WRAP mode (R175). -/
def State.discardOldest (s : State) : State :=
  let unit := s.telemetry.readPos
  State.forgetChosen (State.bump { s with telemetry := s.telemetry.dropOldest 1 } .overwritten) unit

/-- While the free size is below the size of the largest record, the oldest held record is discarded (R175). -/
def State.makeRoom (s : State) : Nat → State
  | 0 => s
  | n + 1 => if s.telemetry.freeSize < Config.largestRecord then (s.discardOldest).makeRoom n else s

/-! ## Writing records (R173 to R177) -/

/-- A record write in flight is given up without being counted: its bursts not yet granted leave the queue, and its context
is released (R172). -/
def State.withdrawRecord (s : State) : State :=
  match s.telemetry.inFlight with
  | none => s
  | some w =>
    let s1 := s.withdraw BurstJob.isTelemetryWrite
    State.release { s1 with telemetry := { s1.telemetry with inFlight := none } } w.ctx

/-- A record still in flight is dropped and counted (R176). -/
def State.dropRecord (s : State) : State :=
  if s.telemetry.inFlight.isSome then s.withdrawRecord.bump .telemetryDropped else s

/-- The decimation phase after an offer (R173). -/
def Telemetry.nextPhase (t : Telemetry) : Nat := if t.phase + 1 < t.config.decimation then t.phase + 1 else 0

/-- The write of a due record begins, or is refused for want of room in STOP mode (R174, R175). -/
def State.beginRecord (s : State) (c : Ix) (number : BitVec 32) : State :=
  let x := s.ctx c
  let units := s.recordUnits x
  if s.telemetry.config.fullMode = .stop ∧ s.telemetry.freeSize < units then
    let s1 : State := { s with telemetry := { s.telemetry with state := .stopped } }
    ((s1.raise .telemetryFull).bump .refusedFull).release c
  else
    let bytes := s.recordBytes x number
    let s1 : State := { s with telemetry := { s.telemetry with inFlight := some ⟨c, units⟩ } }
    s1.queueBursts (writeBursts .telemetryWrite (spread (s.telemetry.places s.telemetry.writePos units) bytes))

/-- A finished frame is offered (R173): decimation decides whether a record is due; a frame without a record is released. -/
def State.offer (s : State) (c : Ix) : State :=
  let t := s.telemetry
  if t.state = .running ∨ t.state = .triggered then
    let s1 : State := { s with telemetry := { t with phase := t.nextPhase } }
    if t.phase = 0 then
      let s2 : State := { s1 with telemetry := { s1.telemetry with nextRecord := t.nextRecord + 1 } }
      s2.dropRecord.beginRecord c t.nextRecord
    else s1.release c
  else s.release c

/-- A committed record counts toward the post-trigger count in TRIGGERED; the last one freezes the capture (R174, R177). -/
def State.countPostTrigger (s : State) : State :=
  let t := s.telemetry
  if t.state = .triggered then
    if t.remaining ≤ 1 then
      State.raise { s with telemetry := { t with remaining := 0, state := .frozen } } .telemetryTriggered
    else { s with telemetry := { t with remaining := t.remaining - 1 } }
  else s

/-- The record in flight is committed: the ring takes it in, room is made in WRAP mode, and its context is released (R174). -/
def State.commitRecord (s : State) (w : RecordWrite) : State :=
  let t := s.telemetry
  let s1 : State := { s with telemetry :=
    { t with writePos := t.advance t.writePos w.units, lengths := t.lengths ++ [w.units], inFlight := none } }
  let s2 := (s1.bump .recordsWritten).countPostTrigger
  let s3 := if s2.telemetry.config.fullMode = .wrap then s2.makeRoom s2.telemetry.lengths.length else s2
  s3.release w.ctx

/-- A DONE context is released early: a record of it in flight is dropped and counted (R30, R176). -/
def State.releaseEarly (s : State) (c : Ix) : State :=
  match s.telemetry.inFlight with
  | some w => if w.ctx = c then s.dropRecord.release c else s.release c
  | none => s.release c

/-- A context becomes DONE: its deadlines are cancelled, the newest-delivered tag is brought up to date, and the frame is
offered to the Telemetry Unit (R36). -/
def State.contextDone (s : State) (c : Ix) : State :=
  let x := s.ctx c
  let newer := tagNewerThan x.tag s.frames.newestDelivered
  let s1 := s.setCtx c { x with state := .done, asmRunning := false, delRunning := false, finishTime := s.now }
  let s2 : State := if newer then { s1 with frames := { s1.frames with newestDelivered := some x.tag } }
    else s1.bump .outOfOrderDeliveries
  s2.offer c

end Sys2Proof.Machine
end

