-- ==== Sys2Proof/Machine/Staging.lean ====
section
/-! DEFINITION. Staged writes taking effect: the tables they overwrite, the hold entries they zero, the limit clamp, the
effective classes, and the two drains (R28, R118 to R120, R187). -/

namespace Sys2Proof.Machine

/-! ## Slope side -/

/-- Hold entry `i`; an entry that is not listed is zeroed: value 0, age at the hold limit of its owner (R16). -/
def State.holdEntry (s : State) (i : Nat) : HoldEntry :=
  (s.engine.hold.get i).getD ⟨0, (s.port (s.ownerOf i)).config.holdLimit⟩

/-- Every hold entry is zeroed (R16). -/
def State.zeroHold (s : State) : State := { s with engine := { s.engine with hold := Table.blank } }

/-- The hold entries of one port are zeroed (R16). -/
def State.zeroHoldOf (s : State) (p : Ix) : State :=
  { s with engine := { s.engine with hold := s.engine.hold.clearWhere (fun i => s.ownerOf i == p) } }

/-- A port's policy and hold limit take effect together; a change of either zeroes the port's hold entries (R16, R28). -/
def State.applyPolicy (s : State) (p : Ix) (policy : Option MissingPolicy) (limit : Option Nat) : State :=
  let x := s.port p
  let f := { x.config with policy := policy.getD x.config.policy, holdLimit := limit.getD x.config.holdLimit }
  let s1 := s.setPort p { x with config := f }
  if f.policy = x.config.policy ∧ f.holdLimit = x.config.holdLimit then s1 else s1.zeroHoldOf p

/-! ## Actuator side -/

/-- Actuator entry `j` in effect. -/
def State.actuator (s : State) (j : Nat) : ActuatorEntry := s.tables.actuators.get j

/-- The integrator state that stands for `v` LSB: 16 fraction bits (R100). -/
def toState (v : Int) : Int := v * 65536

/-- A change of an actuator's limits clamps its integrator state at once, and counts where that changes it (R120). -/
def State.limitClamp (s : State) (j : Nat) (old new : ActuatorEntry) : State :=
  if old.lo = new.lo ∧ old.hi = new.hi then s
  else
    let x := s.tables.integrators.get j
    let x' := clampInt (toState new.lo) (toState new.hi) x
    if x' = x then s
    else State.bump { s with tables := { s.tables with integrators := s.tables.integrators.set j x' } } .limitClamps

/-- One actuator entry takes effect (R114, R120). -/
def State.putActuator (s : State) (j : Nat) (e : ActuatorEntry) : State :=
  let old := s.actuator j
  State.limitClamp { s with tables := { s.tables with actuators := s.tables.actuators.set j e } } j old e

/-- A run of actuator entries takes effect. -/
def State.putActuators (s : State) (j : Nat) : List ActuatorEntry → State
  | [] => s
  | e :: es => (s.putActuator j e).putActuators (j + 1) es

/-- The rank of a class in the order of restriction: DEAD, FROZEN, SLAVED, ACTIVE, most restrictive first (R116). -/
def ActClass.rank : ActClass → Nat
  | .active => 0 | .slaved => 1 | .frozen => 2 | .dead => 3

/-- The more restrictive of two classes. -/
def ActClass.stricter (a b : ActClass) : ActClass := if a.rank < b.rank then b else a

/-- An enabled override range covers actuator `j` (R115). -/
def OverrideRange.covers (r : OverrideRange) (j : Nat) : Bool :=
  r.enabled && (r.first ≤ j && j < r.first + r.count)

/-- The effective class of actuator `j` by the tables in effect (R116). -/
def Tables.classOf (t : Tables) (j : Nat) : ActClass :=
  (List.range 8).foldl (fun c k => if (t.overrides.get k).covers j then c.stricter (t.overrides.get k).cls else c)
    (t.actuators.get j).cls

/-- The effective-class array computed anew (R116). -/
def State.recomputeClasses (s : State) : State :=
  { s with tables := { s.tables with effective := Table.build Config.maxActuators s.tables.classOf } }

/-- The effective class of actuator `j`, as the array holds it. -/
def State.classOf (s : State) (j : Nat) : ActClass := s.tables.effective.get j

/-! ## Taking effect -/

/-- One slope-side write takes effect: it overwrites the table entries it names (R28). -/
def State.applySlope (s : State) : SlopeWrite → State
  | .references k vs => { s with engine := { s.engine with refs := s.engine.refs.setRun k vs } }
  | .portPolicy p policy limit => s.applyPolicy p policy limit

/-- An override range after a write of it: the range written, or, written with enabled no, the range as it was but for enabled
(R115; DEDUCED, log entry 42). -/
def OverrideRange.rewritten (old new : OverrideRange) : OverrideRange := if new.enabled then new else { old with enabled := false }

/-- The override ranges from `k` on after a write of a run of them. -/
def Tables.rewrittenRanges (t : Tables) (k : Nat) (rs : List OverrideRange) : List OverrideRange :=
  (rs.zipIdx k).map (fun x => (t.overrides.get x.2).rewritten x.1)

/-- One actuator-side write takes effect: it overwrites the table entries it names (R118), an override range as R115 says. -/
def State.applyActuator (s : State) : ActuatorWrite → State
  | .actuatorEntries j es => s.putActuators j es
  | .gainProfiles k gs => { s with tables := { s.tables with gains := s.tables.gains.setRun k gs } }
  | .overrideRanges k rs =>
    { s with tables := { s.tables with overrides := s.tables.overrides.setRun k (s.tables.rewrittenRanges k rs) } }
  | .slaveRecords k rs => { s with tables := { s.tables with slaves := s.tables.slaves.setRun k rs } }
  | .neighbourPairs n k ps =>
    { s with tables := { s.tables with pairCount := n, pairs := s.tables.pairs.setRun k ps } }
  | .openShape k vs => { s with tables := { s.tables with openShape := s.tables.openShape.setRun k vs } }

/-- The write has an effect on the effective classes: actuator entries and override ranges (R116). -/
def ActuatorWrite.changesClasses : ActuatorWrite → Bool
  | .actuatorEntries _ _ | .overrideRanges _ _ => true
  | _ => false

/-- The entries of a drain take effect oldest first, each answered DONE as it does (R187). -/
def State.drainEntries {α : Type} (apply : State → α → State) (effective : Option Tag) (s : State) :
    List (StagedEntry α) → State
  | [] => s
  | e :: es =>
    State.drainEntries apply effective
      (((apply s e.write).respond e.request .done effective []).bump .stagedDrained) es

/-- The slope-side drain (R28). -/
def State.drainSlope (s : State) (effective : Option Tag) : State :=
  State.drainEntries State.applySlope effective { s with mgmt := { s.mgmt with slopeQueue := [] } } s.mgmt.slopeQueue

/-- The actuator-side drain: at an applied frame with its tag, at a loop transition with the tag absent (R118, R119). The
classes are computed anew after the last entry if one of them calls for it (R116). -/
def State.drainActuator (s : State) (effective : Option Tag) : State :=
  let es := s.mgmt.actuatorQueue
  let s1 := State.drainEntries State.applyActuator effective { s with mgmt := { s.mgmt with actuatorQueue := [] } } es
  if es.any (fun e => e.write.changesClasses) then s1.recomputeClasses else s1

end Sys2Proof.Machine
end

