-- ==== Sys2Proof/Machine/Poke.lean ====
section
/-! DEFINITION. The Poke Engine: fetches, the walk of the chain at step 6 of an applied frame, and its endings (chapter 9). -/

namespace Sys2Proof.Machine

/-- The byte address of a poke record (R38, R157). -/
def pokeAddress (r : Nat) : Nat := Config.pokeBase + 128 * r

/-- The fetch of a record joins the poke-fetch queue (R162). -/
def State.fetchPoke (s : State) (r : Nat) : State :=
  s.queueBursts (readBursts (.pokeFetch r) [(pokeAddress r, 128)])

/-- The engine becomes IDLE: a fetch whose burst has not been granted is withdrawn, the data of a granted one is discarded (R159). -/
def State.pokeIdle (s : State) : State := State.withdraw { s with poke := none } BurstJob.isPoke

/-- A RUNNING engine is aborted (R161); as it becomes IDLE the report test is made (R191). -/
def State.abortPoke (s : State) : State :=
  if s.poke.isSome then (s.pokeIdle.bump .sequencesAborted).reportTest else s

/-- A fetch found a fault: the engine becomes IDLE and POKE_FAULT is raised (R162). -/
def State.pokeFault (s : State) : State := (s.pokeIdle.bump .pokeFaults).raise .pokeFault

/-- A well-formed record arrives: it is the current copy if that is awaited, and then nothing is prefetched any more; otherwise
it is the prefetched copy (R162, R163). -/
def PokeRun.arrive (e : PokeRun) (rec : PokeRecord) : PokeRun :=
  match e.copy with
  | none => { e with copy := some rec, remaining := rec.dwell, prefetched := none }
  | some _ => { e with prefetched := e.prefetched.map (fun f => (f.1, some rec)) }

/-- A fetched record is judged (R162): ill-formed, or kept. -/
def State.judgeRecord (s : State) (e : PokeRun) (bytes : List Byte) : State :=
  match PokeRecord.decode? bytes with
  | none => (s.bump .illFormedRecords).pokeFault
  | some rec => { s with poke := some (e.arrive rec) }

/-- The record and phase in force, as a frame that is not applied, or the snapshot, carries them (R166). -/
def State.pokeInForce (s : State) : PokeMark :=
  match s.poke with
  | none => .idle
  | some e => .active e.current e.phase false

/-- The offsets of a record in a phase: negated in PULL (R163). -/
def PokeRecord.offsets (r : PokeRecord) : PokePhase → List (Nat × Int)
  | .push => r.entries
  | .pull => r.entries.map (fun e => (e.1, -e.2))

/-- The phase after `phase` in which the record goes on, if it does: PULL after PUSH with push-pull set (R163). -/
def PokeRecord.turns (r : PokeRecord) (phase : PokePhase) : Bool := r.pushPull && phase == .push

/-- The next record becomes the current one, in PUSH: with its copy if that has arrived; otherwise its copy is awaited, and it
is still the prefetched record, fetching (R163, R164; section 9.8, tag 2003). -/
def PokeRun.takeUp (next : Nat) : Option PokeRecord → PokeRun
  | some rec => ⟨next, some rec, .push, rec.dwell, none⟩
  | none => ⟨next, none, .push, 0, some (next, none)⟩

/-- The engine as POKE START leaves it: the named record current, its copy awaited, and no prefetched record (R160). -/
def PokeRun.start (first : Nat) : PokeRun := ⟨first, none, .push, 0, none⟩

/-- The copy of a prefetch of record `r`, if it has arrived. -/
def PokeRun.prefetchedCopy (e : PokeRun) (r : Nat) : Option PokeRecord :=
  match e.prefetched with
  | some (k, copy) => if k = r then copy else none
  | none => none

/-- The record has ended: the engine becomes IDLE at END, or the prefetch point places the fetch of the next record, which
becomes current (R163, R164). -/
def State.endRecord (s : State) (e : PokeRun) (rec : PokeRecord) : State :=
  let s1 := s.bump .recordsCompleted
  match rec.next with
  | none => (s1.pokeIdle.bump .sequencesDone).raise .pokeDone
  | some r =>
    match e.prefetched with
    | some _ => { s1 with poke := some (PokeRun.takeUp r (e.prefetchedCopy r)) }
    | none => State.fetchPoke { s1 with poke := some (PokeRun.takeUp r none) } r

/-- Step 6 of an applied frame (R163): the offsets handed to the Constraint Unit, the mark that the frame carries, and the
state after the engine has moved on. -/
def State.pokeStep (s : State) : List (Nat × Int) × PokeMark × State :=
  match s.poke with
  | none => ([], .idle, s)
  | some e =>
    match e.copy with
    | none => ([], .active e.current .push true, s.bump .withheldFrames)
    | some rec =>
      let mark := PokeMark.active e.current e.phase false
      let offsets := rec.offsets e.phase
      if 1 < e.remaining then (offsets, mark, { s with poke := some { e with remaining := e.remaining - 1 } })
      else if rec.turns e.phase then
        (offsets, mark, { s with poke := some { e with phase := .pull, remaining := rec.dwell } })
      else (offsets, mark, s.endRecord e rec)

end Sys2Proof.Machine
end

