-- ==== Sys2Proof/Machine/Mirror.lean ====
section
/-! DEFINITION. The Mirror Link Interface and the Loop Supervisor: handing frames to ML, SHAPE frames, missed echoes, the
entry to SAFE with its fault snapshot, and the detectors (chapter 8). -/

namespace Sys2Proof.Machine

/-! ## Frames on ML -/

/-- A frame is handed to the mirror link: sent at once, put in the waiting slot, or discarded unsent (R147). -/
def State.handToMirror (s : State) (f : MlFrame) : State :=
  if !s.mirror.up then s.bump .unsent
  else
    match s.mirror.sending with
    | none => { s with mirror := { s.mirror with sending := some f } }
    | some _ =>
      let s1 := s.bumpIf s.mirror.waiting.isSome .superseded
      { s1 with mirror := { s1.mirror with waiting := some f } }

/-- The mirror link falls silent: a frame being sent goes on to its end but makes no entry, a waiting one is discarded without
being counted, and the outstanding-echo list is emptied without counting misses. So NODE RESET leaves it (R155), and so does a
role that is no longer a tail's, since the link of a HEAD or MIDDLE node sends nothing and every ECHO frame there finds no entry
(R150, R151, opening of chapter 8). What becomes of the two slots at a change of role is log entry 38. -/
def Mirror.silenced (m : Mirror) : Mirror :=
  { m with sending := m.sending.map (fun f => { f with makesEntry := false }), waiting := none, echoes := [] }

/-- The parks of actuators 0..A-1 in effect (R149). -/
def State.parks (s : State) : List Int := (List.range s.params.actuators).map (fun j => (s.actuator j).park)

/-- A SHAPE frame is built: the shape number increases by 1, the last outputs of actuators 0..A-1 become their parks, and
the frame is handed to the mirror link (R149, R130). -/
def State.buildShape (s : State) : State :=
  let n := s.mirror.shapeNumber + 1
  let parks := s.parks
  let s1 : State := { s with
    mirror := { s.mirror with shapeNumber := n }
    tables := { s.tables with lastOutputs := s.tables.lastOutputs.setRun 0 parks } }
  s1.handToMirror ⟨.shape, n, shapeFrame n parks, true⟩

/-! ## Entry to SAFE (R144) -/

/-- The loop is OPEN or CLOSED: good frames are applied (R135). -/
def LoopState.applies : LoopState → Bool
  | .opened | .closed => true
  | _ => false

/-- The loop states from which the loop enters SAFE (R144). -/
def LoopState.entersSafe : LoopState → Bool
  | .opened | .closed | .held => true
  | _ => false

/-- The driver status code that a snapshot holds (R153). -/
def SafeCause.code? : SafeCause → Option Nat
  | .driverFault c => some c
  | _ => none

/-- The contents of a snapshot taken now (R153). -/
def State.takeSnapshot (s : State) (cause : SafeCause) : Snapshot where
  cause := cause
  lastFinished := s.frames.newestDelivered
  lastApplied := s.lastApplied
  loopBefore := s.loop.state
  badFrames := s.loop.badFrames
  satRun := s.loop.satRun
  lastClampCount := s.loop.lastClampCount
  liveBank := s.liveBank?.map (fun b => (b, (s.bank b).label))
  poke := s.poke.map (fun e => (e.current, e.phase))
  latches := s.events.pending &&& fatalSet
  timestamp := s.now
  later := 0

/-- Step 1 of the entry: the snapshot is filled unless it already holds an unreleased one (R144, R153). -/
def State.fillSnapshot (s : State) (cause : SafeCause) : State :=
  if s.loop.snapshotState = .held then s
  else { s with loop := { s.loop with snapshotState := .held, snapshot := some (s.takeSnapshot cause) } }

/-- The loop enters SAFE, in the steps of R144: snapshot, state, latch, poke, drain, timer, shape. -/
def State.enterSafe (s : State) (cause : SafeCause) : State :=
  if s.loop.state.entersSafe then
    let s1 := s.fillSnapshot cause
    let s2 : State := { s1 with loop := { s1.loop with state := .safe }, safeOut := true }
    let s3 := (s2.bump .safeEntries).raise .loopSafe
    let s4 := s3.abortPoke.drainActuator none
    let s5 : State := { s4 with loop := { s4.loop with starvation := none, parkRefresh := some s4.now } }
    s5.buildShape
  else s

/-! ## Missed echoes and loss of the link (R150, R152) -/

/-- MIRROR_LINK_LOST is latched and the loop enters SAFE; one already latched is not latched again (R152). -/
def State.loseMirror (s : State) : State :=
  if s.isPending .mirrorLinkLost then s
  else ((s.raise .mirrorLinkLost).bump .mirrorLinkLost).enterSafe .mirrorLinkLost

/-- A miss is counted; in OPEN or CLOSED one that brings the consecutive misses to the limit loses the link (R150, R152). -/
def State.missEcho (s : State) : State :=
  let n := min (s.mirror.misses + 1) 64
  let s1 := State.bump { s with mirror := { s.mirror with misses := n } } .missedEchoes
  if s1.loop.state.applies && s1.params.echoMissLimit ≤ n then s1.loseMirror else s1

/-- A frame that has been sent to its end joins the outstanding-echo list; a full list first counts its oldest entry as a
miss and removes it (R150). -/
def State.joinEchoes (s : State) (f : MlFrame) : State :=
  let s1 := if Config.echoCapacity ≤ s.mirror.echoes.length then
      State.missEcho { s with mirror := { s.mirror with echoes := s.mirror.echoes.drop 1 } }
    else s
  { s1 with mirror := { s1.mirror with
      echoes := s1.mirror.echoes ++ [⟨f.kind, f.number, s1.now + BitVec.ofNat 32 s1.params.echoTimeout⟩] } }

/-! ## Detectors (R141, R142, R143) -/

/-- The report of a finished frame brings the saturation run counter up to date: only an applied frame changes it (R142). -/
def State.countSaturation (s : State) (applied : Bool) (clamps : Nat) : State :=
  if applied then
    let exceeds := s.loop.state == .closed && s.params.saturationLimit < clamps
    { s with loop := { s.loop with
        satRun := if exceeds then min (s.loop.satRun + 1) 1000 else 0
        lastClampCount := clamps } }
  else s

/-- The report of a finished frame brings the bad-frame counter up to date (R141). -/
def State.countBad (s : State) (bad applied : Bool) : State :=
  if applied then { s with loop := { s.loop with badFrames := 0 } }
  else if bad && s.loop.state == .closed then
    { s with loop := { s.loop with badFrames := min (s.loop.badFrames + 1) 255 } }
  else s

/-- A frame and its class are reported to the Loop Supervisor: the starvation timer restarts, and the detectors count and
trip (R135, R141, R142, R143). -/
def State.report (s : State) (bad applied : Bool) (clamps : Nat) : State :=
  let was := s.loop.state
  let s1 : State := { s with loop := { s.loop with
    lastFinish := some s.now
    starvation := if was.applies then some s.now else s.loop.starvation } }
  let s2 := (s1.countBad bad applied).countSaturation applied clamps
  if bad && !applied && was == .closed && s2.params.kBad ≤ s2.loop.badFrames then s2.enterSafe .badFrames
  else if applied && was == .closed && s.params.saturationLimit < clamps
      && s2.params.saturationFrames ≤ s2.loop.satRun then s2.enterSafe .saturation
  else s2

/-! ## Loop transitions (R136 to R138, R143) -/

/-- The conditions of LOOP OPEN and LOOP CLOSE apart from the loop state (R136). -/
def State.loopReady (s : State) : Bool :=
  s.liveBank?.isSome && 0 < s.params.actuators && s.mirror.up && !s.isPending .mirrorLinkLost && !s.isPending .driverFault
    && s.mirror.misses < s.params.echoMissLimit

/-- The loop becomes OPEN or CLOSED and the starvation timer is started (R136, R137, R143). -/
def State.enterRunning (s : State) (l : LoopState) : State :=
  { s with loop := { s.loop with state := l, starvation := some s.now } }

/-- The loop becomes HELD or OFF: the starvation timer stops, and on leaving OPEN or CLOSED the staged writes still queued
take effect with the effective tag absent (R138, R119, R143). -/
def State.leaveRunning (s : State) (l : LoopState) : State :=
  let was := s.loop.state
  let s1 : State := { s with loop := { s.loop with state := l, starvation := none } }
  if was.applies then s1.drainActuator none else s1

end Sys2Proof.Machine
end

