-- ==== Sys2Proof/Machine/Controller.lean ====
section
/-! DEFINITION. The Controller Unit: residuals, the leaky integrator with its anti-windup clamp, and the loads of the
integrator states (chapter 6). -/

namespace Sys2Proof.Machine

/-! ## Residuals (R95, R97) -/

/-- The quotient of a finished sum by 2^S, rounded by RN (R95). -/
def residualQuotient (sum : Int) (scale : Nat) : Int := roundRN sum (2 ^ scale)

/-- The residual: the rounded quotient saturated to 32 bits (R95). -/
def residual (sum : Int) (scale : Nat) : Int := clampInt (-2147483648) 2147483647 (residualQuotient sum scale)

/-- The saturation of R95 changes the residual of a sum (R97). -/
def residualSaturates (sum : Int) (scale : Nat) : Bool := residual sum scale != residualQuotient sum scale

/-- The residuals of a finished frame are computed into its context, and saturated ones are counted (R95, R97). -/
def State.computeResiduals (s : State) (c : Ix) (sums : List Int) : State :=
  let x := s.ctx c
  let n := sums.countP (fun v => residualSaturates v x.scale)
  let x1 := { x with residuals := sums.map (fun v => residual v x.scale), residualSaturations := n }
  ((s.setCtx c (x1.addFlagIf (0 < n) .residualSaturated)).bump .residualsComputed).bumpIf (0 < n) .residualSaturatedFrames

/-! ## The integrator (R104, R105, R106) -/

/-- The new state before the clamp: the leaked state, rounded by RN, plus 2 x G x e (R104). -/
def integratorStep (x e : Int) (p : GainProfile) : Int := roundRN (x * p.leak) 65536 + 2 * p.gain * e

/-- The anti-windup clamp (R105). -/
def antiWindup (a : ActuatorEntry) (x : Int) : Int := clampInt (toState a.lo) (toState a.hi) x

/-- The pre-constraint value of a state: its quotient by 65536, rounded by RN (R106). -/
def valueOf (x : Int) : Int := roundRN x 65536

/-- The update of one ACTIVE actuator of an applied CLOSED frame: the tables with its new state, and whether it was clamped. -/
def Tables.update (t : Tables) (j : Nat) (e : Int) : Tables × Bool :=
  let a := t.actuators.get j
  let x := integratorStep (t.integrators.get j) e (t.gains.get a.profile)
  let x' := antiWindup a x
  ({ t with integrators := t.integrators.set j x' }, x' != x)

/-- The updates of a run of actuators, each ACTIVE one with its residual (R103); the second part counts the clamped ones. -/
def Tables.updateAll (t : Tables) (residuals : List Int) : List Nat → Tables × Nat
  | [] => (t, 0)
  | j :: js =>
    if t.effective.get j = .active then
      let u := t.update j (residuals.getD j 0)
      let r := u.1.updateAll residuals js
      (r.1, r.2 + (if u.2 then 1 else 0))
    else t.updateAll residuals js

/-- The integrator update of an applied CLOSED frame, with the frame's clamp count (R103, R105, R113). -/
def State.closedUpdate (s : State) (c : Ix) : State × Nat :=
  let u := s.tables.updateAll (s.ctx c).residuals (List.range s.params.actuators)
  let s1 : State := { s with tables := u.1 }
  (((s1.bump .closedUpdates).bumpBy .antiWindupClamps u.2).setCtx c ((s.ctx c).addFlagIf (0 < u.2) .saturated), u.2)

/-! ## Loads (R101, R110, R112) -/

/-- Every integrator state is set, for every actuator of the table, by a function of its entry in effect. -/
def Tables.loadIntegrators (t : Tables) (f : Nat → Int) : Tables :=
  { t with integrators := Table.build Config.maxActuators f }

/-- The bumpless load: every state becomes its clamped open shape value (R110). -/
def Tables.bumpless (t : Tables) : Tables :=
  t.loadIntegrators (fun j => toState (clampInt (t.actuators.get j).lo (t.actuators.get j).hi (t.openShape.get j)))

/-- Every state becomes the park of its actuator (R101, R112). -/
def Tables.parkIntegrators (t : Tables) : Tables := t.loadIntegrators (fun j => toState (t.actuators.get j).park)

/-- Every last output becomes the park of its actuator (R130). -/
def Tables.parkOutputs (t : Tables) : Tables :=
  { t with lastOutputs := Table.build Config.maxActuators (fun j => (t.actuators.get j).park) }

end Sys2Proof.Machine
end

