-- ==== Sys2Proof/Machine/Constraint.lean ====
section
/-! DEFINITION. The Constraint Unit: the nine-step pipeline of an applied frame (chapter 7). -/

namespace Sys2Proof.Machine

/-! ## Steps 2 to 5: the values before the poke offsets (R122 to R125) -/

/-- The value of an ACTIVE actuator: from its integrator state in CLOSED, from the clamped open shape in OPEN (R122). -/
def Tables.activeValue (t : Tables) (closed : Bool) (j : Nat) : Int :=
  if closed then valueOf (t.integrators.get j)
  else clampInt (t.actuators.get j).lo (t.actuators.get j).hi (t.openShape.get j)

/-- The value of an actuator that is ACTIVE or held at its last output (R122, R123). -/
def Tables.masterValue (t : Tables) (closed : Bool) (j : Nat) : Int :=
  if t.effective.get j = .active then t.activeValue closed j else t.lastOutputs.get j

/-- The slave record used for a slave: the one with the lowest number among those in use that name it (R117). -/
def Tables.slaveRecordOf (t : Tables) (j : Nat) : Option SlaveRecord :=
  ((List.range 512).map t.slaves.get).find? (fun r => !r.masters.isEmpty && r.slave == j)

/-- A master is usable: its index is below A and its effective class is ACTIVE or FROZEN (R125). -/
def Tables.usable (t : Tables) (a m : Nat) : Bool :=
  m < a && (t.effective.get m == .active || t.effective.get m == .frozen)

/-- How a SLAVED actuator is treated in a frame (R125). -/
inductive SlaveCase where
  | mean (v : Int)   -- the clamped mean of its usable masters
  | parked           -- its record has no usable master
  | unslaved         -- no record in use names it: treated as FROZEN
deriving DecidableEq, Repr

/-- The case of R125 for SLAVED actuator `j`. -/
def Tables.slaveCase (t : Tables) (a : Nat) (closed : Bool) (j : Nat) : SlaveCase :=
  match t.slaveRecordOf j with
  | none => .unslaved
  | some r =>
    let ms := r.masters.filter (t.usable a)
    if ms.isEmpty then .parked
    else .mean (clampInt (t.actuators.get j).lo (t.actuators.get j).hi
      (roundRN (ms.map (t.masterValue closed)).sum ms.length))

/-- The value of actuator `j` after step 5. -/
def Tables.stepValue (t : Tables) (a : Nat) (closed : Bool) (j : Nat) : Int :=
  match t.effective.get j with
  | .active => t.activeValue closed j
  | .frozen => t.lastOutputs.get j
  | .dead => (t.actuators.get j).park
  | .slaved =>
    match t.slaveCase a closed j with
    | .mean v => v
    | .parked => (t.actuators.get j).park
    | .unslaved => t.lastOutputs.get j

/-- In CLOSED a DEAD actuator, and a SLAVED one given a value, have their integrator state set to that value (R124, R125). -/
def Tables.setsState (t : Tables) (a : Nat) (j : Nat) : Bool :=
  match t.effective.get j with
  | .dead => true
  | .slaved => t.slaveCase a true j != .unslaved
  | _ => false

/-- The integrator states of one frame's DEAD and SLAVED actuators set, in CLOSED (R103, R124, R125). `v` gives the values
of step 5, which the states set here do not change. -/
def Tables.setStates (t : Tables) (sets : Nat → Bool) (v : Nat → Int) : List Nat → Tables
  | [] => t
  | j :: js =>
    Tables.setStates (if sets j then { t with integrators := t.integrators.set j (toState (v j)) } else t) sets v js

/-! ## Step 6: poke offsets (R126) -/

/-- The values of a frame's pass through steps 6 to 8, with what the steps counted. -/
structure Pass where
  values : List Int
  ignored : Nat
  outOfRange : Nat
  dead : Nat
  limited : Nat
  unresolved : Nat
deriving DecidableEq, Repr

/-- The value of actuator `j`. -/
def Pass.value (p : Pass) (j : Nat) : Int := p.values.getD j 0

/-- The value of actuator `j` moved by `d`. -/
def Pass.move (p : Pass) (j : Nat) (d : Int) : Pass := { p with values := p.values.set j (p.value j + d) }

/-- One offset: added to an ACTIVE actuator below A, otherwise ignored and counted (R126). -/
def Pass.offset (t : Tables) (a : Nat) (p : Pass) (e : Nat × Int) : Pass :=
  if e.1 < a ∧ t.effective.get e.1 = .active then p.move e.1 e.2 else { p with ignored := p.ignored + 1 }

/-! ## Step 7: the neighbour pass (R128) -/

/-- An actuator is movable when its effective class is ACTIVE or SLAVED (R128). A SLAVED actuator that no record in use names is
movable too, since its effective class is still SLAVED, although R125 has it treated as FROZEN (DEDUCED, log entry 41). -/
def ActClass.movable : ActClass → Bool
  | .active | .slaved => true
  | _ => false

/-- One pair of the neighbour list (R128); which members move is said by `ActClass.movable` (log entry 41). -/
def Pass.pair (t : Tables) (a dMax : Nat) (p : Pass) (q : Nat × Nat) : Pass :=
  if a ≤ q.1 ∨ a ≤ q.2 then { p with outOfRange := p.outOfRange + 1 }
  else
    let ca := t.effective.get q.1
    let cb := t.effective.get q.2
    if ca = .dead ∨ cb = .dead then { p with dead := p.dead + 1 }
    else
      let d := p.value q.1 - p.value q.2
      if d.natAbs ≤ dMax then p
      else
        let excess := d.natAbs - dMax
        let hi := if 0 < d then q.1 else q.2
        let lo := if 0 < d then q.2 else q.1
        let hiMoves := if 0 < d then ca.movable else cb.movable
        let loMoves := if 0 < d then cb.movable else ca.movable
        let p1 := { p with limited := p.limited + 1 }
        if hiMoves && loMoves then (p1.move hi (-(ceilDiv excess 2 : Nat))).move lo (excess / 2 : Nat)
        else if hiMoves then p1.move hi (-(excess : Int))
        else if loMoves then p1.move lo excess
        else { p with unresolved := p.unresolved + 1 }

/-- The pairs that the pass reads: those numbered below the pair count (R127). -/
def Tables.pairList (t : Tables) : List (Nat × Nat) := (List.range t.pairCount).map t.pairs.get

/-! ## Step 8: the final clamp (R129) -/

/-- The command of actuator `j` (R129). -/
def Tables.command (t : Tables) (j : Nat) (v : Int) : Int := clampInt (t.actuators.get j).lo (t.actuators.get j).hi v

/-- The commands of a pass, in actuator order. -/
def Tables.commands (t : Tables) (p : Pass) : List Int :=
  (List.range p.values.length).map (fun j => t.command j (p.value j))

/-- The number of values that the final clamp changes. -/
def Tables.outputClamps (t : Tables) (p : Pass) : Nat :=
  (List.range p.values.length).countP (fun j => t.command j (p.value j) != p.value j)

/-! ## The pipeline (R121) -/

/-- Steps 2 to 5 with the integrator update of a CLOSED frame: the values, the clamp count, and the state (R103, R122 to R125). -/
def State.formValues (s : State) (c : Ix) (closed : Bool) : List Int × Nat × State :=
  let u := if closed then s.closedUpdate c else (s, 0)
  let s1 := u.1
  let a := s1.params.actuators
  let js := List.range a
  let t := s1.tables
  let slaves := js.filter (fun j => t.effective.get j == .slaved)
  let parked := slaves.countP (fun j => t.slaveCase a closed j == .parked)
  let unslaved := slaves.countP (fun j => t.slaveCase a closed j == .unslaved)
  let t1 := if closed then t.setStates (t.setsState a) (t.stepValue a true) js else t
  (js.map (t.stepValue a closed), u.2,
    State.bumpBy (State.bumpBy { s1 with tables := t1 } .slaveParked parked) .unslaved unslaved)

/-- Steps 6 to 8 on the values of step 5. -/
def Tables.constrain (t : Tables) (a dMax : Nat) (values : List Int) (offsets : List (Nat × Int)) : Pass :=
  t.pairList.foldl (Pass.pair t a dMax) (offsets.foldl (Pass.offset t a) ⟨values, 0, 0, 0, 0, 0⟩)

/-- The counters and frame flags of steps 6 to 8 (R126, R128, R129, R133). -/
def State.countPass (s : State) (c : Ix) (p : Pass) (clamps : Nat) : State :=
  let x := (((s.ctx c).addFlagIf (0 < p.limited) .neighborLimited).addFlagIf (0 < p.unresolved) .unresolvedPair).addFlagIf
    (0 < clamps) .outputClamped
  ((((((s.bumpBy .pokeIgnored p.ignored).bumpBy .pairsOutOfRange p.outOfRange).bumpBy .deadPairs p.dead).bumpBy
    .limitedPairs p.limited).bumpBy .unresolvedPairs p.unresolved).bumpBy .outputClamps clamps).setCtx c x

/-- The pipeline of an applied frame of context `c`, from the drain to the handover of its COMMAND frame (R121); the second
part is the frame's clamp count. -/
def State.pipeline (s : State) (c : Ix) : State × Nat :=
  let x := s.ctx c
  let closed := s.loop.state == .closed
  let s1 := s.drainActuator (some x.tag)
  let f := s1.formValues c closed
  let k := f.2.2.pokeStep
  let s2 := k.2.2
  let t := s2.tables
  let p := t.constrain s2.params.actuators s2.params.dMax f.1 k.1
  let commands := t.commands p
  let s3 := s2.countPass c p (t.outputClamps p)
  let s4 : State := { s3 with tables := { s3.tables with lastOutputs := s3.tables.lastOutputs.setRun 0 commands } }
  let s5 := (s4.setCtx c { s4.ctx c with applied := true, commands := commands, poke := k.2.1 }).bump .commandsBuilt
  (s5.handToMirror ⟨.command, x.tag, commandFrame x.tag k.2.1 commands, true⟩, f.2.1)

end Sys2Proof.Machine
end

