-- ==== Sys2Proof/Machine/Merge.lean ====
section
/-! DEFINITION. The Merge Unit: local segments, the merge of one segment, forced merges, the HEAD's building, and the
classification and finishing of a frame at the tail (chapter 5), with what follows ACCUMULATED (R34). -/

namespace Sys2Proof.Machine

/-! ## Local segments (R77, R86, R87, R93) -/

/-- The context is marked CORRUPT (R55). -/
def Context.isCorrupt (x : Context) : Bool := x.hasFlag .corrupt

/-- The local sums of the actuators of segment `g` (R77). -/
def State.localSums (s : State) (x : Context) (g : Nat) : List Int :=
  (List.range (segmentLength s.params.actuators g)).map (fun k => x.sums.get (Config.segmentSize * g + k))

/-- Segment `g` made from the local sums alone, with the given flags; for a CORRUPT context its sums are zero, its mask is
empty and CORRUPT is added (R84, R86, R87). -/
def State.localSegment (s : State) (x : Context) (flags : BitVec 8) (g : Nat) : Segment where
  tag := x.tag
  index := g
  count := s.segments
  first := Config.segmentSize * g
  actuators := segmentLength s.params.actuators g
  mask := if x.isCorrupt then 0 else ownBit s.nodeNumber
  flags := if x.isCorrupt then addSegFlag flags .corrupt else flags
  label := x.label
  scale := x.scale
  sums := if x.isCorrupt then List.replicate (segmentLength s.params.actuators g) 0 else s.localSums x g

/-! ## Merging one segment (R82) -/

/-- A 48-bit sum: the exact sum where 48 signed bits hold it, which they do for every sum that nodes make (R53); otherwise a
free value (log entry 12). -/
def sum48 (v : Int) : Int :=
  if -140737488355328 ≤ v ∧ v ≤ 140737488355327 then v else (Config.overflowedSum v).toInt

/-- The cases of R82, in their order. -/
inductive MergeCase where
  | corrupt | ownBitPresent | mixed | contributes
deriving DecidableEq, Repr

/-- The case of R82 that a segment meets in a context. -/
def State.mergeCase (s : State) (x : Context) (g : Segment) : MergeCase :=
  if x.isCorrupt then .corrupt
  else if g.mask &&& ownBit s.nodeNumber != 0#8 then .ownBitPresent
  else if g.label != x.label || g.scale != x.scale then .mixed
  else .contributes

/-- The segment as it leaves the merge (R82). -/
def State.mergedSegment (s : State) (x : Context) (g : Segment) : Segment :=
  match s.mergeCase x g with
  | .corrupt => { g with flags := addSegFlag g.flags .corrupt }
  | .ownBitPresent | .mixed => { g with flags := addSegFlag g.flags .mixed }
  | .contributes =>
    { g with
      mask := g.mask ||| ownBit s.nodeNumber
      sums := List.zipWith (fun a b => sum48 (a + b)) g.sums (s.localSums x g.index) }

/-- The counter of a merge case (R94). -/
def MergeCase.counter? : MergeCase → Option Counter
  | .corrupt => none
  | .ownBitPresent => some .ownBitPresent
  | .mixed => some .mixedSegments
  | .contributes => some .contributingMerges

/-- The slot of a finished segment becomes MERGED, and the context's frame mask and flag set take the segment in (R85). -/
def Context.takeMerged (x : Context) (kept : Bool) (g : Segment) : Context :=
  { x with
    state := .merging
    slots := x.slots.set g.index (.merged (if kept then some g else none))
    frameMask := x.frameMask &&& g.mask
    segFlags := x.segFlags ||| g.flags }

/-- The role keeps its merged segments: at a tail; a MIDDLE or HEAD node sends them (R80). -/
def Role.keepsSegments : Role → Bool
  | .tail | .solo => true
  | .head | .middle => false

/-- A merged or made segment leaves the merge: its slot becomes MERGED, and where it is not kept its PARTIAL frame is placed in
the realtime queue (R62, R85). -/
def State.placeMerged (s : State) (c : Ix) (g : Segment) : State :=
  let kept := s.params.role.keepsSegments
  let s1 := s.setCtx c ((s.ctx c).takeMerged kept g)
  if kept then s1 else s1.placeRealtime (trunkFrame 1 s.nodeNumber.toNat allNodes g.encode)

/-- One segment is merged into a context (R82, R85). -/
def State.mergeOne (s : State) (c : Ix) (g : Segment) : State :=
  let x := s.ctx c
  let s1 := match (s.mergeCase x g).counter? with
    | some n => s.bump n
    | none => s
  s1.placeMerged c (s.mergedSegment x g)

/-- Every one of the G slots is MERGED. -/
def State.allMerged (s : State) (c : Ix) : Bool :=
  (List.range s.segments).all fun g =>
    match (s.ctx c).slots.get g with
    | .merged _ => true
    | _ => false

/-- The STORED segments are merged one by one, in the order in which they arrived (R81). -/
def State.mergeStored (s : State) (c : Ix) : List Nat → State
  | [] => s
  | i :: is =>
    match (s.ctx c).slots.get i with
    | .stored g => (s.mergeOne c g).mergeStored c is
    | _ => s.mergeStored c is

/-- The STORED segments of a context are merged and its order of arrival is used up. -/
def State.mergeAllStored (s : State) (c : Ix) : State :=
  (s.setCtx c { s.ctx c with storedOrder := [] }).mergeStored c (s.ctx c).storedOrder

/-- For each slot still EMPTY, in rising order, a segment is made from the local sums with UPSTREAM_MISSING (R87). -/
def State.makeMissing (s : State) (c : Ix) : List Nat → State
  | [] => s
  | i :: is =>
    match (s.ctx c).slots.get i with
    | .empty =>
      ((s.bump .forcedSegments).placeMerged c (s.localSegment (s.ctx c) (addSegFlag 0 .upstreamMissing) i)).makeMissing c is
    | _ => s.makeMissing c is

/-! ## Finishing at the tail (R91, R92, R93) -/

/-- The held segments of a frame: at a SOLO node its G segments of local sums, at a TAIL those in the slots (R91, R93). -/
def State.heldSegments (s : State) (c : Ix) : List Segment :=
  let x := s.ctx c
  if s.params.role = .solo then (List.range s.segments).map (s.localSegment x 0)
  else (List.range s.segments).filterMap fun g =>
    match x.slots.get g with
    | .merged k => k
    | _ => none

/-- The mask that every segment of a good frame carries (R89, R93). -/
def State.expectedMask (s : State) : NodeMask :=
  if s.params.role = .solo then ownBit s.nodeNumber else s.params.expectedMask

/-- The classes of R92 with the first condition of LATE that was met. -/
inductive Verdict where
  | lateByDeadline | lateByDisplacement | lateByTag | incomplete | good
deriving DecidableEq, Repr

/-- The class of a verdict. -/
def Verdict.cls : Verdict → FrameClass
  | .lateByDeadline | .lateByDisplacement | .lateByTag => .late
  | .incomplete => .incomplete
  | .good => .good

/-- A held segment makes its frame INCOMPLETE (R92). -/
def State.spoils (s : State) (g : Segment) : Bool :=
  g.mask != s.expectedMask || hasSegFlag g.flags .mixed || hasSegFlag g.flags .corrupt || hasSegFlag g.flags .upstreamMissing

/-- The verdict of R92 on a frame. -/
def State.verdict (s : State) (c : Ix) (displaced : Bool) : Verdict :=
  let x := s.ctx c
  if x.hasFlag .deliveryDeadline then .lateByDeadline
  else if displaced then .lateByDisplacement
  else if !tagNewerThan x.tag s.lastApplied then .lateByTag
  else if (s.heldSegments c).any s.spoils then .incomplete
  else .good

/-- A verdict is counted and, for a bad frame, raised (R92, R94). -/
def State.countVerdict (s : State) : Verdict → State
  | .lateByDeadline => ((s.bump .lateFrames).bump .lateByDeadline).raise .lateFrame
  | .lateByDisplacement => ((s.bump .lateFrames).bump .lateByDisplacement).raise .lateFrame
  | .lateByTag => ((s.bump .lateFrames).bump .lateByTag).raise .lateFrame
  | .incomplete => (s.bump .incompleteFrames).raise .incompleteFrame
  | .good => s.bump .goodFrames

/-- The frame mask and flag set of a SOLO frame, from its held segments (R93). -/
def State.soloMasks (s : State) (c : Ix) : State :=
  if s.params.role = .solo then
    let x := s.ctx c
    let gs := s.heldSegments c
    s.setCtx c { x with
      frameMask := gs.foldl (fun m g => m &&& g.mask) x.frameMask
      segFlags := gs.foldl (fun f g => f ||| g.flags) x.segFlags }
  else s

/-- The class, the loop state and the poke record and phase of a frame at its finishing, as its record carries them (R91,
R166, R170). -/
def State.noteFinish (s : State) (c : Ix) (k : FrameClass) : State :=
  s.setCtx c { s.ctx c with cls := k, finishLoop := s.loop.state, poke := s.pokeInForce }

/-- A good frame is applied in OPEN or CLOSED: the last applied tag becomes its tag and the pipeline runs; the second part
is its clamp count (R91, R121). -/
def State.applyFrame (s : State) (c : Ix) : State × Nat :=
  State.pipeline { s with lastApplied := some (s.ctx c).tag } c

/-- The tail finishes a context (R91). -/
def State.finish (s : State) (c : Ix) (displaced : Bool) : State :=
  let v := s.verdict c displaced
  let sums := (s.heldSegments c).flatMap Segment.sums
  let s1 := ((s.soloMasks c).noteFinish c v.cls).countVerdict v
  let s2 := s1.computeResiduals c sums
  let applied := v == .good && s2.loop.state.applies
  let r := if applied then s2.applyFrame c else (s2, 0)
  (r.1.report (v != .good) applied r.2).contextDone c

/-! ## What follows ACCUMULATED (R34, R85, R86, R87) -/

/-- The HEAD builds its G segments in rising order and places each (R86). -/
def State.buildHead (s : State) (c : Ix) : List Nat → State
  | [] => s
  | i :: is => (s.placeMerged c (s.localSegment (s.ctx c) 0 i)).buildHead c is

/-- The work of a context is complete: at a tail it is finished, elsewhere it is DONE (R34). -/
def State.complete (s : State) (c : Ix) (displaced : Bool) : State :=
  if s.isTail then s.finish c displaced else s.contextDone c

/-- A forced merge with the finishing that follows at a tail (R87). A HEAD's forced merge is its ordinary building (R86). -/
def State.forcedMerge (s : State) (c : Ix) (displaced : Bool) : State :=
  match s.params.role with
  | .solo => s.finish c displaced
  | .head => (s.buildHead c (List.range s.segments)).contextDone c
  | .middle | .tail => ((s.mergeAllStored c).makeMissing c (List.range s.segments)).complete c displaced

/-- The context has reached ACCUMULATED and goes on by the node's role (R34). -/
def State.afterAccumulated (s : State) (c : Ix) : State :=
  match s.params.role with
  | .solo => s.finish c false
  | .head => (s.buildHead c (List.range s.segments)).contextDone c
  | .middle | .tail =>
    if (s.ctx c).deliveryPending then s.forcedMerge c false
    else
      let s1 := s.mergeAllStored c
      if s1.allMerged c then s1.complete c false else s1

/-- A substitution job ends: its context becomes ACCUMULATED, and its local sums pass to the Merge Unit (R34). -/
def State.accumulated (s : State) (c : Ix) : State :=
  (s.setCtx c { s.ctx c with state := .accumulated, job := .ended }).afterAccumulated c

/-! ## Arrival in the slots (R80) -/

/-- A segment is handed to the slots of an open context that is not DONE (R80, R81). -/
def State.slotArrival (s : State) (c : Ix) (g : Segment) : State :=
  let x := s.ctx c
  match x.slots.get g.index with
  | .empty =>
    if x.state = .assembling then
      State.bump (s.setCtx c { x with slots := x.slots.set g.index (.stored g), storedOrder := x.storedOrder ++ [g.index] })
        .storedSegments
    else
      let s1 := s.mergeOne c g
      if s1.allMerged c then s1.complete c false else s1
  | .stored _ | .merged _ => s.bump .duplicateSegments

end Sys2Proof.Machine
end

