-- ==== Sys2Proof/Machine/Frames.lean ====
section
/-! DEFINITION. The Frame Context Unit: the completion test, displacement, the opening of a context, and the resolution of a
tag (chapter 2). -/

namespace Sys2Proof.Machine

/-! ## The completion test (R32) -/

/-- A port no longer holds up the assembly of a context: it is not waited for, or has delivered its last packet. -/
def State.portDelivered (s : State) (x : Context) (p : Ix) : Bool :=
  !((s.port p).config.enabled && (s.port p).state == .running) || x.lastDelivered.get p

/-- The assembly of a context is complete (R32). -/
def State.assemblyComplete (s : State) (x : Context) : Bool :=
  s.portDelivered x .zero && s.portDelivered x .one && x.heldCount.get .zero == 0 && x.heldCount.get .one == 0

/-- The substitution job of a context is queued, behind the jobs already queued (R18). -/
def State.queueJob (s : State) (c : Ix) : State :=
  let s1 := s.setCtx c { s.ctx c with job := .queued }
  { s1 with frames := { s1.frames with jobs := s1.frames.jobs ++ [c] } }

/-- The completion test of a context (R32). -/
def State.completionTest (s : State) (c : Ix) : State :=
  let x := s.ctx c
  if x.state = .assembling ∧ x.job = .none ∧ s.assemblyComplete x = true then (s.queueJob c).bump .assembled else s

/-- The completion test of both contexts, as a port becomes STOPPED or RUNNING (R32). Where both pass, context 0 is tested first
and its job is queued first, which the spec leaves open (DESIGN CHOICE, log entry 39). -/
def State.completionTests (s : State) : State := (s.completionTest .zero).completionTest .one

/-! ## The ring releases its oldest packet (R13) -/

/-- The read position advances past a packet of `count` slopes and its words are free again (R13). -/
def Port.releaseWords (x : Port) (count : Nat) : Port :=
  { x with
    readPos := (x.readPos + footprint count) % Config.ringWords
    freeCount := x.freeCount + footprint count }

/-- The engine is done with the oldest packet of port `p`: its words are released, and if the descriptor's tag still matches
its context's, the held-packet count falls and the completion test is made (R13, R32). -/
def State.releasePacket (s : State) (p : Ix) (d : Descriptor) : State :=
  let s1 := s.setPort p ((s.port p).releaseWords d.count)
  let x := s1.ctx d.ctx
  if x.isOpen && x.tag == d.tag then
    (s1.setCtx d.ctx { x with heldCount := x.heldCount.set p (x.heldCount.get p - 1) }).completionTest d.ctx
  else s1

/-! ## Displacement (R29, R30) -/

/-- A column-fetch burst is in progress. -/
def Arbiter.columnInProgress (a : Arbiter) : Bool :=
  match a.inProgress with
  | some b => b.job.isColumn
  | none => false

/-- The Column Engine gives up its packet or job: bursts still queued are withdrawn, and the one in progress completes for
nobody. Until it has, the engine drains, and its packet is released only then (R29, R54). -/
def State.stopEngine (s : State) (packet : Option (Ix × Descriptor)) : State :=
  let s1 := s.withdraw BurstJob.isColumn
  if s.arbiter.columnInProgress then { s1 with engine := { s1.engine with work := .draining packet, pass := none } }
  else
    let s2 : State := { s1 with engine := { s1.engine with work := .idle, pass := none } }
    match packet with
    | some (p, d) => s2.setPort p ((s2.port p).releaseWords d.count)
    | none => s2

/-- The Column Engine stops its work on a context that is abandoned (R29). -/
def State.stopEngineFor (s : State) (c : Ix) : State :=
  match s.engine.work with
  | .packet p d _ => if d.ctx = c then s.stopEngine (some (p, d)) else s
  | .job k _ => if k = c then s.stopEngine none else s
  | .idle | .draining _ => s

/-- An ASSEMBLING context is abandoned (R29). -/
def State.abandon (s : State) (c : Ix) : State :=
  let s1 := s.stopEngineFor c
  let s2 : State := { s1 with frames := { s1.frames with jobs := s1.frames.jobs.filter (fun k => k != c) } }
  ((s2.bump .abandoned).release c).raise .contextAbandoned

/-- The older of the two open contexts: the one whose tag the other's tag is newer than (R29). -/
def State.olderCtx (s : State) : Ix :=
  let t0 := (s.ctx .zero).tag
  let t1 := (s.ctx .one).tag
  if tagNewer t1 t0 then .zero
  else if tagNewer t0 t1 then .one
  else if Config.displacesFirst t0 t1 then .zero else .one

/-- A context is displaced, by its state (R29, R30). -/
def State.displace (s : State) (c : Ix) : State :=
  match (s.ctx c).state with
  | .assembling => s.abandon c
  | .accumulated | .merging => ((s.forcedMerge c true).bump .forcedByDisplacement).releaseEarly c
  | .done => s.releaseEarly c
  | .free => s

/-! ## Opening (R27) -/

/-- The scheduled swap, if there is one: its bank and target (R48). -/
def State.swap? (s : State) : Option (Ix × SwapTarget) :=
  match (s.bank .zero).swapMark, (s.bank .one).swapMark with
  | some t, _ => some (.zero, t)
  | none, some t => some (.one, t)
  | none, none => none

/-- A tag reaches a swap target (R27, R49). -/
def SwapTarget.reachedBy : SwapTarget → Tag → Bool
  | .next, _ => true
  | .tag t, a => a == t || tagNewer a t

/-- A scheduled swap that the tag reaches (R27). -/
def State.reachedSwap? (s : State) (t : Tag) : Option Ix :=
  match s.swap? with
  | some (b, target) => if target.reachedBy t then some b else none
  | none => none

/-- A context can be opened for the tag: a bank is LIVE, or a swap that the tag reaches makes one LIVE (R24, R25, R26). -/
def State.hasMatrix (s : State) (t : Tag) : Bool := s.liveBank?.isSome || (s.reachedSwap? t).isSome

/-- A bank that is LIVE becomes READY. -/
def Bank.demote (b : Bank) : Bank := if b.state = .live then { b with state := .ready } else b

/-- A swap takes effect (R49). -/
def State.takeSwap (s : State) (b : Ix) : State :=
  let s1 := s.setBank b.other (s.bank b.other).demote
  ((s1.setBank b { s1.bank b with state := .live, swapMark := none }).bump .swaps).raise .bankSwapped

/-- Step 1 of an opening: the context to be used, once the older one has been displaced where neither is FREE (R27). -/
def State.chooseCtx (s : State) : Ix × State :=
  if (s.ctx .zero).state = .free then (.zero, s)
  else if (s.ctx .one).state = .free then (.one, s)
  else (s.olderCtx, s.displace s.olderCtx)

/-- A context just opened for a tag against bank `b` (R22, R55). -/
def State.freshContext (s : State) (t : Tag) (b : Ix) : Context :=
  let x : Context := { Context.free with
    state := .assembling
    tag := t
    bank := b
    label := (s.bank b).label
    scale := (s.bank b).scale
    openTime := s.now
    dAsm := s.params.dAsm
    dDel := s.params.dDel
    asmRunning := true
    delRunning := true }
  x.addFlagIf (s.isPending .matrixUncorrectable) .corrupt

/-- Steps 3 to 7 of an opening in context `c` (R27, R28). With no LIVE bank there is no opening (R26). -/
def State.openIn (s : State) (c : Ix) (t : Tag) : State :=
  match s.liveBank? with
  | none => s
  | some b =>
    let x := s.freshContext t b
    let s1 := (s.setBank b { s.bank b with useCount := (s.bank b).useCount + 1 }).setCtx c x
    let s2 := if (s1.ctx c.other).state = .assembling then s1 else s1.drainSlope (some t)
    let s3 : State := { s2 with frames := { s2.frames with newestOpened := some t } }
    (s3.completionTest c).bump .contextsOpened

/-- A context is opened for a tag (R27). -/
def State.openContext (s : State) (t : Tag) : Ix × State :=
  let k := s.chooseCtx
  let s1 := match k.2.reachedSwap? t with
    | some b => k.2.takeSwap b
    | none => k.2
  (k.1, s1.openIn k.1 t)

/-! ## Resolving a tag (R24, R25) -/

/-- The open context that has a tag. -/
def State.ctxOfTag? (s : State) (t : Tag) : Option Ix :=
  if (s.ctx .zero).isOpen && (s.ctx .zero).tag == t then some .zero
  else if (s.ctx .one).isOpen && (s.ctx .one).tag == t then some .one
  else none

/-- The outcomes of a resolution. -/
inductive Resolution where
  | accepted (c : Ix)
  | late
  | noMatrix
deriving DecidableEq, Repr

/-- Cases 2 to 4 of R24 and R25, which are alike. -/
def State.resolveNew (s : State) (t : Tag) : Resolution × State :=
  if !tagNewerThan t s.frames.newestOpened then (.late, s)
  else if !s.hasMatrix t then (.noMatrix, s)
  else
    let k := s.openContext t
    (.accepted k.1, k.2)

/-- The resolution of a slope packet's tag (R24). -/
def State.resolveSlope (s : State) (t : Tag) : Resolution × State :=
  match s.ctxOfTag? t with
  | some c => if (s.ctx c).state = .assembling then (.accepted c, s) else (.late, s)
  | none => s.resolveNew t

/-- The resolution of a segment's tag (R25). -/
def State.resolveSegment (s : State) (t : Tag) : Resolution × State :=
  match s.ctxOfTag? t with
  | some c => if (s.ctx c).state = .done then (.late, s) else (.accepted c, s)
  | none => s.resolveNew t

end Sys2Proof.Machine
end

