-- ==== Sys2Proof/Machine/Ports.lean ====
section
/-! DEFINITION. The Slope Ports: header checks, ring room, the writing, the payload check and the flush of a packet, the
emptying of a ring, and the slope links (chapter 1, sections 1.2 and 1.3). -/

namespace Sys2Proof.Machine

/-! ## Ring words (R6) -/

/-- Words written into a ring from a position on; the word after 8191 is 0. -/
def writeWords (ring : Table RingWord.blank) (pos : Nat) : List RingWord → Table RingWord.blank
  | [] => ring
  | w :: ws => writeWords (ring.set (pos % Config.ringWords) w) (pos + 1) ws

/-- The port with words written at its write position, which advances past them. -/
def Port.append (x : Port) (ws : List RingWord) : Port :=
  { x with ring := writeWords x.ring x.writePos ws, writePos := (x.writePos + ws.length) % Config.ringWords }

/-- The ring emptied, a packet in reception abandoned (R12). -/
def Port.emptied (x : Port) : Port :=
  { x with ring := Table.blank, readPos := 0, visiblePos := 0, writePos := 0, freeCount := Config.ringWords, reception := none }

/-- The Column Engine has no packet of port `p` left to release. -/
def EngineWork.forgetPort (p : Ix) : EngineWork → EngineWork
  | .draining (some (q, d)) => if q = p then .draining none else .draining (some (q, d))
  | w => w

/-- A port's ring is emptied; held packets are discarded without being counted (R12). -/
def State.emptyRing (s : State) (p : Ix) : State :=
  { s.setPort p (s.port p).emptied with engine := { s.engine with work := s.engine.work.forgetPort p } }

/-! ## The header (R5, R7, R8, R9) -/

/-- The fields of a header of 10 bytes (R198). The context is not known yet. -/
def headerDescriptor (h : List Byte) : Descriptor :=
  ⟨BitVec.ofNat 16 (fieldAt h 0 2), fieldAt h 2 2, fieldAt h 4 2, (fieldAt h 6 1) % 2 = 1, .zero⟩

/-- The header CRC-16 is correct (R5, R197). -/
def headerHolds (h : List Byte) : Bool := 10 ≤ h.length && fieldAt h 8 2 == (crc16 (h.take 8)).toNat

/-- A packet that finds too little room (R7, R8). -/
def State.noRoom (s : State) (p : Ix) : State :=
  match (s.port p).config.fullMode with
  | .drop => (s.bump (.port p .droppedFull)).raise .packetDropped
  | .stop =>
    let s1 := (s.bump (.port p .stoppedDiscard)).setPort p { s.port p with state := .stopped }
    (s1.raise (portStopped p)).completionTests

/-- The descriptor of an accepted packet is written, and its context's held-packet count rises (R9). -/
def State.beginReception (s : State) (p c : Ix) (h : List Byte) : State :=
  let d := { headerDescriptor h with ctx := c }
  let x := (s.port p).append [.descriptor d, .descriptorRest]
  let k := s.ctx c
  (s.setPort p { x with reception := some ⟨h, d⟩ }).setCtx c
    { k with heldCount := k.heldCount.set p (k.heldCount.get p + 1) }

/-- A packet whose footprint has been reserved has its tag resolved (R9). -/
def State.resolvePacket (s : State) (p : Ix) (h : List Byte) : State :=
  let d := headerDescriptor h
  let reserved := s.setPort p { s.port p with freeCount := (s.port p).freeCount - footprint d.count }
  let r := reserved.resolveSlope d.tag
  let returned (t : State) : State := t.setPort p { t.port p with freeCount := (t.port p).freeCount + footprint d.count }
  match r.1 with
  | .accepted c => r.2.beginReception p c h
  | .late => ((returned r.2).bump (.port p .lateAtArrival)).raise .lateInput
  | .noMatrix => (returned r.2).bump (.port p .noMatrix)

/-- The header checks and the ring room test (R5, R7). -/
def State.header (s : State) (p : Ix) (h : List Byte) : State :=
  let d := headerDescriptor h
  let x := s.port p
  if !headerHolds h then (s.bump (.port p .headerErrors)).raise .linkCrc
  else if x.state != .running then s.bump (.port p .notRunning)
  else if d.count < 1 ∨ 256 < d.count ∨ x.config.slopeCount < d.first + d.count then s.bump (.port p .rangeErrors)
  else if x.freeCount < footprint d.count then s.noRoom p
  else s.resolvePacket p h

/-! ## The end of a packet (R10, R11) -/

/-- The context of a packet is still open with the descriptor's tag. -/
def State.stillOpen (s : State) (d : Descriptor) : Bool := (s.ctx d.ctx).isOpen && (s.ctx d.ctx).tag == d.tag

/-- The payload check: length and CRC-32 of the whole packet (R10). -/
def payloadHolds (r : Reception) (bytes : List Byte) : Bool :=
  (r.header ++ bytes).length == slopePacketLength r.descriptor.count && crc32Holds (r.header ++ bytes)

/-- The packet in reception is flushed (R11). -/
def State.flush (s : State) (p : Ix) (d : Descriptor) : State :=
  let x := s.port p
  let s1 := s.setPort p
    { x with writePos := x.visiblePos, freeCount := x.freeCount + footprint d.count, reception := none }
  let k := s1.ctx d.ctx
  if s1.stillOpen d then
    (s1.setCtx d.ctx { k with heldCount := k.heldCount.set p (k.heldCount.get p - 1) }).completionTest d.ctx
  else s1

/-- A port reports that it has delivered its last packet for a context (R10). -/
def State.reportLast (s : State) (p : Ix) (d : Descriptor) : State :=
  if d.last && s.stillOpen d then
    let k := s.ctx d.ctx
    (s.setCtx d.ctx { k with lastDelivered := k.lastDelivered.set p true }).completionTest d.ctx
  else s

/-- The packet in reception becomes visible (R10). -/
def State.makeVisible (s : State) (p : Ix) (d : Descriptor) (bytes : List Byte) : State :=
  let x := (s.port p).append (slopeWords (slopesOf d.count bytes))
  ((s.setPort p { x with visiblePos := x.writePos, reception := none }).reportLast p d).bump (.port p .accepted)

/-- A packet's frame ends (R10, R11). -/
def State.packetEnd (s : State) (p : Ix) (r : Reception) (bytes : List Byte) : State :=
  if payloadHolds r bytes then s.makeVisible p r.descriptor bytes
  else ((s.flush p r.descriptor).bump (.port p .payloadErrors)).raise .linkCrc

/-! ## The meanings -/

/-- SLOPE_PACKET_HEADER (R5). No packet arrives while the link is DOWN, and a port receives one packet at a time (R1, R4). -/
def execSlopePacketHeader (p : Ix) (bytes : List Byte) (s : State) : Host.Outcome State Fault Refusal :=
  .next (if (s.port p).linkUp && (s.port p).reception.isNone then s.header p bytes else s)

/-- SLOPE_PACKET_END (R10). The end of a packet that is not in reception is ignored. -/
def execSlopePacketEnd (p : Ix) (bytes : List Byte) (s : State) : Host.Outcome State Fault Refusal :=
  .next (match (s.port p).reception with
    | some r => s.packetEnd p r bytes
    | none => s)

/-- SL_LINK_DOWN (R4). -/
def execSlLinkDown (p : Ix) (s : State) : Host.Outcome State Fault Refusal :=
  .next (
    if (s.port p).linkUp then
      let s1 := ((s.setPort p { s.port p with linkUp := false }).bump (.port p .linkDown)).raise .linkDown
      match (s.port p).reception with
      | some r => (s1.flush p r.descriptor).bump (.port p .truncated)
      | none => s1
    else s)

/-- SL_LINK_UP (R4). -/
def execSlLinkUp (p : Ix) (s : State) : Host.Outcome State Fault Refusal :=
  .next (s.setPort p { s.port p with linkUp := true })

end Sys2Proof.Machine
end

