-- ==== Sys2Proof/Machine/Column.lean ====
section
/-! DEFINITION. The Column Engine: the choice of a packet, the correction of slopes, the substitution job, column fetches and
accumulation, and uncorrectable matrix data (chapter 1, sections 1.4 to 1.6, and chapter 3, section 3.3). -/

namespace Sys2Proof.Machine

/-! ## Column fetches (R52) -/

/-- Byte at which a bank area begins (R38). -/
def bankBase (b : Ix) : Nat := Config.bankBytes * b.toNat

/-- Byte at which segment `g` of column `i` of a bank begins (R38). -/
def segmentAddress (b : Ix) (i g : Nat) : Nat := bankBase b + Config.columnStride * i + 2 * Config.segmentSize * g

/-- The bursts that read column `i` of a bank, one per segment, for context `c` (R52). -/
def columnBursts (c b : Ix) (i a : Nat) : List Burst :=
  let n := segmentCount a
  (List.range n).map fun g =>
    ⟨.columnFetch c b i g, segmentAddress b i g, 2 * segmentLength a g, [], g + 1 = n, false⟩

/-- A column is fetched for a context: it is not CORRUPT and MATRIX_UNCORRECTABLE is clear (R55, R56). -/
def State.fetches (s : State) (c : Ix) : Bool :=
  !(s.ctx c).isCorrupt && !s.isPending .matrixUncorrectable && 0 < s.segments

/-- The engine takes in hand the pass of value `v` of index `i`, and its bursts join the column-fetch queue (R52). -/
def State.startColumn (s : State) (c : Ix) (i : Nat) (v : Int) : State :=
  let s1 : State := { s with engine := { s.engine with pass := some ⟨c, i, v⟩ } }
  s1.queueBursts (columnBursts c (s.ctx c).bank i s.params.actuators)

/-! ## Slope correction (R15) -/

/-- The slope at position `k` of the oldest packet of a ring (R6). -/
def Port.slopeAt (x : Port) (k : Nat) : BitVec 16 :=
  match x.ring.get ((x.readPos + 2 + k / 2) % Config.ringWords) with
  | .slopes lower upper => if k % 2 = 0 then lower else upper.getD 0
  | _ => 0

/-- A valid slope is taken into the context and the hold table (R15, case 3). -/
def State.acceptSlope (s : State) (p c : Ix) (i : Nat) (v : Int) : State :=
  let c0 := v - s.engine.refs.get i
  let w := clampInt (-32767) 32767 c0
  let x := (s.ctx c).addFlagIf (w != c0) .slopeClamp
  let s1 := (s.setCtx c { x with seen := x.seen.set i true, slopes := x.slopes.set i w }).bumpIf (w != c0) (.port p .clamped)
  { s1 with engine := { s1.engine with hold := s1.engine.hold.set i (some ⟨w, 0⟩) } }

/-- One slope of a packet in hand (R15): the corrected value, 0 where nothing is to be fetched, and the state. -/
def State.treatSlope (s : State) (p : Ix) (d : Descriptor) (k : Nat) : Int × State :=
  let i := s.localIndex p (d.first + k)
  let v := ((s.port p).slopeAt k).toInt
  if v = -32768 then (0, s)
  else if (s.ctx d.ctx).seen.get i then (0, s.bump (.port p .duplicates))
  else
    let s1 := s.acceptSlope p d.ctx i v
    ((s1.ctx d.ctx).slopes.get i, s1)

/-- The slopes of a packet in hand from position `k` on, as far as the next column fetch; `n` of them remain. At the end the
engine is done with the packet and the ring releases it (R13, R15, R52). -/
def State.continuePacket (s : State) (p : Ix) (d : Descriptor) (k : Nat) : Nat → State
  | 0 => State.releasePacket { s with engine := { s.engine with work := .idle } } p d
  | n + 1 =>
    let t := s.treatSlope p d k
    if t.1 ≠ 0 ∧ t.2.fetches d.ctx = true then
      State.startColumn { t.2 with engine := { t.2.engine with work := .packet p d (k + 1) } } d.ctx
        (s.localIndex p (d.first + k)) t.1
    else t.2.continuePacket p d (k + 1) n

/-! ## Substitution (R17, R18) -/

/-- How an unseen index is filled (R17, R18). -/
inductive Fill where
  | zero | held | lost
deriving DecidableEq, Repr

/-- The fill of index `i` by the policy of its port (R17, R18). -/
def State.fillOf (s : State) (i : Nat) : Fill :=
  let x := s.port (s.ownerOf i)
  if x.state = .idle ∨ x.config.policy = .zero then .zero
  else if (s.holdEntry i).age < x.config.holdLimit then .held
  else .lost

/-- One unseen index is filled (R17): the value used, and the state. -/
def State.substitute (s : State) (c : Ix) (i : Nat) : Int × State :=
  let p := s.ownerOf i
  let x := s.ctx c
  match s.fillOf i with
  | .zero => (0, (s.setCtx c { x with slopes := x.slopes.set i 0 }).bump (.port p .missing))
  | .held =>
    let h := s.holdEntry i
    let s1 := (s.setCtx c { x.addFlag .slopesSubstituted with slopes := x.slopes.set i h.value }).bump (.port p .substituted)
    (h.value, { s1 with engine := { s1.engine with hold := s1.engine.hold.set i (some ⟨h.value, h.age + 1⟩) } })
  | .lost =>
    (0, (s.setCtx c { x.addFlag .slopesLost with slopes := x.slopes.set i 0 }).bump (.port p .lost))

/-- The indices of a job in hand from `i` on, as far as the next column fetch; `n` of them remain. At the end the context is
ACCUMULATED (R17, R34). -/
def State.continueJob (s : State) (c : Ix) (i : Nat) : Nat → State
  | 0 => State.accumulated { s with engine := { s.engine with work := .idle } } c
  | n + 1 =>
    if (s.ctx c).seen.get i then s.continueJob c (i + 1) n
    else
      let t := s.substitute c i
      if t.1 ≠ 0 ∧ t.2.fetches c = true then
        State.startColumn { t.2 with engine := { t.2.engine with work := .job c (i + 1) } } c i t.1
      else t.2.continueJob c (i + 1) n

/-- The engine goes on with what it has in hand once a column is done, or once a burst that it waited for has ended. -/
def State.continueWork (s : State) : State :=
  match s.engine.work with
  | .idle => s
  | .packet p d k => s.continuePacket p d k (d.count - k)
  | .job c i => s.continueJob c i (s.slopeTotal - i)
  | .draining packet =>
    let s1 : State := { s with engine := { s.engine with work := .idle } }
    match packet with
    | some (p, d) => s1.releasePacket p d
    | none => s1

/-! ## Taking a packet (R13) -/

/-- Words of a ring that held packets occupy. -/
def Port.heldWords (x : Port) : Nat :=
  Config.ringWords - x.freeCount - (match x.reception with
    | some r => footprint r.descriptor.count
    | none => 0)

/-- The ring that the engine takes its next packet from, if one holds a packet (R13). -/
def State.nextRing? (s : State) : Option Ix :=
  let h0 := 0 < (s.port .zero).heldWords
  let h1 := 0 < (s.port .one).heldWords
  if h0 ∧ h1 then some s.engine.lastPort.other
  else if h0 then some .zero
  else if h1 then some .one
  else none

/-- The oldest packet of a ring is taken: processed slope by slope, or skipped (R13). -/
def State.takePacket (s : State) (p : Ix) (d : Descriptor) : State :=
  let s1 : State := { s with engine := { s.engine with lastPort := p } }
  if s.stillOpen d ∧ (s.ctx d.ctx).state = .assembling then
    State.continuePacket { s1 with engine := { s1.engine with work := .packet p d 0 } } p d 0 d.count
  else ((s1.bump (.port p .lateAtConsumption)).raise .lateInput).releasePacket p d

/-! ## Bursts delivered (R52, R55) -/

/-- The coefficients that a burst of a bank area holds. -/
def coefficients (bytes : List Byte) : List Int := (elements 2 bytes).map (fun e => signedOf 16 (leNat e))

/-- The products of `v` with a run of coefficients are added, from actuator `j` on (R52, R53). -/
def addProducts (sums : Table (0 : Int)) (v : Int) (j : Nat) : List Int → Table (0 : Int)
  | [] => sums
  | m :: ms => addProducts (sums.set j (sums.get j + v * m)) v (j + 1) ms

/-- A delivered burst is multiplied and added into the accumulators of its context (R52). -/
def State.addBurst (s : State) (b : Burst) : State :=
  match b.job, s.engine.pass with
  | .columnFetch c _ _ g, some k =>
    let x := s.ctx c
    s.setCtx c { x with
      sums := addProducts x.sums k.value (Config.segmentSize * g) (coefficients (s.dramBytes b.address b.length)) }
  | _, _ => s

/-- A context that is open and not DONE is marked CORRUPT (R55). -/
def State.markCorrupt (s : State) (c : Ix) : State :=
  let x := s.ctx c
  s.setCtx c (x.addFlagIf (x.isOpen && x.state != .done) .corrupt)

/-- A column-fetch burst is uncorrectable: the rest of the column is withdrawn, MATRIX_UNCORRECTABLE is latched and the open
contexts are marked CORRUPT (R55). -/
def State.matrixFails (s : State) : State :=
  ((((s.withdraw BurstJob.isColumn).markCorrupt .zero).markCorrupt .one).raise .matrixUncorrectable)

/-- The engine has no pass in hand. -/
def State.endPass (s : State) : State := { s with engine := { s.engine with pass := none } }

/-- A column-fetch burst ends (R39, R52, R54, R55, R58). -/
def State.columnDelivered (s : State) (b : Burst) : State :=
  let s1 := s.checkRead b
  if s.burstFails b then s1.matrixFails.grantDram.endPass.continueWork
  else if b.dropped then s1.grantDram.continueWork
  else
    let s2 := s1.grantDram.addBurst b
    if b.last then s2.endPass.continueWork else s2

/-! ## The meanings -/

/-- COLUMN_ENGINE_TAKE_PACKET (R13). The engine is ready when it has nothing in hand and no job is queued. -/
def execColumnEngineTakePacket (s : State) : Host.Outcome State Fault Refusal :=
  .next (
    if s.engine.work = .idle ∧ s.frames.jobs = [] then
      match s.nextRing? with
      | some p =>
        match (s.port p).ring.get (s.port p).readPos with
        | .descriptor d => s.takePacket p d
        | _ => s
      | none => s
    else s)

/-- SUBSTITUTION_JOB_RUN (R17): the job queued first runs (R18). -/
def execSubstitutionJobRun (s : State) : Host.Outcome State Fault Refusal :=
  .next (
    match s.engine.work, s.frames.jobs with
    | .idle, c :: rest =>
      let s1 : State := { s with
        frames := { s.frames with jobs := rest }
        engine := { s.engine with work := .job c 0 } }
      (s1.setCtx c { s1.ctx c with job := .running }).continueJob c 0 s.slopeTotal
    | _, _ => s)

/-- COLUMN_BURST_DELIVERED (R52), with the upsets that the burst finds. -/
def execColumnBurstDelivered (strikes : List Strike) (s : State) : Host.Outcome State Fault Refusal :=
  .next (match (s.strike strikes).takeBurst (fun b => b.job.isColumn) with
    | some (b, s1) => s1.columnDelivered b
    | none => s)

end Sys2Proof.Machine
end

