-- ==== Sys2Proof/Machine/Timers.lean ====
section
/-! DEFINITION. The timers: deadlines, the park refresh, starvation, echo entries, the event holdoff and the request watchdogs.
An expiry command stands for the moment at which its timer reaches its limit; where the timebase has not come so far yet, the
command carries it there (log entry 14). -/

namespace Sys2Proof.Machine

/-! ## Moments -/

/-- The moment an interval of `us` microseconds after `t`. -/
def after (t : Time) (us : Nat) : Time := t + BitVec.ofNat 32 us

/-- The timebase brought forward to a moment, unless it has reached it already. -/
def State.advanceTo (s : State) (t : Time) : State :=
  if hasReached s.now t then s else { s with frames := { s.frames with timebase := t } }

/-- How far a moment lies ahead of the timebase; negative when it is past. -/
def ahead (now t : Time) : Int := (t - now).toInt

/-- The element of a list whose moment comes first (the oldest of equals), and the list without it. -/
def takeSoonest {α : Type} (now : Time) (moment : α → Time) : List α → Option (α × List α)
  | [] => none
  | x :: xs =>
    match takeSoonest now moment xs with
    | none => some (x, [])
    | some (y, ys) => if ahead now (moment y) < ahead now (moment x) then some (y, x :: ys) else some (x, xs)

/-- Microseconds of a parameter given in milliseconds (00_scope.md section 5.4). -/
def millis (ms : Nat) : Nat := 1000 * ms

/-! ## Deadlines of a context (R33, R35) -/

/-- The moment of a context's assembly deadline (R31). -/
def Context.asmMoment (x : Context) : Time := after x.openTime x.dAsm

/-- The moment of a context's delivery deadline (R31). -/
def Context.delMoment (x : Context) : Time := after x.openTime x.dDel

/-- The assembly deadline of a context expires (R33). -/
def State.assemblyExpires (s : State) (c : Ix) : State :=
  let x := { s.ctx c with asmRunning := false }
  if x.state = .assembling ∧ x.job = .none then
    ((s.setCtx c (x.addFlag .assemblyDeadline)).queueJob c).bump .assemblyDeadlines
  else s.setCtx c x

/-- The delivery deadline of a context expires (R35). -/
def State.deliveryExpires (s : State) (c : Ix) : State :=
  let x := { s.ctx c with delRunning := false }
  match x.state with
  | .assembling => (s.setCtx c { x.addFlag .deliveryDeadline with deliveryPending := true }).bump .lateAccumulations
  | .accumulated | .merging =>
    ((s.setCtx c (x.addFlag .deliveryDeadline)).bump .deliveryDeadlines).forcedMerge c false
  | .free | .done => s.setCtx c x

/-- ASSEMBLY_DEADLINE (R33). A cancelled deadline does not expire. -/
def execAssemblyDeadline (c : Ix) (s : State) : Host.Outcome State Fault Refusal :=
  .next (
    if (s.ctx c).isOpen && (s.ctx c).asmRunning then (s.advanceTo (s.ctx c).asmMoment).assemblyExpires c else s)

/-- DELIVERY_DEADLINE (R35). A cancelled deadline does not expire. -/
def execDeliveryDeadline (c : Ix) (s : State) : Host.Outcome State Fault Refusal :=
  .next (
    if (s.ctx c).isOpen && (s.ctx c).delRunning then (s.advanceTo (s.ctx c).delMoment).deliveryExpires c else s)

/-! ## Timers of the loop (R143, R145) -/

/-- The moment at which the park refresh timer expires, while the loop is SAFE (R145). -/
def State.parkMoment? (s : State) : Option Time :=
  if s.loop.state = .safe then s.loop.parkRefresh.map (fun t => after t Config.parkRefresh) else none

/-- The moment at which the starvation timer expires, while the loop is OPEN or CLOSED (R143). -/
def State.starvationMoment? (s : State) : Option Time :=
  if s.loop.state.applies then s.loop.starvation.map (fun t => after t (millis s.params.starvationInterval)) else none

/-- A SHAPE frame is built and the park refresh timer restarts (R145). -/
def State.refreshPark (s : State) : State :=
  let s1 := s.buildShape
  { s1 with loop := { s1.loop with parkRefresh := some s1.now } }

/-- The starvation timer expires: the loop enters HELD, STARVATION_HOLD is raised and counted, and the actuator-side queue
drains (R143). -/
def State.starve (s : State) : State :=
  let s1 : State := { s with loop := { s.loop with state := .held, starvation := none } }
  ((s1.raise .starvationHold).bump .starvationHolds).drainActuator none

/-- PARK_REFRESH_EXPIRY (R145). -/
def execParkRefreshExpiry (s : State) : Host.Outcome State Fault Refusal :=
  .next (match s.parkMoment? with
    | some t => (s.advanceTo t).refreshPark
    | none => s)

/-- STARVATION_EXPIRY (R143). -/
def execStarvationExpiry (s : State) : Host.Outcome State Fault Refusal :=
  .next (match s.starvationMoment? with
    | some t => (s.advanceTo t).starve
    | none => s)

/-! ## Echo entries (R150) -/

/-- ECHO_ENTRY_EXPIRY (R150): the entry that expires first is counted as a miss and removed. -/
def execEchoEntryExpiry (s : State) : Host.Outcome State Fault Refusal :=
  .next (match takeSoonest s.now EchoEntry.expiry s.mirror.echoes with
    | some (e, rest) => State.missEcho { s.advanceTo e.expiry with mirror := { s.mirror with echoes := rest } }
    | none => s)

/-! ## The event holdoff (R191) -/

/-- The moment at which the event holdoff expires, by the parameter as it stands (R191). -/
def State.holdoffMoment? (s : State) : Option Time :=
  s.events.holdoff.map (fun t => after t (millis s.params.eventHoldoff))

/-- EVENT_HOLDOFF_EXPIRY (R191). -/
def execEventHoldoffExpiry (s : State) : Host.Outcome State Fault Refusal :=
  .next (match s.holdoffMoment? with
    | some t => State.reportTest { s.advanceTo t with events := { s.events with holdoff := none } }
    | none => s)

/-! ## Request watchdogs (R188) -/

/-- The moment at which the watchdog of a request in execution expires. -/
def Execution.moment (e : Execution) : Time := after e.acceptedAt e.watchdog

/-- The moment at which the watchdog of a staged entry expires. -/
def StagedEntry.moment {α : Type} (e : StagedEntry α) : Time := after e.acceptedAt e.watchdog

/-- A LOAD COLUMN. -/
def Transfer.isLoad : Transfer → Bool
  | .loadColumn _ _ _ _ => true
  | _ => false

/-- A request in execution is withdrawn before its first burst, and answered TIMED_OUT (R46, R51, R158, R179, R188). -/
def State.withdrawExecution (s : State) (e : Execution) : State :=
  let s1 := ((s.withdraw BurstJob.isRequest).leaveExecution.bump .timedOut).bumpIf e.transfer.isLoad .loadsTimedOut
  s1.respond e.request .timedOut none []

/-- A staged entry has been removed from its queue by its watchdog: it is answered TIMED_OUT (R188). -/
def State.stagedTimedOut {α : Type} (s : State) (e : StagedEntry α) : State := (s.bump .timedOut).respond e.request .timedOut none []

/-- REQUEST_WATCHDOG_EXPIRY (R188). The expiry has no effect on a request whose first burst has been granted. -/
def execRequestWatchdogExpiry (target : WatchdogTarget) (s : State) : Host.Outcome State Fault Refusal :=
  .next (
    match target with
    | .execution =>
      match s.mgmt.executing with
      | some e => if e.begun then s else (s.advanceTo e.moment).withdrawExecution e
      | none => s
    | .slopeSide =>
      match takeSoonest s.now StagedEntry.moment s.mgmt.slopeQueue with
      | some (e, rest) =>
        State.stagedTimedOut { s.advanceTo e.moment with mgmt := { s.mgmt with slopeQueue := rest } } e
      | none => s
    | .actuatorSide =>
      match takeSoonest s.now StagedEntry.moment s.mgmt.actuatorQueue with
      | some (e, rest) =>
        State.stagedTimedOut { s.advanceTo e.moment with mgmt := { s.mgmt with actuatorQueue := rest } } e
      | none => s)

/-! ## The tick (R20, R143, log entry 1) -/

/-- A command as often as there are moments of a list that the timebase has reached. -/
def State.dueOnes (s : State) (moments : List Time) (c : Instr) : List Instr :=
  (moments.filter (hasReached s.now)).map (fun _ => c)

/-- The deadlines of a context that are due. -/
def State.dueDeadlines (s : State) (c : Ix) : List Instr :=
  let x := s.ctx c
  if x.isOpen then
    s.dueOnes (if x.asmRunning then [x.asmMoment] else []) (.assemblyDeadline c)
      ++ s.dueOnes (if x.delRunning then [x.delMoment] else []) (.deliveryDeadline c)
  else []

/-- The expiries that are due, each as the command that it is, in the order in which the tick offers them (log entry 1). -/
def State.dueCommands (s : State) : List Instr :=
  s.dueDeadlines .zero ++ s.dueDeadlines .one
    ++ s.dueOnes s.parkMoment?.toList .parkRefreshExpiry
    ++ s.dueOnes s.starvationMoment?.toList .starvationExpiry
    ++ s.dueOnes (s.mirror.echoes.map EchoEntry.expiry) .echoEntryExpiry
    ++ s.dueOnes ((s.mgmt.executing.toList.filter (fun e => !e.begun)).map Execution.moment)
        (.requestWatchdogExpiry .execution)
    ++ s.dueOnes (s.mgmt.slopeQueue.map StagedEntry.moment) (.requestWatchdogExpiry .slopeSide)
    ++ s.dueOnes (s.mgmt.actuatorQueue.map StagedEntry.moment) (.requestWatchdogExpiry .actuatorSide)
    ++ s.dueOnes s.holdoffMoment?.toList .eventHoldoffExpiry
    ++ (if s.mgmt.reset = .due then [.nodeResetBegin] else [])

/-- What comes about with no command waiting: an expiry that is due becomes the command that waits, one at a time, so that one
which the expiry before it has put off does not come about (R143); with none due, one microsecond passes (R20). -/
def State.tick (s : State) : State :=
  match s.dueCommands with
  | c :: _ => { s with pending := [c] }
  | [] => { s with frames := { s.frames with timebase := s.frames.timebase + 1 } }

end Sys2Proof.Machine
end

