-- ==== Sys2Proof/Machine/Bursts.lean ====
section
/-! DEFINITION. The ends of the DRAM bursts that do not belong to the Column Engine: poke record fetches, telemetry writes and
reads, column loads, matrix readbacks, and the poke records of a request (R45, R51, R57, R158, R162, R174, R178, R179). -/

namespace Sys2Proof.Machine

/-! ## Poke record fetch (R159, R162) -/

/-- A fetched record arrives; without a running engine, or for a fetch given up, nothing is checked or counted (R159, R162). -/
def State.pokeArrives (s : State) (b : Burst) : State :=
  match s.poke with
  | none => s.grantDram
  | some e =>
    if b.dropped then s.grantDram
    else
      let s1 := (s.checkRead b).grantDram
      if s.burstFails b then s1.pokeFault else s1.judgeRecord e (s.dramBytes b.address b.length)

/-- POKE_RECORD_FETCH_ARRIVAL (R162). -/
def execPokeRecordFetchArrival (strikes : List Strike) (s : State) : Host.Outcome State Fault Refusal :=
  .next (match (s.strike strikes).takeBurst (fun b => b.job.isPoke) with
    | some (b, s1) => s1.pokeArrives b
    | none => s)

/-! ## Telemetry records (R174, R178, R179) -/

/-- TELEMETRY_RECORD_COMMIT (R174): the last burst of the record in flight has been written. -/
def execTelemetryRecordCommit (s : State) : Host.Outcome State Fault Refusal :=
  .next (
    match s.telemetry.inFlight, s.takeBurst (fun b => b.job.isTelemetryWrite && b.last && !b.dropped) with
    | some w, some (b, s1) => (s1.storeBurst b).grantDram.commitRecord w
    | _, _ => s)

/-- Bytes read join the chosen record that begins at a unit. -/
def joinChosen (unit : Nat) (bytes : List Byte) (chosen : List ChosenRecord) : List ChosenRecord :=
  chosen.map (fun k => if k.unit = unit then { k with data := k.data ++ bytes } else k)

/-- A read of telemetry records ends well: its response is made, and the records leave the ring (R178). -/
def State.readEnds (s : State) (e : Execution) (chosen : List ChosenRecord) : State :=
  let s1 := s.leaveExecution.respond e.request .done none (telemetryBody chosen)
  State.bumpBy { s1 with telemetry := s1.telemetry.dropOldest chosen.length } .recordsRead chosen.length

/-- A read of telemetry records meets an uncorrectable burst of the record that begins at a unit: the records before it are
carried, and it is discarded unread (R179). -/
def State.readFails (s : State) (e : Execution) (unit : Nat) (chosen : List ChosenRecord) : State :=
  let carried := chosen.takeWhile (fun k => k.unit != unit)
  let s1 := s.leaveExecution.respond e.request .mediaError none (telemetryBody carried)
  (State.bumpBy { s1 with telemetry := s1.telemetry.dropOldest (carried.length + 1) } .recordsRead carried.length).bump
    .mediaDiscarded

/-- A telemetry-read burst ends (R178, R179); `s` is the state in which it was in progress no longer. -/
def State.telemetryReadBurst (s : State) (b : Burst) : State :=
  let s1 := s.checkRead b
  match b.job, s1.mgmt.executing with
  | .telemetryRead unit, some e =>
    match e.transfer with
    | .readTelemetry chosen =>
      if b.dropped then s1.grantDram
      else if s.burstFails b then (s1.withdraw BurstJob.isTelemetryRead).grantDram.readFails e unit chosen
      else
        let chosen' := joinChosen unit (s.dramBytes b.address b.length) chosen
        let s2 := s1.grantDram
        if b.last then s2.readEnds e chosen'
        else { s2 with mgmt := { s2.mgmt with executing := some { e with transfer := .readTelemetry chosen' } } }
    | _ => s1.grantDram
  | _, _ => s1.grantDram

/-- TELEMETRY_READ_END (R178): the last burst of a read has been read. -/
def execTelemetryReadEnd (strikes : List Strike) (s : State) : Host.Outcome State Fault Refusal :=
  .next (match (s.strike strikes).takeBurst (fun b => b.job.isTelemetryRead && b.last && !b.dropped) with
    | some (b, s1) => s1.telemetryReadBurst b
    | none => s)

/-! ## Column loads and readbacks (R45, R51) -/

/-- The marks of a run of segments of a column, from segment `g` on (R40, R45). -/
def markSegments (t : Table false) (column g n : Nat) : Table false :=
  t.setRun (12 * column + g) (List.replicate n true)

/-- A load's write has ended: its segments are marked, it is counted and answered (R45). -/
def State.loadEnds (s : State) (e : Execution) : State :=
  match e.transfer with
  | .loadColumn k column first n =>
    let b := s.bank k
    let s1 := s.setBank k { b with coverage := markSegments b.coverage column first n }
    (s1.bump .loadsWritten).leaveExecution.respond e.request .done none []
  | _ => s

/-- A job of a column load. -/
def BurstJob.isLoad : BurstJob → Bool
  | .loadColumn => true
  | _ => false

/-- LOAD_COLUMN_WRITE_END (R45): the last burst of a load has been written. -/
def execLoadColumnWriteEnd (s : State) : Host.Outcome State Fault Refusal :=
  .next (
    match s.mgmt.executing, s.takeBurst (fun b => b.job.isLoad && b.last && !b.dropped) with
    | some e, some (b, s1) => (s1.storeBurst b).grantDram.loadEnds e
    | _, _ => s)

/-- The body of a matrix readback: covered, the coefficient count, and the coefficients (R51, R199). -/
def readbackBody (covered : Bool) (coefs : List Byte) : List Byte :=
  leBytes 1 (boolCode covered) ++ leBytes 1 0 ++ leBytes 2 (coefs.length / 2) ++ coefs

/-- The burst of a matrix readback ends (R51). -/
def State.readbackEnds (s : State) (e : Execution) (b : Burst) : State :=
  let s1 := (s.checkRead b).grantDram.leaveExecution
  if s.burstFails b then s1.respond e.request .mediaError none []
  else (s1.bump .readbacks).respond e.request .done none (readbackBody true (s.dramBytes b.address b.length))

/-- A job of a matrix readback. -/
def BurstJob.isReadback : BurstJob → Bool
  | .readback => true
  | _ => false

/-- READBACK_BURST_END (R51). -/
def execReadbackBurstEnd (strikes : List Strike) (s : State) : Host.Outcome State Fault Refusal :=
  .next (
    match s.mgmt.executing, (s.strike strikes).takeBurst (fun b => b.job.isReadback && !b.dropped) with
    | some e, some (b, s1) => s1.readbackEnds e b
    | _, _ => s)

/-! ## Poke records of a request (R158) -/

/-- A job of a WRITE OBJECT or READ OBJECT of poke records. -/
def BurstJob.isPokeTransfer : BurstJob → Bool
  | .pokeRecordWrite | .pokeRecordRead => true
  | _ => false

/-- A burst of poke records for a request ends (R158). An uncorrectable one withdraws the read's bursts still queued, and the
read is answered MEDIA_ERROR at once (DESIGN CHOICE, log entry 43). -/
def State.pokeTransferBurst (s : State) (e : Execution) (b : Burst) : State :=
  match e.transfer with
  | .pokeWrite =>
    let s1 := (s.storeBurst b).grantDram
    if b.last then s1.leaveExecution.respond e.request .done none [] else s1
  | .pokeRead data =>
    let s1 := s.checkRead b
    if s.burstFails b then
      (s1.withdraw BurstJob.isPokeTransfer).grantDram.leaveExecution.respond e.request .mediaError none []
    else
      let data' := data ++ s.dramBytes b.address b.length
      let s2 := s1.grantDram
      if b.last then s2.leaveExecution.respond e.request .done none data'
      else { s2 with mgmt := { s2.mgmt with executing := some { e with transfer := .pokeRead data' } } }
  | _ => s.grantDram

/-- POKE_RECORDS_TRANSFER_END (R158): the last burst of a write or read of poke records has ended. -/
def execPokeRecordsTransferEnd (strikes : List Strike) (s : State) : Host.Outcome State Fault Refusal :=
  .next (
    match s.mgmt.executing, (s.strike strikes).takeBurst (fun b => b.job.isPokeTransfer && b.last && !b.dropped) with
    | some e, some (b, s1) => s1.pokeTransferBurst e b
    | _, _ => s)

/-! ## Other bursts (R57, R58) -/

/-- The bursts that DRAM_BURST_COMPLETE ends: those of the three lower requesters that are not the last of their work, or
that have been given up. -/
def Burst.isOther (b : Burst) : Bool := !b.job.isColumn && !b.job.isPoke && (!b.last || b.dropped)

/-- A burst that nobody waits for ends: a write's bytes stand, and a read is checked like every read (R39, R57, R176). -/
def State.droppedEnds (s : State) (b : Burst) : State :=
  if b.data.isEmpty then (s.checkRead b).grantDram else (s.storeBurst b).grantDram

/-- A burst that is not the last of its work ends (R45, R158, R174, R178). -/
def State.partEnds (s : State) (b : Burst) : State :=
  match b.job with
  | .telemetryRead _ => s.telemetryReadBurst b
  | .pokeRecordWrite | .pokeRecordRead =>
    match s.mgmt.executing with
    | some e => s.pokeTransferBurst e b
    | none => s.droppedEnds b
  | .telemetryWrite | .loadColumn | .readback | .columnFetch _ _ _ _ | .pokeFetch _ => s.droppedEnds b

/-- DRAM_BURST_COMPLETE (R58): another burst completes, and the arbiter grants the next. -/
def execDramBurstComplete (strikes : List Strike) (s : State) : Host.Outcome State Fault Refusal :=
  .next (match (s.strike strikes).takeBurst Burst.isOther with
    | some (b, s1) => if b.dropped then s1.droppedEnds b else s1.partEnds b
    | none => s)

end Sys2Proof.Machine
end

