-- ==== Sys2Proof/Machine/Trunk.lean ====
section
/-! DEFINITION. The Trunk Interface: the checks of a frame on TI, its classification, the arrival of a segment at the Merge
Unit and of a request at the Management Unit, and the links TI and TO (chapter 4, and R78, R79, R183). -/

namespace Sys2Proof.Machine

/-! ## Segments handed to the Merge Unit (R78, R79) -/

/-- The segment's shape agrees with the node's own division, or A is unset (R78). -/
def State.shapeAgrees (s : State) (g : Segment) : Bool :=
  s.params.actuators == 0 || (g.count == s.segments && g.first == Config.segmentSize * g.index
    && g.actuators == segmentLength s.params.actuators g.index)

/-- A segment whose form and shape are good has its tag resolved (R79). -/
def State.segmentResolved (s : State) (frame : List Byte) (g : Segment) : State :=
  let r := s.resolveSegment g.tag
  match r.1 with
  | .accepted c => r.2.slotArrival c g
  | .late => (r.2.bump .lateSegments).raise .lateInput
  | .noMatrix => (r.2.placeRealtime frame).bump .passedThrough

/-- A PARTIAL frame is handed to the Merge Unit (R78). -/
def State.segmentArrives (s : State) (frame : List Byte) : State :=
  let p := framePayload frame
  if !formsSegment p then s.bump .malformedSegments
  else if !s.shapeAgrees (Segment.decode p) then s.bump .mismatchedSegments
  else s.segmentResolved frame (Segment.decode p)

/-! ## Requests handed to the Management Unit (R65, R183) -/

/-- Requests that the request queue holds: those that wait, and ahead of them the one in execution, which keeps its place until
it leaves execution (R183; the table of section 11.9 shows it there). -/
def State.requestsHeld (s : State) : Nat := s.mgmt.queue.length + s.mgmt.executing.toList.length

/-- A request joins the request queue, or is answered BUSY at once where the queue holds 8 (R183). -/
def State.requestArrives (s : State) (frame : List Byte) : State :=
  let r : Request := ⟨framePayload frame⟩
  let s1 := s.bump .consumedRequests
  if Config.requestCapacity ≤ s1.requestsHeld then (s1.bump .busy).respond r .busy none []
  else { s1 with mgmt := { s1.mgmt with queue := s1.mgmt.queue ++ [r] } }

/-! ## Classification (R65, R66) -/

/-- A frame is forwarded: placed in the control queue exactly as it arrived, and counted (R61, R65). -/
def State.forward (s : State) (frame : List Byte) : State := (s.placeControl ⟨frame, false⟩).bump .forwarded

/-- A frame that has passed its checks, by kind, destination and role (R65, R66). -/
def State.classify (s : State) (frame : List Byte) : State :=
  match frameKind frame with
  | 1 =>
    let s1 := s.bump .receivedPartial
    match s.params.role with
    | .middle | .tail => s1.segmentArrives frame
    | .head | .solo => s1.bump .partialDiscarded
  | 2 =>
    let s1 := s.bump .receivedRequest
    if frameDestination frame = s.nodeNumber.toNat then s1.requestArrives frame
    else if frameDestination frame = allNodes then (s1.forward frame).requestArrives frame
    else s1.forward frame
  | 3 => (s.bump .receivedResponse).forward frame
  | 4 => (s.bump .receivedEvent).forward frame
  | _ => s.bump .unknownKind

/-- The length checks of a trunk frame (R63, R199). -/
def lengthsHold (frame : List Byte) : Bool :=
  12 ≤ frame.length && fieldAt frame 4 2 ≤ Config.maxPayload && frame.length == 12 + fieldAt frame 4 2

/-- A frame ends on TI and is checked (R63). -/
def State.receive (s : State) (frame : List Byte) : State :=
  if !lengthsHold frame then (s.bump .lengthErrors).raise .linkCrc
  else if !crc32Holds frame then (s.bump .crcErrors).raise .linkCrc
  else s.classify frame

/-! ## The meanings -/

/-- TI_FRAME_RECEIVED (R63). While TI is DOWN no frame arrives (R64). -/
def execTiFrameReceived (bytes : List Byte) (s : State) : Host.Outcome State Fault Refusal :=
  .next (if s.trunk.tiUp then s.receive bytes else s)

/-- TI_LINK_DOWN (R64), with whether a frame was in reception. -/
def execTiLinkDown (inReception : Bool) (s : State) : Host.Outcome State Fault Refusal :=
  .next (
    if s.trunk.tiUp then
      let s1 : State := { s with trunk := { s.trunk with tiUp := false } }
      ((s1.raise .linkDown).bump .tiLinkDown).bumpIf inReception .truncatedTi
    else s)

/-- TI_LINK_UP (R64). -/
def execTiLinkUp (s : State) : Host.Outcome State Fault Refusal :=
  .next { s with trunk := { s.trunk with tiUp := true } }

/-- The moment has come at which a NODE RESET whose response waits begins (R73). -/
def State.resetDue (s : State) : State := { s with mgmt := { s.mgmt with reset := .due } }

/-- TO_SEND_END (R70). The end of the RESPONSE of a NODE RESET makes the reset due, if the reset still waits for it (R73). -/
def execToSendEnd (s : State) : Host.Outcome State Fault Refusal :=
  .next (
    match s.trunk.sending with
    | some x =>
      let s1 : State := { s with trunk := { s.trunk with sending := none } }
      let s2 := s1.bump (if x.realtime then .realtimeSent else .controlSent)
      (if x.frame.resetResponse && s2.mgmt.reset == .waiting then s2.resetDue else s2).grantTo
    | none => s)

/-- TO_LINK_DOWN (R71). A NODE RESET whose response has not been sent becomes due (R73). -/
def execToLinkDown (s : State) : Host.Outcome State Fault Refusal :=
  .next (
    if s.trunk.toUp then
      let s1 : State := { s with trunk := { s.trunk with toUp := false, sending := none } }
      let s2 := ((s1.raise .linkDown).bump .toLinkDown).bumpIf s.trunk.sending.isSome .transmitAborted
      if s2.mgmt.reset = .waiting then s2.resetDue else s2
    else s)

/-- TO_LINK_UP (R71). -/
def execToLinkUp (s : State) : Host.Outcome State Fault Refusal :=
  .next (State.grantTo { s with trunk := { s.trunk with toUp := true } })

end Sys2Proof.Machine
end

