-- ==== Sys2Proof/Machine/MirrorLink.lean ====
section
/-! DEFINITION. The commands of the mirror link ML: the end of a send, echoes, and the link's changes (R147, R150, R151, R152). -/

namespace Sys2Proof.Machine

/-! ## Sends (R147, R150) -/

/-- The counter of a frame sent to its end (R147, R156). -/
def MlKind.sentCounter : MlKind → Counter
  | .command => .commandSent
  | .shape => .shapeSent

/-- The waiting frame, if there is one, is sent (R147). -/
def State.promoteWaiting (s : State) : State :=
  { s with mirror := { s.mirror with sending := s.mirror.waiting, waiting := none } }

/-- ML_SEND_END (R147). The frame joins the outstanding-echo list unless a NODE RESET or a change of role has taken its entry
away (R150, R155); a HEAD or MIDDLE node keeps no entry (R151). -/
def execMlSendEnd (s : State) : Host.Outcome State Fault Refusal :=
  .next (
    match s.mirror.sending with
    | some f => ((if f.makesEntry && s.isTail then s.joinEchoes f else s).bump f.kind.sentCounter).promoteWaiting
    | none => s)

/-- ML_LINK_DOWN (R147, R152). -/
def execMlLinkDown (s : State) : Host.Outcome State Fault Refusal :=
  .next (
    if s.mirror.up then
      let s1 : State := { s with mirror := { s.mirror with up := false, sending := none, waiting := none } }
      let s2 := (((s1.raise .linkDown).bump .mlLinkDown).bumpIf s.mirror.sending.isSome .mlTransmitAborted).bumpIf
        s.mirror.waiting.isSome .unsent
      if s2.loop.state.applies then s2.loseMirror else s2
    else s)

/-- ML_LINK_UP (R147). -/
def execMlLinkUp (s : State) : Host.Outcome State Fault Refusal :=
  .next { s with mirror := { s.mirror with up := true } }

/-! ## Echoes (R151, R201) -/

/-- An ECHO frame is whole: 12 bytes, its CRC-32 right, and of kind 3 (R151, R201). -/
def echoHolds (f : List Byte) : Bool := f.length == 12 && crc32Holds f && fieldAt f 0 1 == 3

/-- The kind of frame that a code of an echo names (R200). -/
def MlKind.ofCode? : Nat → Option MlKind
  | 1 => some .command
  | 2 => some .shape
  | _ => none

/-- The entry answers to a kind code and a number. -/
def EchoEntry.answersTo (e : EchoEntry) (kind : Nat) (number : Tag) : Bool :=
  MlKind.ofCode? kind == some e.kind && e.number == number

/-- A list without its first element that satisfies `p`. -/
def dropFirst {α : Type} (p : α → Bool) : List α → List α
  | [] => []
  | x :: xs => if p x then xs else x :: dropFirst p xs

/-- A matched echo carries a fault code (R151). -/
def State.driverFault (s : State) (code : Nat) : State :=
  let s1 := State.bump { s with mirror := { s.mirror with lastDriverStatus := some code } } .driverFaults
  if s1.isPending .driverFault then s1 else (s1.raise .driverFault).enterSafe (.driverFault code)

/-- A matched echo, by its status (R151). -/
def State.matchedEcho (s : State) (status : Nat) : State :=
  if status = 0 then State.bump { s with mirror := { s.mirror with misses := 0 } } .echoesOk else s.driverFault status

/-- An ECHO frame arrives (R151). -/
def State.echo (s : State) (f : List Byte) : State :=
  let hit (e : EchoEntry) : Bool := e.answersTo (fieldAt f 4 1) (BitVec.ofNat 16 (fieldAt f 2 2))
  if !echoHolds f then s.bump .echoErrors
  else if !s.mirror.echoes.any hit then s.bump .unknownEchoes
  else State.matchedEcho { s with mirror := { s.mirror with echoes := dropFirst hit s.mirror.echoes } } (fieldAt f 5 1)

/-- ECHO_RECEIVED (R151). While ML is DOWN nothing arrives on it (R147). -/
def execEchoReceived (bytes : List Byte) (s : State) : Host.Outcome State Fault Refusal :=
  .next (if s.mirror.up then s.echo bytes else s)

end Sys2Proof.Machine
end

