-- ==== Sys2Proof/Machine/Requests.lean ====
section
/-! DEFINITION. What every request shares: the command that executes it, the oldest request of the queue, the checks in
their order, acceptance and refusal, and the placing of a staged write (R182 to R189, R201). -/

namespace Sys2Proof.Machine

/-! ## The command that executes a request -/

/-- The command that executes a READ OBJECT, by its object. -/
def readInstr : Option Nat → Instr
  | some 10 => .readPokeRecords
  | some 12 => .readMatrixColumnSegment
  | some 18 => .readCounters
  | _ => .readObject

/-- The command that executes a WRITE OBJECT, by its object. -/
def writeInstr : Option Nat → Instr
  | some 0 => .writeNodeParameters
  | some 1 => .writePortConfiguration
  | some 2 => .writePortConfiguration
  | some 3 => .writeReferenceSlopes
  | some 4 => .writeActuatorEntries
  | some 5 => .writeGainProfiles
  | some 6 => .writeOverrideRanges
  | some 7 => .writeSlaveRecords
  | some 8 => .writeNeighbourPairs
  | some 9 => .writeOpenShape
  | some 10 => .writePokeRecords
  | some 16 => .writeTelemetryConfiguration
  | some 17 => .writeEventState
  | _ => .writeObjectOther

/-- The command that executes a LOOP request, by its form (R199). -/
def loopInstr : Nat → Instr
  | 0 => .loopOff
  | 1 => .loopOpen
  | 2 => .loopClose
  | 3 => .loopHold
  | 4 => .resetIntegrators
  | _ => .writeObjectOther

/-- The command that executes a TELEMETRY request, by its form (R199). -/
def telemetryInstr : Nat → Instr
  | 0 => .telemetryArm
  | 1 => .telemetryStop
  | _ => .writeObjectOther

/-- The command that executes a request. One of no known kind or form, or too short for its fixed fields, is answered
BAD_REQUEST by the row for other writes, since no row of its own stands in the table (log entry 16). -/
def Request.instr (r : Request) : Instr :=
  if r.payload.length < 4 then .writeObjectOther
  else
    match r.kind with
    | 1 => readInstr r.object?
    | 2 => writeInstr r.object?
    | 3 => .bankSetup
    | 4 => .loadColumn
    | 5 => .closeBank
    | 6 => .swapBank
    | 7 => .retireBank
    | 8 => loopInstr r.form
    | 9 => .pokeStart
    | 10 => .pokeStop
    | 11 => telemetryInstr r.form
    | 12 => .readTelemetry
    | 13 => .clearFault
    | 14 => .nodeReset
    | _ => .writeObjectOther

/-- The oldest request, if its execution can begin and this is the command that executes it: no request is in execution, and
no NODE RESET waits to begin (R183, R195). -/
def State.oldest? (s : State) (i : Instr) : Option Request :=
  match s.mgmt.queue with
  | r :: _ => if s.mgmt.executing = none ∧ s.mgmt.reset = .none ∧ r.instr = i then some r else none
  | [] => none

/-- The oldest request leaves the queue. -/
def State.dequeue (s : State) : State := { s with mgmt := { s.mgmt with queue := s.mgmt.queue.drop 1 } }

/-- The execution of the oldest request by a command: nothing happens where the command does not execute it. -/
def State.serve (s : State) (i : Instr) (f : State → Request → State) : State :=
  match s.oldest? i with
  | some r => f s.dequeue r
  | none => s

/-! ## Checks, refusal, acceptance (R183, R184) -/

/-- The status of the first check that fails. -/
def firstFailure : List (Bool × Status) → Option Status
  | [] => none
  | (passes, st) :: rest => if passes then firstFailure rest else some st

/-- A request is refused: it is counted, and answered with the status alone (R182, R183). -/
def State.refuse (s : State) (r : Request) (st : Status) : State := (s.bump .requestsRefused).respond r st none []

/-- A request is answered DONE with a body. -/
def State.done (s : State) (r : Request) (body : List Byte) : State := s.respond r .done none body

/-- A request is judged by its checks in their order: refused, or accepted and carried out (R183). -/
def State.judge (s : State) (r : Request) (checks : List (Bool × Status)) (f : State → State) : State :=
  match firstFailure checks with
  | some st => s.refuse r st
  | none => f (s.bump .requestsAccepted)

/-- The form of a kind that has none is zero (R199, R201). -/
def Request.plain (r : Request) : Bool × Status := (r.form == 0, .badRequest)

/-- The body has a length. -/
def Request.bodyIs (r : Request) (n : Nat) : Bool × Status := (r.body.length == n, .badRequest)

/-- A byte, or a field of `n` bytes, of the body. -/
def Request.field (r : Request) (offset n : Nat) : Nat := fieldAt r.body offset n

/-- The request reaches a tail (R184). -/
def State.atTail (s : State) : Bool × Status := (s.isTail, .notTail)

/-! ## Runs of elements and items (R199) -/

/-- The first index that a table write names. -/
def Request.first (r : Request) : Nat := r.field 4 4

/-- The elements of a table write, after `skip` bytes of the body. -/
def Request.elementsOf (r : Request) (skip size : Nat) : List (List Byte) := elements size (r.body.drop skip)

/-- The body of a table write holds a first index and a whole number of elements, one or more. -/
def Request.holdsRun (r : Request) (size : Nat) : Bool × Status :=
  (8 < r.body.length && (r.body.length - 8) % size == 0, .badRequest)

/-- The run of a table write ends within a table of `limit` entries. -/
def Request.runWithin (r : Request) (size limit : Nat) : Bool × Status :=
  (r.first + (r.elementsOf 8 size).length ≤ limit, .badRange)

/-- The items of a parameter object write: item number and value. -/
def Request.items (r : Request) : List (Nat × Nat) := (r.elementsOf 4 8).map (fun e => (fieldAt e 0 2, fieldAt e 4 4))

/-- The body of a parameter object write holds a whole number of items, all of them numbers of the object's list. -/
def Request.holdsItems (r : Request) (count : Nat) : Bool × Status :=
  (4 ≤ r.body.length && (r.body.length - 4) % 8 == 0 && r.items.all (fun i => i.1 < count), .badRequest)

/-- No item is a read-only one (R201). -/
def Request.writesOnly (r : Request) (count : Nat) : Bool × Status := (r.items.all (fun i => i.1 < count), .badObject)

/-- An item in the encoding of R199. -/
def itemBytes (i : Nat × Nat) : List Byte := leBytes 2 i.1 ++ leBytes 2 0 ++ leBytes 4 i.2

/-- Items numbered on from `n`. -/
def numberItems : Nat → List Nat → List (Nat × Nat)
  | _, [] => []
  | n, v :: vs => (n, v) :: numberItems (n + 1) vs

/-! ## Staged writes (R28, R119, R187) -/

/-- The watchdog of a request accepted now, in microseconds (R186, R188). -/
def State.watchdogNow (s : State) : Nat := millis s.params.requestWatchdog

/-- The entry of a write accepted now. -/
def State.stagedEntry {α : Type} (s : State) (r : Request) (w : α) : StagedEntry α := ⟨r, s.now, s.watchdogNow, w⟩

/-- A write to a full staged queue is refused with BUSY and changes nothing (R187). -/
def State.stagedFull (s : State) (r : Request) : State := (s.bump .stagedFull).respond r .busy none []

/-- A slope-side write waits for an opening: a bank is LIVE or a context is open (R28). -/
def State.slopeWaits (s : State) : Bool := s.liveBank?.isSome || s.anyOpen

/-- A slope-side write that has passed its checks is placed, or takes effect at acceptance behind the entries still queued
(R28, R187). -/
def State.stageSlope (s : State) (r : Request) (w : SlopeWrite) : State :=
  if s.slopeWaits then
    if Config.stagedCapacity ≤ s.mgmt.slopeQueue.length then s.stagedFull r
    else
      let q := s.mgmt.slopeQueue ++ [s.stagedEntry r w]
      State.bump (State.bump { s with mgmt := { s.mgmt with slopeQueue := q } } .requestsAccepted) .stagedPlaced
  else (((s.bump .requestsAccepted).drainSlope none).applySlope w).done r []

/-- An actuator-side write that has passed its checks is placed, or, outside OPEN and CLOSED, takes effect at acceptance
(R116, R118, R119, R187). -/
def State.stageActuator (s : State) (r : Request) (w : ActuatorWrite) : State :=
  if s.loop.state.applies then
    if Config.stagedCapacity ≤ s.mgmt.actuatorQueue.length then s.stagedFull r
    else
      let q := s.mgmt.actuatorQueue ++ [s.stagedEntry r w]
      State.bump (State.bump { s with mgmt := { s.mgmt with actuatorQueue := q } } .requestsAccepted) .stagedPlaced
  else
    let s1 := (s.bump .requestsAccepted).applyActuator w
    (if w.changesClasses then s1.recomputeClasses else s1).done r []

/-- A staged write is judged by its checks in their order, and staged. -/
def State.judgeStaged (s : State) (r : Request) (checks : List (Bool × Status)) (f : State → State) : State :=
  match firstFailure checks with
  | some st => s.refuse r st
  | none => f s

/-! ## Requests that need the Memory Arbiter (R183) -/

/-- A request goes into execution with its bursts (R183, R188). -/
def State.execute (s : State) (r : Request) (t : Transfer) (bursts : List Burst) : State :=
  let e : Execution := ⟨r, s.now, s.watchdogNow, false, t⟩
  State.queueBursts { s with mgmt := { s.mgmt with executing := some e } } bursts

/-! ## Cancelled swaps (R49) -/

/-- The bank has the shape of the node: Nb = N0 + N1 and Ab = A (R48). -/
def State.shapeMatches (s : State) (b : Bank) : Bool :=
  b.nb == s.slopeTotal && b.ab == s.params.actuators && s.params.actuators != 0

/-- A scheduled swap is cancelled (R49). -/
def State.cancelSwap (s : State) : State :=
  match s.swap? with
  | some (b, _) => (s.setBank b { s.bank b with swapMark := none }).bump .swapsCancelled
  | none => s

/-- After a change of A or of a port's shape, a scheduled swap whose target no longer matches is cancelled (R49). -/
def State.recheckSwap (s : State) : State :=
  match s.swap? with
  | some (b, _) => if s.shapeMatches (s.bank b) then s else s.cancelSwap
  | none => s

/-- Role, A, and a port's enabled field and slope count can change: no bank is LIVE, no context is open, and a tail's loop is
OFF (R2, R76, R186). -/
def State.quiet (s : State) : Bool :=
  s.liveBank?.isNone && !s.anyOpen && (!s.isTail || s.loop.state == .off)

end Sys2Proof.Machine
end

