-- ==== Sys2Proof/Machine/Reads.lean ====
section
/-! DEFINITION. READ OBJECT: the common checks, the encoding of every object, and the reads that need the Memory Arbiter
(R51, R158, R184, R185, R193, R199). -/

namespace Sys2Proof.Machine

/-! ## State fields (R199) -/

/-- A state field of 4 bytes. -/
def word (v : Nat) : List Byte := leBytes 4 v

/-- A state field whose code is not stated: a free value (log entry 9). -/
def unstated (f : UnstatedField) (n : Nat) : List Byte := word (Config.unstatedCode f n).toNat

/-- A tag; an absent one reads FFFFFFFF hex (R199). -/
def tagWord : Option Tag → List Byte
  | some t => word t.toNat
  | none => word 0xFFFFFFFF

/-- A field that may be absent, with a free value in place of an absent one (log entry 9). -/
def orUnstated (f : UnstatedField) : Option Nat → List Byte
  | some v => word v
  | none => unstated f 0

/-! ## Items -/

/-- Role code to items: the node parameters in the order of their table (R186, R199). -/
def Params.values (p : Params) : List Nat :=
  [p.role.code, p.actuators, p.dAsm, p.dDel, p.expectedMask.toNat, p.kBad, p.saturationLimit, p.saturationFrames,
   p.starvationInterval, p.echoTimeout, p.echoMissLimit, p.dMax, p.requestWatchdog, p.eventHoldoff]

/-- The code of a port state (R199). -/
def PortState.code : PortState → Nat
  | .idle => 0 | .running => 1 | .stopped => 2

/-- The code of a missing-slope policy (R199). -/
def MissingPolicy.code : MissingPolicy → Nat
  | .zero => 0 | .hold => 1

/-- The code of a ring-full mode (R199). -/
def RingFullMode.code : RingFullMode → Nat
  | .drop => 0 | .stop => 1

/-- The code of a capture state (R199). -/
def CaptureState.code : CaptureState → Nat
  | .idle => 0 | .running => 1 | .triggered => 2 | .frozen => 3 | .stopped => 4

/-- The code of a telemetry full mode (R199). -/
def CaptureFullMode.code : CaptureFullMode → Nat
  | .wrap => 0 | .stop => 1

/-- The values of the items of a port configuration, written and read-only (R2, R199). -/
def Port.values (x : Port) : List Nat :=
  [boolCode x.config.enabled, x.config.slopeCount, x.config.policy.code, x.config.holdLimit, x.config.fullMode.code,
   x.state.code, boolCode x.linkUp, x.readPos, x.visiblePos, x.writePos, x.freeCount]

/-- The content mask, coded as bits 0..2 of byte 6 of a record header (R199). -/
def TelemetryConfig.contentMask (f : TelemetryConfig) : Nat :=
  boolCode f.slopeSection + 2 * boolCode f.residualSection + 4 * boolCode f.commandSection

/-- The values of the items of the telemetry object (R168, R169, R199). -/
def Telemetry.values (t : Telemetry) : List Nat :=
  [t.config.ringStart, t.config.ringEnd, t.config.contentMask, t.config.decimation, t.config.fullMode.code,
   t.config.triggerMask.toNat, t.config.postTrigger, t.state.code, t.readPos, t.writePos, t.recordCount, t.heldSize,
   t.freeSize, t.remaining, t.phase, t.nextRecord.toNat, boolCode t.inFlight.isSome]

/-- The values of the items of the event state (R192, R199). -/
def Events.values (e : Events) : List Nat :=
  [e.pending.toNat, e.enabled.toNat, e.critical.toNat, boolCode e.reportEnable, (e.reported &&& fatalSet).toNat,
   boolCode e.holdoff.isNone, e.frameNumber.toNat]

/-- Values as items numbered from 0. -/
def itemRun (vs : List Nat) : List Byte := (numberItems 0 vs).flatMap itemBytes

/-- The hold entries of a port's local slope indices (R16, R199). -/
def State.holdBytes (s : State) (p : Ix) : List Byte :=
  (List.range (s.port p).config.slopeCount).flatMap fun k =>
    let h := s.holdEntry (s.localIndex p k)
    sle16 h.value ++ leBytes 1 h.age ++ leBytes 1 0

/-! ## Elements (R199) -/

/-- An actuator entry of 8 bytes. -/
def ActuatorEntry.encode (e : ActuatorEntry) : List Byte :=
  sle16 e.lo ++ sle16 e.hi ++ sle16 e.park ++ leBytes 1 e.cls.code ++ leBytes 1 e.profile

/-- A gain profile of 8 bytes. -/
def GainProfile.encode (g : GainProfile) : List Byte := leBytes 4 g.gain ++ leBytes 4 g.leak

/-- An override range of 8 bytes. -/
def OverrideRange.encode (r : OverrideRange) : List Byte :=
  leBytes 2 r.first ++ leBytes 2 r.count ++ leBytes 1 r.cls.code ++ leBytes 1 (boolCode r.enabled) ++ leBytes 2 0

/-- A slave record of 12 bytes. DESIGN CHOICE, log entry 46: the master places beyond the master count read back as zeros. -/
def SlaveRecord.encode (r : SlaveRecord) : List Byte :=
  leBytes 2 r.slave ++ leBytes 1 r.masters.length ++ leBytes 1 0
    ++ ((r.masters ++ [0, 0, 0, 0]).take 4).flatMap (leBytes 2)

/-- The last applied tag before a run of integrator states or last outputs (R102, R130, R199). -/
def State.lastAppliedHead (s : State) : List Byte :=
  match s.lastApplied with
  | some t => leBytes 2 t.toNat ++ leBytes 1 1 ++ leBytes 1 0
  | none => leBytes 2 (Config.unstatedCode .absentEffectiveTag 1).toNat ++ leBytes 1 0 ++ leBytes 1 0

/-- The trunk states before a run of counters (R72, R199). -/
def State.trunkHead (s : State) : List Byte :=
  leBytes 1 (boolCode s.trunk.tiUp) ++ leBytes 1 (boolCode s.trunk.toUp) ++ leBytes 1 s.trunk.realtime.length
    ++ leBytes 1 s.trunk.control.length ++ leBytes 1 (boolCode s.trunk.sending.isSome) ++ leBytes 3 0

/-! ## State-field objects -/

/-- A code of a state (the number says which, for the free value that stands for it). -/
def CtxState.ordinal : CtxState → Nat
  | .free => 0 | .assembling => 1 | .accumulated => 2 | .merging => 3 | .done => 4

/-- The number of a bank state. -/
def BankState.ordinal : BankState → Nat
  | .empty => 0 | .loading => 1 | .ready => 2 | .live => 3

/-- The number of a snapshot state. -/
def SnapshotState.ordinal : SnapshotState → Nat
  | .empty => 0 | .held => 1 | .released => 2

/-- The number of a first cause. -/
def SafeCause.ordinal : SafeCause → Nat
  | .badFrames => 0 | .saturation => 1 | .mirrorLinkLost => 2 | .driverFault _ => 3

/-- The number of a swap mark. -/
def swapOrdinal : Option SwapTarget → Nat
  | none => 0
  | some .next => 1
  | some (.tag t) => 2 + t.toNat

/-- A mark of the coverage map: column and segment, in column order and then segment order. -/
def Bank.places (b : Bank) : List (Nat × Nat) :=
  (List.range b.nb).flatMap fun i => (List.range (segmentCount b.ab)).map fun g => (i, g)

/-- A segment of a column is marked loaded (R40). -/
def Bank.covered (b : Bank) (i g : Nat) : Bool := b.coverage.get (12 * i + g)

/-- The unmarked segments of a bank, in column order and then segment order (R40, R47). -/
def Bank.unmarked (b : Bank) : List (Nat × Nat) := b.places.filter (fun k => !b.covered k.1 k.2)

/-- A column and segment: column (2), segment (1), unused (1), as in an INCOMPLETE body (R199). -/
def placeBytes (k : Nat × Nat) : List Byte := leBytes 2 k.1 ++ leBytes 1 k.2 ++ leBytes 1 0

/-- One bank header (R40): the first unmarked segment is coded as in an INCOMPLETE body. -/
def Bank.header (b : Bank) : List Byte :=
  unstated .bankState b.state.ordinal ++ word b.nb ++ word b.ab ++ word b.scale ++ word b.label.toNat
    ++ word b.unmarked.length ++ ((b.unmarked.head?).map placeBytes).getD (unstated .noUnmarked 0)
    ++ unstated .swapMark (swapOrdinal b.swapMark) ++ word b.useCount

/-- The last uncorrectable location (R39): area, bank, column, segment, byte offset and timebase, with free values where a
field does not apply (log entry 9). -/
def lastBadBytes : Option (DramPlace × Time) → List Byte
  | some (.bank b i g, t) =>
    unstated .dramArea 0 ++ word b.toNat ++ word i ++ word g ++ unstated .noUncorrectable 4 ++ word t.toNat
  | some (.telemetry o, t) =>
    unstated .dramArea 1 ++ unstated .noUncorrectable 1 ++ unstated .noUncorrectable 2 ++ unstated .noUncorrectable 3
      ++ word o ++ word t.toNat
  | some (.poke o, t) =>
    unstated .dramArea 2 ++ unstated .noUncorrectable 1 ++ unstated .noUncorrectable 2 ++ unstated .noUncorrectable 3
      ++ word o ++ word t.toNat
  | none => (List.range 6).flatMap (unstated .noUncorrectable)

/-- The bank headers object (R40). -/
def State.bankHeaders (s : State) : List Byte :=
  (s.bank .zero).header ++ (s.bank .one).header ++ lastBadBytes s.bankStore.lastBad

/-- A context as the loop state object gives it (R22, R185): its state alone while it is FREE. Its frame flags take the bits that
R202 gives them in a telemetry record (DESIGN CHOICE, log entry 44). -/
def Context.stateBytes (x : Context) : List Byte :=
  unstated .contextState x.state.ordinal
    ++ (if x.isOpen then
      word x.tag.toNat ++ word x.bank.toNat ++ word x.label.toNat ++ word x.openTime.toNat ++ word x.flags.toNat else [])

/-- The Poke Engine as the loop state object gives it (R159, R185). Its phase carries the code of R200, 0 PUSH or 1 PULL (DESIGN
CHOICE, log entry 44). -/
def pokeBytes : Option PokeRun → List Byte
  | none => unstated .pokeState 0 ++ (List.range 4).flatMap (unstated .pokeItemWhileIdle)
  | some e =>
    unstated .pokeState 1 ++ word e.current ++ word (PokeMark.active e.current e.phase false).code
      ++ orUnstated .framesAwaiting (e.copy.map (fun _ => e.remaining))
      ++ orUnstated .noPrefetched (e.prefetched.map Prod.fst)

/-- The items of the loop state object that belong to the tail, at a tail (R134, R185). The loop state carries the code of R202,
and the ML link state 0 DOWN or 1 UP (DESIGN CHOICE, log entry 44). -/
def State.tailItems (s : State) : List Byte :=
  tagWord s.lastApplied ++ word s.loop.state.code ++ word s.loop.badFrames ++ word s.loop.satRun
    ++ orUnstated .absentInterval (s.loop.lastFinish.map (interval s.now))
    ++ word (boolCode s.mirror.up) ++ word s.mirror.echoes.length ++ word s.mirror.misses
    ++ orUnstated .absentDriverStatus s.mirror.lastDriverStatus
    ++ unstated .snapshotState s.loop.snapshotState.ordinal ++ pokeBytes s.poke

/-- The same items at a HEAD or MIDDLE node: their reset values, but for the snapshot, which such a node returns as it holds
it (R134, R154, R185). -/
def State.resetItems (s : State) : List Byte :=
  tagWord none ++ word 0 ++ word 0 ++ word 0 ++ orUnstated .absentInterval none ++ word 0 ++ word 0 ++ word 0
    ++ orUnstated .absentDriverStatus none ++ unstated .snapshotState s.loop.snapshotState.ordinal ++ pokeBytes none

/-- The loop state object (R185). -/
def State.loopState (s : State) : List Byte :=
  word s.now.toNat ++ tagWord s.frames.newestOpened ++ tagWord s.frames.newestDelivered ++ (s.ctx .zero).stateBytes
    ++ (s.ctx .one).stateBytes ++ (if s.isTail then s.tailItems else s.resetItems)

/-- The fields of a snapshot (R153). The loop state carries the code of R202, and the poke phase with the IDLE mark that of R200.
Each row of R153 that names two values is sent as two fields of 4 bytes, in the order named (DESIGN CHOICE, log entry 44). -/
def Snapshot.bytes (n : Snapshot) : List Byte :=
  unstated .firstCause n.cause.ordinal ++ orUnstated .absentDriverStatus n.cause.code? ++ tagWord n.lastFinished
    ++ tagWord n.lastApplied ++ word n.loopBefore.code ++ word n.badFrames ++ word n.satRun ++ word n.lastClampCount
    ++ orUnstated .noLiveBank (n.liveBank.map (fun b => b.1.toNat))
    ++ orUnstated .noLiveBank (n.liveBank.map (fun b => b.2.toNat))
    ++ orUnstated .pokeItemWhileIdle (n.poke.map Prod.fst)
    ++ word ((n.poke.map (fun k => (PokeMark.active k.1 k.2 false).code)).getD PokeMark.idle.code)
    ++ word n.latches.toNat ++ word n.timestamp.toNat ++ word n.later.toNat

/-- The fault snapshot object (R154): its state and, unless it is EMPTY, every field. -/
def State.snapshotBytes (s : State) : List Byte :=
  unstated .snapshotState s.loop.snapshotState.ordinal
    ++ (if s.loop.snapshotState = .empty then [] else (s.loop.snapshot.map Snapshot.bytes).getD [])

/-! ## Objects (R185, R199) -/

/-- The number of entries of a table object (R184); none for an object that is not a table read by first index and count. -/
def tableEntries : Nat → Option Nat
  | 3 => some Config.maxSlopes
  | 4 => some Config.maxActuators
  | 5 => some 16
  | 6 => some 8
  | 7 => some 512
  | 8 => some 16384
  | 9 => some Config.maxActuators
  | 10 => some 1024
  | 13 => some Config.maxActuators
  | 14 => some Config.maxActuators
  | 18 => some counterCount
  | _ => none

/-- Bytes of the body of a READ OBJECT of a table: what stands before its run, and the size of an element (R199). -/
def tableBody : Nat → Nat → Nat
  | 3, n => 2 * n
  | 4, n => 12 * n
  | 5, n => 8 * n
  | 6, n => 8 * n
  | 7, n => 12 * n
  | 8, n => 4 + 4 * n
  | 9, n => 2 * n
  | 10, n => 128 * n
  | 13, n => 4 + 4 * n
  | 14, n => 4 + 2 * n
  | 18, n => 8 + 4 * n
  | _, _ => 0

/-- Entries of a run, one after the other. -/
def runBytes (first count : Nat) (f : Nat → List Byte) : List Byte :=
  (List.range count).flatMap (fun k => f (first + k))

/-- The body of a READ OBJECT that is answered at acceptance, by its object (R185, R199). -/
def State.objectBody (s : State) (object first count : Nat) : List Byte :=
  match object with
  | 0 => itemRun s.params.values
  | 1 => itemRun (s.port .zero).values ++ s.holdBytes .zero
  | 2 => itemRun (s.port .one).values ++ s.holdBytes .one
  | 3 => runBytes first count (fun k => sle16 (s.engine.refs.get k))
  | 4 => runBytes first count (fun k => (s.actuator k).encode ++ leBytes 1 (s.classOf k).code ++ leBytes 3 0)
  | 5 => runBytes first count (fun k => (s.tables.gains.get k).encode)
  | 6 => runBytes first count (fun k => (s.tables.overrides.get k).encode)
  | 7 => runBytes first count (fun k => (s.tables.slaves.get k).encode)
  | 8 => leBytes 4 s.tables.pairCount
      ++ runBytes first count (fun k => leBytes 2 (s.tables.pairs.get k).1 ++ leBytes 2 (s.tables.pairs.get k).2)
  | 9 => runBytes first count (fun k => sle16 (s.tables.openShape.get k))
  | 11 => s.bankHeaders
  | 13 => s.lastAppliedHead ++ runBytes first count (fun k => leBytes 4 (unsignedOf 32 (s.tables.integrators.get k)))
  | 14 => s.lastAppliedHead ++ runBytes first count (fun k => sle16 (s.tables.lastOutputs.get k))
  | 15 => s.loopState
  | 16 => itemRun s.telemetry.values
  | 17 => itemRun s.events.values
  | 18 => s.trunkHead ++ runBytes first count (fun k => leBytes 4 (s.counters.get k))
  | 19 => s.snapshotBytes
  | _ => []

/-! ## Checks (R184) -/

/-- The object of a READ OBJECT; 0 where the body does not name one, which the first check refuses. -/
def Request.objectNumber (r : Request) : Nat := r.object?.getD 0

/-- The first index of a READ OBJECT. -/
def Request.readFirst (r : Request) : Nat := r.field 4 4

/-- The count of a READ OBJECT. -/
def Request.readCount (r : Request) : Nat := r.field 8 4

/-- The clear option of a READ OBJECT. -/
def Request.clears (r : Request) : Bool := r.field 1 1 == 1

/-- The checks of a READ OBJECT as far as its object's own (R184, R199, R201). -/
def Request.readChecks (r : Request) : List (Bool × Status) :=
  [r.plain, (r.object?.isSome, .badRequest), (r.objectNumber ≤ 19, .badObject), r.bodyIs 12, (r.field 1 1 ≤ 1, .badValue),
   (!r.clears || r.objectNumber == 18, .badObject)]

/-- The checks of a READ OBJECT of a table: the size of its response, and its run (R184). -/
def Request.runChecks (r : Request) : List (Bool × Status) :=
  match tableEntries r.objectNumber with
  | some n =>
    [(8 + tableBody r.objectNumber r.readCount ≤ Config.maxPayload, .badRange), (r.readCount != 0, .badRange),
     (r.readFirst + r.readCount ≤ n, .badRange)]
  | none => []

/-! ## The meanings -/

/-- A READ OBJECT that is answered at acceptance (R185). -/
def State.readNow (s : State) (r : Request) : State :=
  s.judge r (r.readChecks ++ r.runChecks) fun t => t.done r (t.objectBody r.objectNumber r.readFirst r.readCount)

/-- READ_OBJECT (R185): every object but the counters, a matrix column segment and poke records. -/
def execReadObject (s : State) : Host.Outcome State Fault Refusal := .next (s.serve .readObject State.readNow)

/-- A run of counters set to 0 (R193). -/
def State.clearCounters (s : State) (first count : Nat) : State :=
  { s with counters := s.counters.clearWhere (fun k => first ≤ k && k < first + count) }

/-- A read of the counters, which it clears in the same step if so asked (R193). -/
def State.readCounters (s : State) (r : Request) : State :=
  s.judge r (r.readChecks ++ r.runChecks) fun t =>
    let body := t.objectBody 18 r.readFirst r.readCount
    (if r.clears then t.clearCounters r.readFirst r.readCount else t).done r body

/-- READ_COUNTERS (R193). -/
def execReadCounters (s : State) : Host.Outcome State Fault Refusal := .next (s.serve .readCounters State.readCounters)

/-- The bank that a readback names. -/
def Request.readBank? (r : Request) : Option Ix := Ix.ofNat? r.readFirst

/-- The column that a readback names: count holds column x 16 + segment (R199). -/
def Request.readColumn (r : Request) : Nat := r.readCount / 16

/-- The segment that a readback names. -/
def Request.readSegment (r : Request) : Nat := r.readCount % 16

/-- The byte at which segment `g` of column `i` of bank `b` lies, with the bytes of its coefficients (R38, R51). -/
def State.segmentPlace (s : State) (b : Ix) (i g : Nat) : Nat × Nat :=
  (segmentAddress b i g, 2 * segmentLength (s.bank b).ab g)

/-- A matrix readback of a bank that exists (R51). -/
def State.readback (s : State) (r : Request) (b : Ix) : State :=
  let k := s.bank b
  let i := r.readColumn
  let g := r.readSegment
  s.judge r [(k.state != .empty, .wrongState), (i < k.nb && g < segmentCount k.ab, .badRange)] fun t =>
    if k.covered i g then t.execute r (.readback b i g) (readBursts .readback [t.segmentPlace b i g])
    else (t.bump .readbacks).done r (readbackBody false [])

/-- READ_MATRIX_COLUMN_SEGMENT (R51). -/
def execReadMatrixColumnSegment (s : State) : Host.Outcome State Fault Refusal :=
  .next (s.serve .readMatrixColumnSegment fun t r =>
    match firstFailure r.readChecks, r.readBank? with
    | some st, _ => t.refuse r st
    | none, none => t.refuse r .badValue
    | none, some b => t.readback r b)

/-- The places of a run of poke records (R157). -/
def pokePlaces (first count : Nat) : List (Nat × Nat) := (List.range count).map (fun k => (pokeAddress (first + k), 128))

/-- A READ OBJECT of poke records (R158). -/
def State.readPoke (s : State) (r : Request) : State :=
  s.judge r (r.readChecks ++ r.runChecks) fun t =>
    t.execute r (.pokeRead []) (readBursts .pokeRecordRead (pokePlaces r.readFirst r.readCount))

/-- READ_POKE_RECORDS (R158). -/
def execReadPokeRecords (s : State) : Host.Outcome State Fault Refusal := .next (s.serve .readPokeRecords State.readPoke)

end Sys2Proof.Machine
end

