-- ==== Sys2Proof/Machine/Writes.lean ====
section
/-! DEFINITION. WRITE OBJECT: the checks of every object and what an accepted write does (R2, R14, R99, R108, R114, R115, R117,
R127, R158, R169, R184, R186, R192). -/

namespace Sys2Proof.Machine

/-! ## Node parameters (R186) -/

/-- A value of a node parameter lies in its range (R31, R89, R127, R140, R186). -/
def paramInRange (item v : Nat) : Bool :=
  match item with
  | 0 => v ≤ 3
  | 1 => 1 ≤ v && v ≤ Config.maxActuators
  | 2 => 20 ≤ v && v ≤ 5000
  | 3 => 40 ≤ v && v ≤ 10000
  | 4 => 1 ≤ v && v ≤ 255
  | 5 => 1 ≤ v && v ≤ 255
  | 6 => v ≤ 6144
  | 7 => 1 ≤ v && v ≤ 1000
  | 8 => 1 ≤ v && v ≤ 1000
  | 9 => 100 ≤ v && v ≤ 10000
  | 10 => 1 ≤ v && v ≤ 64
  | 11 => 1 ≤ v && v ≤ 65535
  | 12 => 1 ≤ v && v ≤ 1000
  | 13 => v ≤ 100
  | _ => false

/-- The parameters with one of them written. -/
def Params.setItem (p : Params) (i : Nat × Nat) : Params :=
  match i.1 with
  | 0 => { p with role := (Role.ofCode? i.2).getD p.role }
  | 1 => { p with actuators := i.2 }
  | 2 => { p with dAsm := i.2 }
  | 3 => { p with dDel := i.2 }
  | 4 => { p with expectedMask := BitVec.ofNat 8 i.2 }
  | 5 => { p with kBad := i.2 }
  | 6 => { p with saturationLimit := i.2 }
  | 7 => { p with saturationFrames := i.2 }
  | 8 => { p with starvationInterval := i.2 }
  | 9 => { p with echoTimeout := i.2 }
  | 10 => { p with echoMissLimit := i.2 }
  | 11 => { p with dMax := i.2 }
  | 12 => { p with requestWatchdog := i.2 }
  | 13 => { p with eventHoldoff := i.2 }
  | _ => p

/-- The parameters with every item of a write applied, in their order (an item named twice: log entry 25). -/
def Params.setItems (p : Params) (is : List (Nat × Nat)) : Params := is.foldl Params.setItem p

/-- A write that would change role or A needs the node quiet (R186). -/
def State.paramsAllowed (s : State) (new : Params) : Bool :=
  (new.role == s.params.role && new.actuators == s.params.actuators) || s.quiet

/-- The checks of a write of the node parameters (R31, R184, R186). -/
def State.paramChecks (s : State) (r : Request) : List (Bool × Status) :=
  let new := s.params.setItems r.items
  [r.plain, r.holdsItems 14, (!r.items.isEmpty, .badRequest),
   (r.items.all (fun i => paramInRange i.1 i.2) && new.dAsm < new.dDel, .badValue), (s.paramsAllowed new, .wrongState)]

/-- New node parameters in force: with a role that is no longer a tail's the mirror link falls silent (R150, R151), and a change
of A may cancel a scheduled swap (R49, R186). DESIGN CHOICE, log entry 38: the other state of the Loop Supervisor and of the
Mirror Link Interface, and the last applied tag of R90, are kept for the node's next time as a tail. -/
def State.setParams (s : State) (new : Params) : State :=
  let s1 : State := { s with params := new }
  let s2 := if s.isTail && !s1.isTail then { s1 with mirror := s1.mirror.silenced } else s1
  if new.actuators = s.params.actuators then s2 else s2.recheckSwap

/-- A write of the node parameters. -/
def State.writeParams (s : State) (r : Request) : State :=
  s.judge r (s.paramChecks r) fun t => (t.setParams (t.params.setItems r.items)).done r []

/-- WRITE_NODE_PARAMETERS (R186). -/
def execWriteNodeParameters (s : State) : Host.Outcome State Fault Refusal :=
  .next (s.serve .writeNodeParameters State.writeParams)

/-! ## Port configuration (R2, R12, R16, R49) -/

/-- A value of a port configuration item lies in its range (R2). -/
def portInRange (item v : Nat) : Bool :=
  match item with
  | 0 => v ≤ 1
  | 1 => v ≤ 4096 && v % 2 == 0
  | 2 => v ≤ 1
  | 3 => 1 ≤ v && v ≤ 255
  | 4 => v ≤ 1
  | _ => false

/-- The last value that a write gives an item, if it names the item (an item named twice: log entry 25). -/
def lastItem (is : List (Nat × Nat)) (n : Nat) : Option Nat := ((is.filter (fun i => i.1 == n)).getLast?).map Prod.snd

/-- The immediate fields of a configuration with a write's items applied; policy and hold limit stay (R2). -/
def PortConfig.setNow (f : PortConfig) (is : List (Nat × Nat)) : PortConfig :=
  { f with
    enabled := ((lastItem is 0).map (fun v => v == 1)).getD f.enabled
    slopeCount := (lastItem is 1).getD f.slopeCount
    fullMode := ((lastItem is 4).map (fun v => if v = 1 then RingFullMode.stop else .drop)).getD f.fullMode }

/-- The policy that a write names. -/
def policyOf (is : List (Nat × Nat)) : Option MissingPolicy :=
  (lastItem is 2).map (fun v => if v = 1 then MissingPolicy.hold else .zero)

/-- The enabled field or the slope count differs. -/
def PortConfig.reshapes (f g : PortConfig) : Bool := f.enabled != g.enabled || f.slopeCount != g.slopeCount

/-- The port of a port configuration object. -/
def Request.portOf (r : Request) : Ix := if r.object? = some 2 then .one else .zero

/-- The port state after a change of the enabled field (R3). -/
def PortState.afterEnable (st : PortState) (was now : Bool) : PortState :=
  if was = now then st else if now then .running else .idle

/-- The immediate fields of a port configuration take effect. A change of enabled or slope count empties the port's ring and
zeroes the whole hold table, and may cancel a scheduled swap (R2, R3, R12, R16, R49). -/
def State.setPortNow (s : State) (p : Ix) (new : PortConfig) : State :=
  let x := s.port p
  let s1 := s.setPort p { x with config := new, state := x.state.afterEnable x.config.enabled new.enabled }
  if x.config.reshapes new then ((s1.emptyRing p).zeroHold).recheckSwap else s1

/-- The checks of a port configuration write (R2, R184, R201). -/
def State.portChecks (s : State) (r : Request) : List (Bool × Status) :=
  let old := (s.port r.portOf).config
  [r.plain, r.holdsItems 11, r.writesOnly 5, (r.items.all (fun i => portInRange i.1 i.2), .badValue),
   (!old.reshapes (old.setNow r.items) || s.quiet, .wrongState)]

/-- The staged part of a port configuration write, if it names policy or hold limit (R2). -/
def Request.stagedPort (r : Request) : Option SlopeWrite :=
  if (policyOf r.items).isSome || (lastItem r.items 3).isSome then
    some (.portPolicy r.portOf (policyOf r.items) (lastItem r.items 3))
  else none

/-- A port configuration write that has passed its checks: immediate fields at acceptance, the rest staged (R2, R187). -/
def State.writePortChecked (s : State) (r : Request) : State :=
  let p := r.portOf
  let new := (s.port p).config.setNow r.items
  match r.stagedPort with
  | none => ((s.bump .requestsAccepted).setPortNow p new).done r []
  | some w =>
    if s.slopeWaits && Config.stagedCapacity ≤ s.mgmt.slopeQueue.length then s.stagedFull r
    else (s.setPortNow p new).stageSlope r w

/-- A write of a port configuration. -/
def State.writePort (s : State) (r : Request) : State := s.judgeStaged r (s.portChecks r) fun t => t.writePortChecked r

/-- WRITE_PORT_CONFIGURATION (R2). -/
def execWritePortConfiguration (s : State) : Host.Outcome State Fault Refusal :=
  .next (s.serve .writePortConfiguration State.writePort)

/-! ## Slope side: reference slopes (R14) -/

/-- The signed 16-bit values of a run. -/
def Request.values16 (r : Request) : List Int := (r.elementsOf 8 2).map (fun e => signedAt e 0 2)

/-- A write of reference slopes. -/
def State.writeReferences (s : State) (r : Request) : State :=
  s.judgeStaged r
    [r.plain, r.holdsRun 2, r.runWithin 2 Config.maxSlopes, (r.values16.all (fun v => v != -32768), .badValue)]
    fun t => t.stageSlope r (.references r.first r.values16)

/-- WRITE_REFERENCE_SLOPES (R14). -/
def execWriteReferenceSlopes (s : State) : Host.Outcome State Fault Refusal :=
  .next (s.serve .writeReferenceSlopes State.writeReferences)

/-! ## Actuator side (R99, R108, R114, R115, R117, R127) -/

/-- The actuator entry that 8 bytes spell, if the class is one of the four, lo is not above hi, park lies between them and
the profile exists (R114). -/
def ActuatorEntry.decode? (e : List Byte) : Option ActuatorEntry :=
  let lo := signedAt e 0 2
  let hi := signedAt e 2 2
  let park := signedAt e 4 2
  match ActClass.ofCode? (fieldAt e 6 1) with
  | some c => if lo ≤ park ∧ park ≤ hi ∧ fieldAt e 7 1 ≤ 15 then some ⟨lo, hi, park, c, fieldAt e 7 1⟩ else none
  | none => none

/-- A write of actuator entries. -/
def State.writeActuators (s : State) (r : Request) : State :=
  let es := (r.elementsOf 8 8).map ActuatorEntry.decode?
  s.judgeStaged r [r.plain, r.holdsRun 8, r.runWithin 8 Config.maxActuators, (es.all Option.isSome, .badValue)]
    fun t => t.stageActuator r (.actuatorEntries r.first (es.filterMap id))

/-- WRITE_ACTUATOR_ENTRIES (R114). -/
def execWriteActuatorEntries (s : State) : Host.Outcome State Fault Refusal :=
  .next (s.serve .writeActuatorEntries State.writeActuators)

/-- The gain profile that 8 bytes spell. -/
def GainProfile.decode (e : List Byte) : GainProfile := ⟨fieldAt e 0 4, fieldAt e 4 4⟩

/-- G and L lie in their ranges (R98). -/
def GainProfile.inRange (g : GainProfile) : Bool := g.gain ≤ 32768 && g.leak ≤ 65536

/-- A write of gain profiles. -/
def State.writeGains (s : State) (r : Request) : State :=
  let gs := (r.elementsOf 8 8).map GainProfile.decode
  s.judgeStaged r [r.plain, r.holdsRun 8, r.runWithin 8 16, (gs.all GainProfile.inRange, .badValue)]
    fun t => t.stageActuator r (.gainProfiles r.first gs)

/-- WRITE_GAIN_PROFILES (R99). -/
def execWriteGainProfiles (s : State) : Host.Outcome State Fault Refusal :=
  .next (s.serve .writeGainProfiles State.writeGains)

/-- An override range covers at least one actuator and none at A or above (R115). -/
def overrideFits (a : Nat) (e : List Byte) : Bool := 1 ≤ fieldAt e 2 2 && fieldAt e 0 2 + fieldAt e 2 2 ≤ a

/-- The override range that 8 bytes spell, if its class and its enabled field are codes that are listed (R115, R201). -/
def OverrideRange.decode? (e : List Byte) : Option OverrideRange :=
  match ActClass.ofCode? (fieldAt e 4 1) with
  | some c => if fieldAt e 5 1 ≤ 1 then some ⟨fieldAt e 0 2, fieldAt e 2 2, c, fieldAt e 5 1 == 1⟩ else none
  | none => none

/-- A write of override ranges. -/
def State.writeOverrides (s : State) (r : Request) : State :=
  let es := r.elementsOf 8 8
  s.judgeStaged r
    [r.plain, r.holdsRun 8, r.runWithin 8 8, (es.all (overrideFits s.params.actuators), .badRange),
     (es.all (fun e => (OverrideRange.decode? e).isSome), .badValue)]
    fun t => t.stageActuator r (.overrideRanges r.first (es.filterMap OverrideRange.decode?))

/-- WRITE_OVERRIDE_RANGES (R115). -/
def execWriteOverrideRanges (s : State) : Host.Outcome State Fault Refusal :=
  .next (s.serve .writeOverrideRanges State.writeOverrides)

/-- The slave record that 12 bytes spell: as many masters as the master count says (R117). DESIGN CHOICE, log entry 46: the
bytes of the master places beyond that count are dropped. -/
def SlaveRecord.decode (e : List Byte) : SlaveRecord :=
  ⟨fieldAt e 0 2, (splitElements 2 (fieldAt e 2 1) (e.drop 4)).map leNat⟩

/-- Every actuator that a slave record names is one of the table (R117). -/
def SlaveRecord.inRange (k : SlaveRecord) : Bool :=
  k.slave < Config.maxActuators && k.masters.all (fun m => m < Config.maxActuators)

/-- A write of slave records. -/
def State.writeSlaves (s : State) (r : Request) : State :=
  let es := r.elementsOf 8 12
  s.judgeStaged r
    [r.plain, r.holdsRun 12, r.runWithin 12 512, (es.all (fun e => fieldAt e 2 1 ≤ 4), .badValue),
     (es.all (fun e => (SlaveRecord.decode e).inRange), .badRange)]
    fun t => t.stageActuator r (.slaveRecords r.first (es.map SlaveRecord.decode))

/-- WRITE_SLAVE_RECORDS (R117). -/
def execWriteSlaveRecords (s : State) : Host.Outcome State Fault Refusal :=
  .next (s.serve .writeSlaveRecords State.writeSlaves)

/-- The pair count of a write of neighbour pairs. -/
def Request.pairCount (r : Request) : Nat := r.field 4 4

/-- The first pair of a write of neighbour pairs. -/
def Request.firstPair (r : Request) : Nat := r.field 8 4

/-- The pairs of a write of neighbour pairs. -/
def Request.pairs (r : Request) : List (Nat × Nat) := (r.elementsOf 12 4).map (fun e => (fieldAt e 0 2, fieldAt e 2 2))

/-- A write of neighbour pairs. -/
def State.writePairs (s : State) (r : Request) : State :=
  s.judgeStaged r
    [r.plain, (12 ≤ r.body.length && (r.body.length - 12) % 4 == 0, .badRequest), (r.pairCount ≤ 16384, .badValue),
     (r.firstPair + r.pairs.length ≤ 16384, .badRange),
     (r.pairs.all (fun q => q.1 < Config.maxActuators && q.2 < Config.maxActuators), .badRange)]
    fun t => t.stageActuator r (.neighbourPairs r.pairCount r.firstPair r.pairs)

/-- WRITE_NEIGHBOUR_PAIRS (R127). -/
def execWriteNeighbourPairs (s : State) : Host.Outcome State Fault Refusal :=
  .next (s.serve .writeNeighbourPairs State.writePairs)

/-- A write of the open shape. -/
def State.writeShape (s : State) (r : Request) : State :=
  s.judgeStaged r [r.plain, r.holdsRun 2, r.runWithin 2 Config.maxActuators]
    fun t => t.stageActuator r (.openShape r.first r.values16)

/-- WRITE_OPEN_SHAPE (R108). -/
def execWriteOpenShape (s : State) : Host.Outcome State Fault Refusal := .next (s.serve .writeOpenShape State.writeShape)

/-! ## Poke records (R158) -/

/-- The fields of a record other than its actuators lie in their ranges (R157, R158, R203). -/
def recordValuesHold (e : List Byte) : Bool :=
  1 ≤ fieldAt e 0 1 && fieldAt e 0 1 ≤ 16 && fieldAt e 1 1 ≤ 1 && 1 ≤ fieldAt e 2 2 && fieldAt e 2 2 ≤ 4096
    && (fieldAt e 4 2 ≤ 1023 || fieldAt e 4 2 == 65535)

/-- The actuators that a record names are those of the table (R157). -/
def recordActuatorsHold (e : List Byte) : Bool :=
  (splitElements 4 (fieldAt e 0 1) (e.drop 8)).all (fun k => fieldAt k 0 2 < Config.maxActuators)

/-- A run of records includes record `n`. -/
def inRun (first count n : Nat) : Bool := first ≤ n && n < first + count

/-- While the engine runs, the run includes neither its current record nor its prefetched record (R158). -/
def State.pokeRunFree (s : State) (first count : Nat) : Bool :=
  match s.poke with
  | none => true
  | some e => !inRun first count e.current && !(e.prefetched.map Prod.fst).any (inRun first count)

/-- A write of poke records. -/
def State.writePoke (s : State) (r : Request) : State :=
  let es := r.elementsOf 8 128
  s.judge r
    [r.plain, r.holdsRun 128, r.runWithin 128 1024, (es.all recordValuesHold, .badValue),
     (es.all recordActuatorsHold, .badRange), (s.pokeRunFree r.first es.length, .wrongState)]
    fun t => t.execute r .pokeWrite
      (writeBursts .pokeRecordWrite ((List.range es.length).zipWith (fun k e => (pokeAddress (r.first + k), e)) es))

/-- WRITE_POKE_RECORDS (R158). -/
def execWritePokeRecords (s : State) : Host.Outcome State Fault Refusal :=
  .next (s.serve .writePokeRecords State.writePoke)

/-! ## Telemetry configuration (R169) -/

/-- A value of a telemetry configuration item lies in its range, apart from the size of the ring (R169). The empty trigger mask
is allowed, and a mask with an unknown event is not (DESIGN CHOICE, log entry 45). -/
def telemetryInRange (item v : Nat) : Bool :=
  match item with
  | 0 => v ≤ Config.telemetryUnits
  | 1 => v ≤ Config.telemetryUnits
  | 2 => v ≤ 7
  | 3 => 1 ≤ v && v ≤ 256
  | 4 => v ≤ 1
  | 5 => knownEvents (BitVec.ofNat 32 v)
  | 6 => v ≤ 65535
  | _ => false

/-- The configuration with one item written. -/
def TelemetryConfig.setItem (f : TelemetryConfig) (i : Nat × Nat) : TelemetryConfig :=
  match i.1 with
  | 0 => { f with ringStart := i.2 }
  | 1 => { f with ringEnd := i.2 }
  | 2 => { f with
      slopeSection := i.2 % 2 = 1
      residualSection := i.2 / 2 % 2 = 1
      commandSection := i.2 / 4 % 2 = 1 }
  | 3 => { f with decimation := i.2 }
  | 4 => { f with fullMode := if i.2 = 1 then .stop else .wrap }
  | 5 => { f with triggerMask := BitVec.ofNat 32 i.2 }
  | 6 => { f with postTrigger := i.2 }
  | _ => f

/-- The configuration with every item of a write applied. -/
def TelemetryConfig.setItems (f : TelemetryConfig) (is : List (Nat × Nat)) : TelemetryConfig :=
  is.foldl TelemetryConfig.setItem f

/-- The bounds leave a ring of at least twice the largest record (R169). -/
def TelemetryConfig.ringFits (f : TelemetryConfig) : Bool := f.ringStart + 2 * Config.largestRecord ≤ f.ringEnd

/-- No record is being captured: IDLE, FROZEN or STOPPED (R169, R172). -/
def CaptureState.rests : CaptureState → Bool
  | .idle | .frozen | .stopped => true
  | .running | .triggered => false

/-- A new telemetry configuration takes effect; a change of the bounds withdraws a record write in flight and empties the ring
(R169). DESIGN CHOICE, log entry 47: the decimation phase stays as it is held, also where the new decimation is not above it. -/
def State.setTelemetry (s : State) (new : TelemetryConfig) : State :=
  let old := s.telemetry.config
  if old.ringStart = new.ringStart ∧ old.ringEnd = new.ringEnd then
    { s with telemetry := { s.telemetry with config := new } }
  else
    let s1 := s.withdrawRecord
    { s1 with telemetry := Telemetry.emptied { s1.telemetry with config := new } }

/-- A write of the telemetry configuration. -/
def State.writeTelemetry (s : State) (r : Request) : State :=
  let new := s.telemetry.config.setItems r.items
  s.judge r
    [r.plain, r.holdsItems 17, r.writesOnly 7, (s.telemetry.state.rests, .wrongState),
     (r.items.all (fun i => telemetryInRange i.1 i.2) && new.ringFits, .badValue)]
    fun t => (t.setTelemetry new).done r []

/-- WRITE_TELEMETRY_CONFIGURATION (R169). -/
def execWriteTelemetryConfiguration (s : State) : Host.Outcome State Fault Refusal :=
  .next (s.serve .writeTelemetryConfiguration State.writeTelemetry)

/-! ## Event state (R192) -/

/-- A value of an event state item is allowed: known events, and none of the fatal ones in a clear set (R192, R201). -/
def eventInRange (item v : Nat) : Bool :=
  match item with
  | 0 => knownEvents (BitVec.ofNat 32 v) && (BitVec.ofNat 32 v &&& fatalSet) == 0#32
  | 1 => knownEvents (BitVec.ofNat 32 v)
  | 2 => knownEvents (BitVec.ofNat 32 v)
  | 3 => v ≤ 1
  | _ => false

/-- The event state with one item written. -/
def Events.setItem (e : Events) (i : Nat × Nat) : Events :=
  match i.1 with
  | 0 => { e with pending := e.pending &&& ~~~BitVec.ofNat 32 i.2 }
  | 1 => { e with enabled := BitVec.ofNat 32 i.2 }
  | 2 => { e with critical := BitVec.ofNat 32 i.2 }
  | 3 => { e with reportEnable := i.2 == 1 }
  | _ => e

/-- A write of the event state; the report test follows its answer. -/
def State.writeEvents (s : State) (r : Request) : State :=
  s.judge r
    [r.plain, r.holdsItems 7, r.writesOnly 4, (r.items.all (fun i => eventInRange i.1 i.2), .badValue)]
    fun t => (State.done { t with events := r.items.foldl Events.setItem t.events } r []).reportTest

/-- WRITE_EVENT_STATE (R192). -/
def execWriteEventState (s : State) : Host.Outcome State Fault Refusal :=
  .next (s.serve .writeEventState State.writeEvents)

/-! ## Other writes (R184, R201) -/

/-- The status of a request that this row answers: a WRITE OBJECT that names an object which no write reaches is refused with
BAD_OBJECT, and all else with BAD_REQUEST. -/
def Request.otherStatus (r : Request) : Status :=
  if 4 ≤ r.payload.length ∧ r.kind = 2 ∧ r.form = 0 ∧ r.object?.isSome = true then .badObject else .badRequest

/-- WRITE_OBJECT_OTHER (R184): a write to a read-only or unknown object, and a request of no known kind or form. -/
def execWriteObjectOther (s : State) : Host.Outcome State Fault Refusal :=
  .next (s.serve .writeObjectOther fun t r => t.refuse r r.otherStatus)

end Sys2Proof.Machine
end

