-- ==== Sys2Proof/Machine/Banks.lean ====
section
/-! DEFINITION. The requests of the Bank Store: BANK SETUP, LOAD COLUMN, CLOSE BANK, SWAP BANK and RETIRE BANK (chapter 3,
section 3.2). -/

namespace Sys2Proof.Machine

/-- The bank that the first byte of the body names. -/
def Request.bank? (r : Request) : Option Ix := Ix.ofNat? (r.field 0 1)

/-- A request that names a bank: its first checks, then its own judgement where the bank exists (R43, R44, R47, R48). -/
def State.withBank (s : State) (r : Request) (checks : List (Bool × Status)) (f : Ix → State) : State :=
  match firstFailure checks, r.bank? with
  | some st, _ => s.refuse r st
  | none, none => s.refuse r .badValue
  | none, some b => f b

/-! ## BANK SETUP (R43) -/

/-- Nb, Ab and S lie in their ranges (R40, R43). -/
def Request.setupInRange (r : Request) : Bool :=
  2 ≤ r.field 2 2 && r.field 2 2 ≤ 8192 && r.field 2 2 % 2 == 0 && 1 ≤ r.field 4 2 && r.field 4 2 ≤ Config.maxActuators
    && r.field 6 1 ≤ 24

/-- The header that an accepted BANK SETUP leaves: its fields set, no segment marked, LOADING. -/
def Bank.setUp (b : Bank) (r : Request) : Bank :=
  { b with
    state := .loading
    nb := r.field 2 2
    ab := r.field 4 2
    scale := r.field 6 1
    label := BitVec.ofNat 16 (r.field 8 2)
    coverage := Table.blank }

/-- A BANK SETUP. -/
def State.setUpBank (s : State) (r : Request) : State :=
  s.withBank r [r.plain, r.bodyIs 10] fun b =>
    let k := s.bank b
    s.judge r [(r.setupInRange, .badValue), (!k.inUse, .bankLive), (k.swapMark.isNone, .swapPending)]
      fun t => (t.setBank b ((t.bank b).setUp r)).done r []

/-- BANK_SETUP (R43). -/
def execBankSetup (s : State) : Host.Outcome State Fault Refusal := .next (s.serve .bankSetup State.setUpBank)

/-! ## LOAD COLUMN (R44, R45) -/

/-- The slope index of a LOAD COLUMN. -/
def Request.loadIndex (r : Request) : Nat := r.field 2 2

/-- The first actuator of a LOAD COLUMN. -/
def Request.loadFirst (r : Request) : Nat := r.field 4 2

/-- The actuator count of a LOAD COLUMN. -/
def Request.loadCount (r : Request) : Nat := r.field 6 2

/-- The run of coefficients is a run of whole segments of a column of the bank (R44). -/
def Request.loadFits (r : Request) (b : Bank) : Bool :=
  r.loadIndex < b.nb && r.loadFirst % Config.segmentSize == 0 && 1 ≤ r.loadCount && r.loadFirst + r.loadCount ≤ b.ab
    && (r.loadCount % Config.segmentSize == 0 || r.loadFirst + r.loadCount == b.ab)

/-- The bytes of the coefficients of a segment, completed with zeros to a whole codeword (R45). -/
def padCodeword (bs : List Byte) : List Byte := bs ++ List.replicate (8 * ceilDiv bs.length 8 - bs.length) 0

/-- The places and bytes of a load: one burst per covered segment, in rising order (R45). -/
def Request.loadPieces (r : Request) (b : Ix) : List (Nat × List Byte) :=
  let coefs := r.body.drop 8
  (List.range (segmentCount r.loadCount)).map fun k =>
    (segmentAddress b r.loadIndex (r.loadFirst / Config.segmentSize + k),
     padCodeword ((coefs.drop (2 * Config.segmentSize * k)).take (2 * Config.segmentSize)))

/-- The state of a bank allows a LOAD COLUMN: LOADING or READY (R44). -/
def BankState.loadable : BankState → Bool
  | .loading | .ready => true
  | .empty | .live => false

/-- A LOAD COLUMN. -/
def State.loadBank (s : State) (r : Request) : State :=
  s.withBank r [r.plain, (8 ≤ r.body.length && r.body.length == 8 + 2 * r.loadCount, .badRequest)] fun b =>
    let k := s.bank b
    s.judge r
      [(k.state.loadable, .wrongState), (!k.inUse, .bankLive), (k.swapMark.isNone, .swapPending), (r.loadFits k, .badRange)]
      fun t => t.execute r
        (.loadColumn b r.loadIndex (r.loadFirst / Config.segmentSize) (segmentCount r.loadCount))
        (writeBursts .loadColumn (r.loadPieces b))

/-- LOAD_COLUMN (R44). -/
def execLoadColumn (s : State) : Host.Outcome State Fault Refusal := .next (s.serve .loadColumn State.loadBank)

/-! ## CLOSE BANK (R47) -/

/-- The body of an INCOMPLETE response: the number of unmarked segments and the first of them (R47, R199). -/
def Bank.incompleteBody (b : Bank) : List Byte :=
  leBytes 4 b.unmarked.length ++ placeBytes ((b.unmarked.head?).getD (0, 0))

/-- A CLOSE BANK. -/
def State.closeBank (s : State) (r : Request) : State :=
  s.withBank r [r.plain, r.bodyIs 4] fun b =>
    let k := s.bank b
    match k.state with
    | .empty => s.refuse r .wrongState
    | .loading =>
      if k.unmarked.isEmpty then ((s.bump .requestsAccepted).setBank b { k with state := .ready }).done r []
      else (s.bump .requestsRefused).respond r .incomplete none k.incompleteBody
    | .ready | .live => (s.bump .requestsAccepted).done r []

/-- CLOSE_BANK (R47). -/
def execCloseBank (s : State) : Host.Outcome State Fault Refusal := .next (s.serve .closeBank State.closeBank)

/-! ## SWAP BANK (R48) -/

/-- The target of a SWAP BANK (R48, R199). -/
def Request.swapTarget (r : Request) : SwapTarget :=
  if r.field 1 1 = 1 then .next else .tag (BitVec.ofNat 16 (r.field 2 2))

/-- A SWAP BANK. -/
def State.swapBank (s : State) (r : Request) : State :=
  s.withBank r [r.plain, r.bodyIs 4] fun b =>
    let k := s.bank b
    s.judge r
      [(r.field 1 1 ≤ 1, .badValue), (k.state == .ready, .wrongState), (s.swap?.isNone, .wrongState),
       (s.shapeMatches k, .mismatch)]
      fun t => (t.setBank b { t.bank b with swapMark := some r.swapTarget }).done r []

/-- SWAP_BANK (R48). -/
def execSwapBank (s : State) : Host.Outcome State Fault Refusal := .next (s.serve .swapBank State.swapBank)

/-! ## RETIRE BANK (R50) -/

/-- The LIVE bank becomes READY (R50). -/
def State.retire (s : State) : State :=
  match s.liveBank? with
  | some b => s.setBank b { s.bank b with state := .ready }
  | none => s

/-- A RETIRE BANK. -/
def State.retireBank (s : State) (r : Request) : State :=
  s.judge r
    [r.plain, r.bodyIs 0, (s.liveBank?.isSome && (!s.isTail || s.loop.state == .off), .wrongState)]
    fun t => t.retire.done r []

/-- RETIRE_BANK (R50). -/
def execRetireBank (s : State) : Host.Outcome State Fault Refusal := .next (s.serve .retireBank State.retireBank)

end Sys2Proof.Machine
end

