-- ==== Sys2Proof/Machine/LoopRequests.lean ====
section
/-! DEFINITION. The requests of the tail's loop, of the Poke Engine and of the Telemetry Unit: LOOP, POKE, TELEMETRY and READ
TELEMETRY (R112, R136 to R138, R160, R161, R172, R178). -/

namespace Sys2Proof.Machine

/-- The common checks of a request for a tail with an empty body (R184). -/
def State.tailChecks (s : State) (r : Request) : List (Bool × Status) := [s.atTail, r.bodyIs 0]

/-! ## LOOP (R112, R136, R137, R138) -/

/-- A LOOP OFF. -/
def State.loopOff (s : State) (r : Request) : State :=
  s.judge r (s.tailChecks r ++ [(s.loop.state.entersSafe, .wrongState)]) fun t =>
    (t.abortPoke.leaveRunning .off).done r []

/-- LOOP_OFF (R138). -/
def execLoopOff (s : State) : Host.Outcome State Fault Refusal := .next (s.serve .loopOff State.loopOff)

/-- The states from which LOOP OPEN is accepted (R136). -/
def LoopState.opens : LoopState → Bool
  | .off | .closed | .held => true
  | .opened | .safe => false

/-- A LOOP OPEN. -/
def State.loopOpen (s : State) (r : Request) : State :=
  s.judge r (s.tailChecks r ++ [(s.loop.state.opens && s.loopReady, .wrongState)]) fun t =>
    (t.enterRunning .opened).done r []

/-- LOOP_OPEN (R136). -/
def execLoopOpen (s : State) : Host.Outcome State Fault Refusal := .next (s.serve .loopOpen State.loopOpen)

/-- The states from which LOOP CLOSE is accepted (R137). -/
def LoopState.closes : LoopState → Bool
  | .opened | .held => true
  | .off | .closed | .safe => false

/-- The bumpless load, made where the loop closes from OPEN (R110, R137). -/
def State.loadFromOpen (s : State) : State :=
  if s.loop.state = .opened then State.bump { s with tables := s.tables.bumpless } .bumplessLoads else s

/-- The two run counters of the detectors at 0 (R137). -/
def State.clearDetectors (s : State) : State := { s with loop := { s.loop with badFrames := 0, satRun := 0 } }

/-- A LOOP CLOSE. -/
def State.loopClose (s : State) (r : Request) : State :=
  s.judge r (s.tailChecks r ++ [(s.loop.state.closes && s.loopReady, .wrongState)]) fun t =>
    (t.loadFromOpen.clearDetectors.enterRunning .closed).done r []

/-- LOOP_CLOSE (R137). -/
def execLoopClose (s : State) : Host.Outcome State Fault Refusal := .next (s.serve .loopClose State.loopClose)

/-- A LOOP HOLD. -/
def State.loopHold (s : State) (r : Request) : State :=
  s.judge r (s.tailChecks r ++ [(s.loop.state.applies, .wrongState)]) fun t => (t.leaveRunning .held).done r []

/-- LOOP_HOLD (R138). -/
def execLoopHold (s : State) : Host.Outcome State Fault Refusal := .next (s.serve .loopHold State.loopHold)

/-- The states in which RESET INTEGRATORS is accepted (R112). -/
def LoopState.resetsIntegrators : LoopState → Bool
  | .off | .opened | .held => true
  | .closed | .safe => false

/-- A RESET INTEGRATORS. -/
def State.resetIntegrators (s : State) (r : Request) : State :=
  s.judge r (s.tailChecks r ++ [(s.loop.state.resetsIntegrators, .wrongState)]) fun t =>
    (State.bump { t with tables := t.tables.parkIntegrators } .integratorResets).done r []

/-- RESET_INTEGRATORS (R112). -/
def execResetIntegrators (s : State) : Host.Outcome State Fault Refusal :=
  .next (s.serve .resetIntegrators State.resetIntegrators)

/-! ## POKE START and POKE STOP (R160, R161) -/

/-- The engine starts at a record and fetches it (R160). -/
def State.startPoke (s : State) (n : Nat) : State :=
  State.bump (State.fetchPoke { s with poke := some (PokeRun.start n) } n) .sequencesStarted

/-- A POKE START. -/
def State.pokeStart (s : State) (r : Request) : State :=
  s.judge r
    [r.plain, s.atTail, r.bodyIs 4, (r.field 0 2 ≤ 1023, .badValue),
     (s.loop.state.applies && s.poke.isNone, .wrongState)]
    fun t => (t.startPoke (r.field 0 2)).done r []

/-- POKE_START (R160). -/
def execPokeStart (s : State) : Host.Outcome State Fault Refusal := .next (s.serve .pokeStart State.pokeStart)

/-- A RUNNING engine is stopped; as it becomes IDLE the report test is made (R161, R191). -/
def State.stopPoke (s : State) : State :=
  if s.poke.isSome then (s.pokeIdle.bump .sequencesStopped).reportTest else s

/-- A POKE STOP. -/
def State.pokeStop (s : State) (r : Request) : State :=
  s.judge r [r.plain, s.atTail, r.bodyIs 0] fun t => t.stopPoke.done r []

/-- POKE_STOP (R161). -/
def execPokeStop (s : State) : Host.Outcome State Fault Refusal := .next (s.serve .pokeStop State.pokeStop)

/-! ## TELEMETRY (R172) -/

/-- The capture is armed: a record write in flight is withdrawn, the ring emptied, and phase and record number at 0 (R172). -/
def State.arm (s : State) : State :=
  let s1 := s.withdrawRecord
  { s1 with telemetry := { s1.telemetry.emptied with phase := 0, nextRecord := 0, state := .running } }

/-- A TELEMETRY ARM. -/
def State.telemetryArm (s : State) (r : Request) : State :=
  s.judge r [r.bodyIs 0, (s.telemetry.state.rests, .wrongState)] fun t => t.arm.done r []

/-- TELEMETRY_ARM (R172). -/
def execTelemetryArm (s : State) : Host.Outcome State Fault Refusal := .next (s.serve .telemetryArm State.telemetryArm)

/-- The capture is stopped: the state becomes IDLE and a record write in flight is withdrawn (R172). -/
def State.stopCapture (s : State) : State :=
  let s1 := s.withdrawRecord
  { s1 with telemetry := { s1.telemetry with state := .idle } }

/-- A TELEMETRY STOP. -/
def State.telemetryStop (s : State) (r : Request) : State :=
  s.judge r [r.bodyIs 0] fun t => t.stopCapture.done r []

/-- TELEMETRY_STOP (R172). -/
def execTelemetryStop (s : State) : Host.Outcome State Fault Refusal := .next (s.serve .telemetryStop State.telemetryStop)

/-! ## READ TELEMETRY (R178) -/

/-- Bytes of records that fit in a response beside its fixed fields (R199). -/
def recordRoom : Nat := Config.maxPayload - 12

/-- The held records chosen from unit `u` on: at most `n`, as many as fit whole in `room` bytes (R178). -/
def Telemetry.choose (t : Telemetry) : Nat → Nat → Nat → List Nat → List ChosenRecord
  | 0, _, _, _ => []
  | _, _, _, [] => []
  | n + 1, u, room, len :: rest =>
    if 32 * len ≤ room then ⟨u, len, []⟩ :: t.choose n (t.advance u len) (room - 32 * len) rest else []

/-- Bursts of which only the last is marked last. -/
def markLast : List Burst → List Burst
  | [] => []
  | [b] => [{ b with last := true }]
  | b :: bs => { b with last := false } :: markLast bs

/-- The bursts that read the chosen records (R178). -/
def Telemetry.readBursts (t : Telemetry) (chosen : List ChosenRecord) : List Burst :=
  markLast (chosen.flatMap fun k =>
    (t.places k.unit k.units).map fun p => ⟨.telemetryRead k.unit, p.1, p.2, [], false, false⟩)

/-- A READ TELEMETRY. -/
def State.readRecords (s : State) (r : Request) : State :=
  s.judge r [r.plain, r.bodyIs 4, (1 ≤ r.field 0 2, .badValue)] fun t =>
    let chosen := t.telemetry.choose (r.field 0 2) t.telemetry.readPos recordRoom t.telemetry.lengths
    if chosen.isEmpty then t.done r (telemetryBody [])
    else t.execute r (.readTelemetry chosen) (t.telemetry.readBursts chosen)

/-- READ_TELEMETRY (R178). -/
def execReadTelemetry (s : State) : Host.Outcome State Fault Refusal :=
  .next (s.serve .readTelemetry State.readRecords)

end Sys2Proof.Machine
end

