-- ==== Sys2Proof/Machine/Resets.lean ====
section
/-! DEFINITION. CLEAR FAULT, NODE RESET with its beginning, and power-on reset (R73, R146, R194, R195, R196). -/

namespace Sys2Proof.Machine

/-! ## CLEAR FAULT (R146, R194) -/

/-- A STOPPED port becomes RUNNING (R3). -/
def Port.restart (x : Port) : Port := if x.state = .stopped then { x with state := .running } else x

/-- Both STOPPED ports become RUNNING, and the assembly tests are made anew (R32, R194). -/
def State.restartPorts (s : State) : State :=
  State.completionTests { s with ports := ⟨s.ports.fst.restart, s.ports.snd.restart⟩ }

/-- A HELD snapshot becomes RELEASED, its contents kept (R154). -/
def Loop.releaseSnapshot (l : Loop) : Loop :=
  if l.snapshotState = .held then { l with snapshotState := .released } else l

/-- The loop leaves SAFE for OFF (R145). -/
def Loop.leaveSafe (l : Loop) : Loop :=
  if l.state = .safe then { l with state := .off, parkRefresh := none } else l

/-- At a tail the consecutive-miss counter returns to 0, a SAFE loop becomes OFF with SAFE_OUT low, and the snapshot is
released (R145, R146, R154). -/
def State.clearTail (s : State) : State :=
  if s.isTail then
    { s with
      mirror := { s.mirror with misses := 0 }
      loop := s.loop.leaveSafe.releaseSnapshot
      safeOut := if s.loop.state = .safe then false else s.safeOut }
  else s

/-- Every fatal latch and every reported mark is cleared (R194). -/
def State.clearLatches (s : State) : State :=
  { s with events := { s.events with pending := s.events.pending &&& ~~~fatalSet, reported := 0 } }

/-- A CLEAR FAULT; the report test follows its answer. -/
def State.clearFault (s : State) (r : Request) : State :=
  s.judge r [r.plain, r.bodyIs 0] fun t => (t.clearLatches.restartPorts.clearTail.done r []).reportTest

/-- CLEAR_FAULT (R194). -/
def execClearFault (s : State) : Host.Outcome State Fault Refusal := .next (s.serve .clearFault State.clearFault)

/-! ## NODE RESET (R73, R195) -/

/-- The response of an accepted NODE RESET is placed, and the reset waits for it to be sent, or is due at once where it was
discarded or TO is DOWN (R73). -/
def State.awaitReset (s : State) (r : Request) : State :=
  let full := Config.controlCapacity ≤ s.trunk.control.length
  let s1 := s.placeControl ⟨s.responseFrame r .done none [], true⟩
  { s1 with mgmt := { s1.mgmt with reset := if full || !s.trunk.toUp then .due else .waiting } }

/-- NODE_RESET (R195). -/
def execNodeReset (s : State) : Host.Outcome State Fault Refusal :=
  .next (s.serve .nodeReset fun t r => t.judge r [r.plain, r.bodyIs 0] fun u => u.awaitReset r)

/-- The state of a port after NODE RESET: its ring empty, RUNNING if it is enabled (R3, R12). -/
def Port.reset (x : Port) : Port := { x.emptied with state := if x.config.enabled then .running else .idle }

/-- The Column Engine after NODE RESET: nothing in hand, but a burst in progress still to end; the hold table zeroed and port 1
counted as the ring taken from last (R13, R16, R54). -/
def State.resetEngine (s : State) : Engine :=
  { s.engine with
    hold := Table.blank
    lastPort := .one
    work := if s.arbiter.columnInProgress then .draining none else .idle
    pass := none }

/-- A bank after NODE RESET: its swap mark clear and its use count 0 (R40). -/
def Bank.reset (b : Bank) : Bank := { b with swapMark := none, useCount := 0 }

/-- The tables of the tail after NODE RESET: integrator states and last outputs at their parks, the classes computed anew
(R101, R116, R130). -/
def State.resetTables (s : State) : State :=
  State.recomputeClasses { s with tables := s.tables.parkIntegrators.parkOutputs }

/-- The event side after NODE RESET: as after power-on, but for the event frame number (R190, R191). -/
def Events.nodeReset (e : Events) : Events := { Events.powerOn with frameNumber := e.frameNumber }

/-- The Loop Supervisor after NODE RESET (R155). -/
def Loop.nodeReset (l : Loop) : Loop :=
  Loop.releaseSnapshot
    { l with state := .off, badFrames := 0, satRun := 0, lastClampCount := 0, lastFinish := none, starvation := none, parkRefresh := none }

/-- The Mirror Link Interface after NODE RESET: a frame being sent makes no entry, a waiting one is discarded (R155). -/
def Mirror.nodeReset (m : Mirror) : Mirror := { m.silenced with misses := 0 }

/-- A frame that no NODE RESET waits for any more. -/
def ToFrame.unmarked (f : ToFrame) : ToFrame := { f with resetResponse := false }

/-- The trunk after NODE RESET: both queues empty; a frame being sent goes on to its end, and no reset waits for that (R73). -/
def Trunk.nodeReset (t : Trunk) : Trunk :=
  { t with realtime := [], control := [], sending := t.sending.map (fun x => { x with frame := x.frame.unmarked }) }

/-- The Frame Context Unit after NODE RESET: contexts FREE, tags absent, the timebase counting on (R37). -/
def FrameUnit.nodeReset (f : FrameUnit) : FrameUnit := ⟨f.timebase, none, none, [], ⟨Context.free, Context.free⟩⟩

/-- The reset of the node's state (R195). -/
def State.nodeReset (s : State) : State :=
  let s0 := s.cancelSwap
  let s1 : State := { s0 with
    safeOut := false
    ports := ⟨s0.ports.fst.reset, s0.ports.snd.reset⟩
    engine := s0.resetEngine
    frames := s0.frames.nodeReset
    bankStore := { s0.bankStore with banks := ⟨s0.bankStore.banks.fst.reset, s0.bankStore.banks.snd.reset⟩ }
    arbiter := s0.arbiter.withdraw (fun _ => true)
    trunk := s0.trunk.nodeReset
    lastApplied := none
    loop := s0.loop.nodeReset
    mirror := s0.mirror.nodeReset
    poke := none
    telemetry := Telemetry.reset
    mgmt := ⟨[], none, [], [], .none⟩
    events := s0.events.nodeReset }
  s1.resetTables

/-- NODE_RESET_BEGIN (R195): the reset begins at the moment R73 gives. -/
def execNodeResetBegin (s : State) : Host.Outcome State Fault Refusal :=
  .next (if s.mgmt.reset = .due then s.nodeReset else s)

/-! ## Power-on reset (R196) -/

/-- POWER_ON_RESET (R196): every state at its power-on value, with the straps sampled; commands that wait still wait, and the
DRAM is undefined anew (log entry 6). -/
def execPowerOnReset (nodeId : BitVec 3) (s : State) : Host.Outcome State Fault Refusal :=
  .next { State.powerOn nodeId (s.dram.epoch + 1) with pending := s.pending }

end Sys2Proof.Machine
end

