-- ==== Sys2Proof/Machine/Dispatch.lean ====
section
/-! DEFINITION. One arm per command, each one call of the command's meaning. -/

namespace Sys2Proof.Machine

def exec (i : Instr) (s : State) : Host.Outcome State Fault Refusal :=
  match i with
  | .powerOnReset nodeId => Sys2Proof.Machine.execPowerOnReset nodeId s
  | .slLinkDown port => Sys2Proof.Machine.execSlLinkDown port s
  | .slLinkUp port => Sys2Proof.Machine.execSlLinkUp port s
  | .slopePacketHeader port bytes => Sys2Proof.Machine.execSlopePacketHeader port bytes s
  | .slopePacketEnd port bytes => Sys2Proof.Machine.execSlopePacketEnd port bytes s
  | .columnEngineTakePacket => Sys2Proof.Machine.execColumnEngineTakePacket s
  | .substitutionJobRun => Sys2Proof.Machine.execSubstitutionJobRun s
  | .columnBurstDelivered strikes => Sys2Proof.Machine.execColumnBurstDelivered strikes s
  | .assemblyDeadline ctx => Sys2Proof.Machine.execAssemblyDeadline ctx s
  | .deliveryDeadline ctx => Sys2Proof.Machine.execDeliveryDeadline ctx s
  | .tiFrameReceived bytes => Sys2Proof.Machine.execTiFrameReceived bytes s
  | .tiLinkDown inReception => Sys2Proof.Machine.execTiLinkDown inReception s
  | .tiLinkUp => Sys2Proof.Machine.execTiLinkUp s
  | .toSendEnd => Sys2Proof.Machine.execToSendEnd s
  | .toLinkDown => Sys2Proof.Machine.execToLinkDown s
  | .toLinkUp => Sys2Proof.Machine.execToLinkUp s
  | .parkRefreshExpiry => Sys2Proof.Machine.execParkRefreshExpiry s
  | .starvationExpiry => Sys2Proof.Machine.execStarvationExpiry s
  | .mlSendEnd => Sys2Proof.Machine.execMlSendEnd s
  | .mlLinkDown => Sys2Proof.Machine.execMlLinkDown s
  | .mlLinkUp => Sys2Proof.Machine.execMlLinkUp s
  | .echoReceived bytes => Sys2Proof.Machine.execEchoReceived bytes s
  | .echoEntryExpiry => Sys2Proof.Machine.execEchoEntryExpiry s
  | .pokeRecordFetchArrival strikes => Sys2Proof.Machine.execPokeRecordFetchArrival strikes s
  | .telemetryRecordCommit => Sys2Proof.Machine.execTelemetryRecordCommit s
  | .telemetryReadEnd strikes => Sys2Proof.Machine.execTelemetryReadEnd strikes s
  | .loadColumnWriteEnd => Sys2Proof.Machine.execLoadColumnWriteEnd s
  | .readbackBurstEnd strikes => Sys2Proof.Machine.execReadbackBurstEnd strikes s
  | .pokeRecordsTransferEnd strikes => Sys2Proof.Machine.execPokeRecordsTransferEnd strikes s
  | .requestWatchdogExpiry target => Sys2Proof.Machine.execRequestWatchdogExpiry target s
  | .eventHoldoffExpiry => Sys2Proof.Machine.execEventHoldoffExpiry s
  | .readObject => Sys2Proof.Machine.execReadObject s
  | .readCounters => Sys2Proof.Machine.execReadCounters s
  | .readMatrixColumnSegment => Sys2Proof.Machine.execReadMatrixColumnSegment s
  | .readPokeRecords => Sys2Proof.Machine.execReadPokeRecords s
  | .writeNodeParameters => Sys2Proof.Machine.execWriteNodeParameters s
  | .writePortConfiguration => Sys2Proof.Machine.execWritePortConfiguration s
  | .writeReferenceSlopes => Sys2Proof.Machine.execWriteReferenceSlopes s
  | .writeActuatorEntries => Sys2Proof.Machine.execWriteActuatorEntries s
  | .writeGainProfiles => Sys2Proof.Machine.execWriteGainProfiles s
  | .writeOverrideRanges => Sys2Proof.Machine.execWriteOverrideRanges s
  | .writeSlaveRecords => Sys2Proof.Machine.execWriteSlaveRecords s
  | .writeNeighbourPairs => Sys2Proof.Machine.execWriteNeighbourPairs s
  | .writeOpenShape => Sys2Proof.Machine.execWriteOpenShape s
  | .writePokeRecords => Sys2Proof.Machine.execWritePokeRecords s
  | .writeTelemetryConfiguration => Sys2Proof.Machine.execWriteTelemetryConfiguration s
  | .writeEventState => Sys2Proof.Machine.execWriteEventState s
  | .writeObjectOther => Sys2Proof.Machine.execWriteObjectOther s
  | .bankSetup => Sys2Proof.Machine.execBankSetup s
  | .loadColumn => Sys2Proof.Machine.execLoadColumn s
  | .closeBank => Sys2Proof.Machine.execCloseBank s
  | .swapBank => Sys2Proof.Machine.execSwapBank s
  | .retireBank => Sys2Proof.Machine.execRetireBank s
  | .loopOff => Sys2Proof.Machine.execLoopOff s
  | .loopOpen => Sys2Proof.Machine.execLoopOpen s
  | .loopClose => Sys2Proof.Machine.execLoopClose s
  | .loopHold => Sys2Proof.Machine.execLoopHold s
  | .resetIntegrators => Sys2Proof.Machine.execResetIntegrators s
  | .pokeStart => Sys2Proof.Machine.execPokeStart s
  | .pokeStop => Sys2Proof.Machine.execPokeStop s
  | .telemetryArm => Sys2Proof.Machine.execTelemetryArm s
  | .telemetryStop => Sys2Proof.Machine.execTelemetryStop s
  | .readTelemetry => Sys2Proof.Machine.execReadTelemetry s
  | .clearFault => Sys2Proof.Machine.execClearFault s
  | .nodeReset => Sys2Proof.Machine.execNodeReset s
  | .nodeResetBegin => Sys2Proof.Machine.execNodeResetBegin s
  | .dramBurstComplete strikes => Sys2Proof.Machine.execDramBurstComplete strikes s

end Sys2Proof.Machine
end

