-- ==== Sys2Proof/Safety.lean ====
section
/-! DEFINITION. What the statements speak of: the laws that every state of a run keeps, the parts of the state, which parts
each command may change, the bytes of memory that a command stores, and how the Column Engine goes on with its work. -/

namespace Sys2Proof.Machine

/-! ## Laws of single things -/

/-- The park of an actuator entry lies within its limits (R114). -/
def ActuatorEntry.ordered (e : ActuatorEntry) : Prop := e.lo ≤ e.park ∧ e.park ≤ e.hi

/-- An integrator state lies within the limits of an entry (R100). -/
def ActuatorEntry.admits (e : ActuatorEntry) (x : Int) : Prop := toState e.lo ≤ x ∧ x ≤ toState e.hi

/-- A staged write carries ordered actuator entries only, as the checks at its acceptance saw to (R114). -/
def ActuatorWrite.ordered : ActuatorWrite → Prop
  | .actuatorEntries _ es => ∀ e ∈ es, e.ordered
  | _ => True

/-- The three positions of a ring are word addresses (R6). -/
def Port.positionsHold (x : Port) : Prop :=
  x.readPos < Config.ringWords ∧ x.visiblePos < Config.ringWords ∧ x.writePos < Config.ringWords

/-- A slope count that R2 allows: even, and at most 4096. -/
def PortConfig.countHolds (f : PortConfig) : Prop := f.slopeCount ≤ 4096 ∧ f.slopeCount % 2 = 0

/-! ## The laws of the state -/

/-- The laws that power-on reset establishes and every command keeps. -/
structure State.Inv (s : State) : Prop where
  /-- R67. -/
  realtime : s.trunk.realtime.length ≤ Config.realtimeCapacity
  /-- R68. -/
  control : s.trunk.control.length ≤ Config.controlCapacity
  /-- R183: the request in execution keeps its place in the queue. -/
  requests : s.requestsHeld ≤ Config.requestCapacity
  /-- R187. -/
  slopeQueue : s.mgmt.slopeQueue.length ≤ Config.stagedCapacity
  /-- R187. -/
  actuatorQueue : s.mgmt.actuatorQueue.length ≤ Config.stagedCapacity
  /-- R150. -/
  echoes : s.mirror.echoes.length ≤ Config.echoCapacity
  /-- R150, R151: a HEAD or MIDDLE node awaits no echo. -/
  echoesAtTail : s.isTail = false → s.mirror.echoes = []
  /-- R150. -/
  misses : s.mirror.misses ≤ 64
  /-- R141. -/
  badFrames : s.loop.badFrames ≤ 255
  /-- R142. -/
  satRun : s.loop.satRun ≤ 1000
  /-- R145: SAFE_OUT is high in SAFE and low in every other loop state. -/
  safeOut : s.safeOut = (s.loop.state == .safe)
  /-- 00_scope.md section 5.6. -/
  counters : ∀ k, s.counters.get k ≤ Config.counterMax
  /-- The memory is in its one canonical form. -/
  memory : s.dram.memory.wf = true
  /-- R42: at most one bank is LIVE. -/
  oneLive : (s.bank .zero).state = .live → (s.bank .one).state ≠ .live
  /-- R48: at most one swap is scheduled. -/
  oneSwap : (s.bank .zero).swapMark.isSome = true → (s.bank .one).swapMark = none
  /-- R201: no pending bit but those of the events that R190 lists. -/
  events : knownEvents s.events.pending = true
  /-- R114. -/
  entries : ∀ j, (s.actuator j).ordered
  /-- R100. -/
  integrators : ∀ j, j < Config.maxActuators → (s.actuator j).admits (s.tables.integrators.get j)
  /-- R114, R187. -/
  staged : ∀ e ∈ s.mgmt.actuatorQueue, e.write.ordered
  /-- R6. -/
  rings : ∀ p, (s.port p).positionsHold
  /-- R2. -/
  slopeCounts : ∀ p, (s.port p).config.countHolds
  /-- R186. -/
  actuators : s.params.actuators ≤ Config.maxActuators
  /-- R31. -/
  deadlines : s.params.dAsm < s.params.dDel

/-! ## The parts of the state -/

/-- The parts of the state that the frame of a command speaks of. Together they are the whole state. -/
inductive Part where
  | pending | nodeNumber
  | loop           -- the Loop Supervisor but for its snapshot, with SAFE_OUT
  | counters
  | params
  | portConfigs    -- the configuration of both ports
  | ports          -- the rest of both ports, with their rings
  | references | hold
  | engine         -- the ring taken from last, the work and the pass in hand
  | timebase | newestOpened | newestDelivered | jobs | contexts
  | banks | lastBad
  | memory | errors | epoch
  | arbiter
  | links          -- TI and TO UP or DOWN
  | queues         -- both TO queues and the transmitter
  | lastApplied
  | gains | openShape
  | actuators      -- actuator entries and integrator states
  | overrides | effective | slaves | pairs | lastOutputs
  | snapshot
  | mirror
  | poke
  | telemetryConfig
  | capture        -- the Telemetry Unit but for its configuration
  | requests       -- the request queue and the request in execution
  | slopeQueue | actuatorQueue
  | resetPhase
  | events         -- pending and reported set, event frame number and holdoff
  | eventSettings  -- enable set, critical set, report enable
deriving DecidableEq, Repr

/-- A part is the same in two states. -/
def Part.same (p : Part) (s t : State) : Prop :=
  match p with
  | .pending => s.pending = t.pending
  | .nodeNumber => s.nodeNumber = t.nodeNumber
  | .loop => (s.safeOut, { s.loop with snapshotState := .empty, snapshot := none })
      = (t.safeOut, { t.loop with snapshotState := .empty, snapshot := none })
  | .counters => s.counters = t.counters
  | .params => s.params = t.params
  | .portConfigs => ((s.port .zero).config, (s.port .one).config) = ((t.port .zero).config, (t.port .one).config)
  | .ports => ({ s.port .zero with config := Port.powerOn.config }, { s.port .one with config := Port.powerOn.config })
      = ({ t.port .zero with config := Port.powerOn.config }, { t.port .one with config := Port.powerOn.config })
  | .references => s.engine.refs = t.engine.refs
  | .hold => s.engine.hold = t.engine.hold
  | .engine => (s.engine.lastPort, s.engine.work, s.engine.pass) = (t.engine.lastPort, t.engine.work, t.engine.pass)
  | .timebase => s.frames.timebase = t.frames.timebase
  | .newestOpened => s.frames.newestOpened = t.frames.newestOpened
  | .newestDelivered => s.frames.newestDelivered = t.frames.newestDelivered
  | .jobs => s.frames.jobs = t.frames.jobs
  | .contexts => s.frames.ctxs = t.frames.ctxs
  | .banks => s.bankStore.banks = t.bankStore.banks
  | .lastBad => s.bankStore.lastBad = t.bankStore.lastBad
  | .memory => s.dram.memory = t.dram.memory
  | .errors => s.dram.errors = t.dram.errors
  | .epoch => s.dram.epoch = t.dram.epoch
  | .arbiter => s.arbiter = t.arbiter
  | .links => (s.trunk.tiUp, s.trunk.toUp) = (t.trunk.tiUp, t.trunk.toUp)
  | .queues => (s.trunk.realtime, s.trunk.control, s.trunk.sending) = (t.trunk.realtime, t.trunk.control, t.trunk.sending)
  | .lastApplied => s.lastApplied = t.lastApplied
  | .gains => s.tables.gains = t.tables.gains
  | .openShape => s.tables.openShape = t.tables.openShape
  | .actuators => (s.tables.actuators, s.tables.integrators) = (t.tables.actuators, t.tables.integrators)
  | .overrides => s.tables.overrides = t.tables.overrides
  | .effective => s.tables.effective = t.tables.effective
  | .slaves => s.tables.slaves = t.tables.slaves
  | .pairs => (s.tables.pairs, s.tables.pairCount) = (t.tables.pairs, t.tables.pairCount)
  | .lastOutputs => s.tables.lastOutputs = t.tables.lastOutputs
  | .snapshot => (s.loop.snapshotState, s.loop.snapshot) = (t.loop.snapshotState, t.loop.snapshot)
  | .mirror => s.mirror = t.mirror
  | .poke => s.poke = t.poke
  | .telemetryConfig => s.telemetry.config = t.telemetry.config
  | .capture => { s.telemetry with config := TelemetryConfig.reset } = { t.telemetry with config := TelemetryConfig.reset }
  | .requests => (s.mgmt.queue, s.mgmt.executing) = (t.mgmt.queue, t.mgmt.executing)
  | .slopeQueue => s.mgmt.slopeQueue = t.mgmt.slopeQueue
  | .actuatorQueue => s.mgmt.actuatorQueue = t.mgmt.actuatorQueue
  | .resetPhase => s.mgmt.reset = t.mgmt.reset
  | .events => { s.events with enabled := 0, critical := 0, reportEnable := true }
      = { t.events with enabled := 0, critical := 0, reportEnable := true }
  | .eventSettings => (s.events.enabled, s.events.critical, s.events.reportEnable)
      = (t.events.enabled, t.events.critical, t.events.reportEnable)

/-! ## The parts that a command may change -/

/-- What every request may change: it leaves the queue, is counted, and its response is placed. -/
def Parts.answer : List Part := [.requests, .queues, .counters]

/-- What raising an event may change (R190, R191, R154, R177). -/
def Parts.raise : List Part := [.queues, .counters, .events, .snapshot, .capture]

/-- What a grant of the Memory Arbiter may change (R45, R58, R188). -/
def Parts.grant : List Part := [.arbiter, .requests, .banks]

/-- What an actuator-side drain may change (R118, R119). -/
def Parts.drain : List Part :=
  [.actuators, .counters, .gains, .overrides, .slaves, .pairs, .openShape, .queues, .actuatorQueue, .effective]

/-- What an entry to SAFE may change (R144). -/
def Parts.safe : List Part :=
  Parts.drain ++ [.loop, .snapshot, .poke, .arbiter, .events, .capture, .mirror, .lastOutputs]

/-- What the completion of a frame may change, from its merging to its offer and its application (R36, R85, R91, R121, R173). -/
def Parts.finish : List Part := Parts.safe ++ [.contexts, .requests, .banks, .lastApplied, .newestDelivered]

/-- What resolving a tag may change: an opening, with the displacement and the slope-side drain that it may bring (R27 to R30). -/
def Parts.opening : List Part :=
  Parts.finish ++ [.engine, .ports, .jobs, .references, .portConfigs, .hold, .slopeQueue, .newestOpened]

/-- What the Column Engine may change as it goes on with its work (R13, R15, R17, R34). -/
def Parts.engine : List Part := Parts.finish ++ [.engine, .ports, .jobs, .hold]

/-- What the giving up of a record write may change (R172). -/
def Parts.withdraw : List Part := [.arbiter, .capture, .banks, .contexts]

/-- The parts that a command may change. It leaves every other part as it was. -/
def partsOf : Instr → List Part
  | .powerOnReset _ =>
    Parts.opening ++ [.nodeNumber, .params, .timebase, .lastBad, .memory, .errors, .epoch, .links, .telemetryConfig, .resetPhase,
      .eventSettings]
  | .slLinkDown _ | .slopePacketEnd _ _ => Parts.raise ++ [.ports, .jobs, .contexts]
  | .slLinkUp _ => [.ports]
  | .slopePacketHeader _ _ | .tiFrameReceived _ => Parts.opening
  | .columnEngineTakePacket | .substitutionJobRun => Parts.engine
  | .columnBurstDelivered _ => Parts.engine ++ [.errors, .lastBad]
  | .assemblyDeadline _ => [.timebase, .contexts, .jobs, .counters]
  | .deliveryDeadline _ => .timebase :: Parts.finish
  | .tiLinkDown _ => .links :: Parts.raise
  | .tiLinkUp => [.links]
  | .toSendEnd => [.queues, .counters, .resetPhase]
  | .toLinkDown => [.links, .resetPhase] ++ Parts.raise
  | .toLinkUp => [.links, .queues]
  | .parkRefreshExpiry => [.timebase, .loop, .mirror, .counters, .lastOutputs]
  | .starvationExpiry => [.timebase, .loop] ++ Parts.drain ++ Parts.raise
  | .mlSendEnd | .mlLinkDown | .echoReceived _ => Parts.safe
  | .mlLinkUp => [.mirror]
  | .echoEntryExpiry => .timebase :: Parts.safe
  | .pokeRecordFetchArrival _ => Parts.raise ++ Parts.grant ++ [.errors, .lastBad, .poke]
  | .telemetryRecordCommit => Parts.raise ++ Parts.grant ++ [.memory, .errors, .contexts]
  | .telemetryReadEnd _ | .readbackBurstEnd _ => Parts.raise ++ Parts.grant ++ [.errors, .lastBad]
  | .loadColumnWriteEnd => Parts.answer ++ Parts.grant ++ [.memory, .errors]
  | .pokeRecordsTransferEnd _ | .dramBurstComplete _ => Parts.raise ++ Parts.grant ++ [.memory, .errors, .lastBad]
  | .requestWatchdogExpiry .execution => Parts.answer ++ [.timebase, .arbiter]
  | .requestWatchdogExpiry .slopeSide => [.timebase, .slopeQueue, .queues, .counters]
  | .requestWatchdogExpiry .actuatorSide => [.timebase, .actuatorQueue, .queues, .counters]
  | .eventHoldoffExpiry => [.timebase, .events, .queues, .counters]
  | .readObject | .readCounters | .writeObjectOther => Parts.answer
  | .readMatrixColumnSegment | .readPokeRecords | .writePokeRecords | .readTelemetry | .loadColumn => Parts.answer ++ Parts.grant
  | .writeNodeParameters => Parts.answer ++ [.params, .mirror, .banks]
  | .writePortConfiguration =>
    Parts.answer ++ [.portConfigs, .ports, .engine, .hold, .banks, .references, .slopeQueue]
  | .writeReferenceSlopes => Parts.answer ++ [.references, .portConfigs, .hold, .slopeQueue]
  | .writeActuatorEntries => Parts.answer ++ [.actuators, .effective, .actuatorQueue]
  | .writeGainProfiles => Parts.answer ++ [.gains, .actuatorQueue]
  | .writeOverrideRanges => Parts.answer ++ [.overrides, .effective, .actuatorQueue]
  | .writeSlaveRecords => Parts.answer ++ [.slaves, .actuatorQueue]
  | .writeNeighbourPairs => Parts.answer ++ [.pairs, .actuatorQueue]
  | .writeOpenShape => Parts.answer ++ [.openShape, .actuatorQueue]
  | .writeTelemetryConfiguration => Parts.answer ++ Parts.withdraw ++ [.telemetryConfig]
  | .writeEventState => Parts.answer ++ [.events, .eventSettings]
  | .bankSetup | .closeBank | .swapBank | .retireBank => Parts.answer ++ [.banks]
  | .loopOff => Parts.answer ++ Parts.drain ++ [.loop, .poke, .arbiter, .events]
  | .loopOpen => Parts.answer ++ [.loop]
  | .loopClose => Parts.answer ++ [.loop, .actuators]
  | .loopHold => Parts.answer ++ Parts.drain ++ [.loop]
  | .resetIntegrators => Parts.answer ++ [.actuators]
  | .pokeStart => Parts.answer ++ Parts.grant ++ [.poke]
  | .pokeStop => Parts.answer ++ [.poke, .arbiter, .events]
  | .telemetryArm | .telemetryStop => Parts.answer ++ Parts.withdraw
  | .clearFault => Parts.answer ++ [.events, .ports, .jobs, .contexts, .loop, .snapshot, .mirror]
  | .nodeReset => Parts.answer ++ [.resetPhase]
  | .nodeResetBegin =>
    [.loop, .counters, .ports, .hold, .engine, .newestOpened, .newestDelivered, .jobs, .contexts, .banks, .arbiter, .queues,
     .lastApplied, .actuators, .effective, .lastOutputs, .snapshot, .mirror, .poke, .telemetryConfig, .capture, .requests,
     .slopeQueue, .actuatorQueue, .resetPhase, .events, .eventSettings]

/-! ## Words of the statements -/

/-- Between two states a counter has counted `n` occurrences (00_scope.md section 5.6). -/
def State.counted (s t : State) (c : Counter) (n : Nat) : Prop :=
  t.counter c = min (s.counter c + n) Config.counterMax

/-- Between two states a counter has counted one occurrence if a condition holds, and stands as it was otherwise. -/
def State.countedIf (s t : State) (b : Bool) (c : Counter) : Prop :=
  t.counter c = if b then min (s.counter c + 1) Config.counterMax else s.counter c

/-- An event that has been raised is pending, or an EVENT frame has been placed, and so counted, since (R190, R191, R193). -/
def State.raised (s t : State) (e : Event) : Prop :=
  t.isPending e = true ∨ min (s.counter .eventFrames + 1) Config.counterMax ≤ t.counter .eventFrames

/-- A request has left the queue unexecuted or executed, and its response is placed in the control queue (R182, R183, R189). -/
def State.answered (s t : State) (r : Request) (st : Status) (effective : Option Tag) (body : List Byte) : Prop :=
  t.mgmt.queue = s.mgmt.queue.drop 1 ∧ t.trunk = (s.respond r st effective body).trunk

/-- The oldest request has gone into execution with a transfer, accepted now under the watchdog in force; nothing is answered
yet (R183, R188). -/
def State.executes (s t : State) (r : Request) (x : Transfer) : Prop :=
  (∃ e, t.mgmt.executing = some e ∧ e.request = r ∧ e.acceptedAt = s.now ∧ e.watchdog = 1000 * s.params.requestWatchdog
    ∧ e.transfer = x)
  ∧ t.mgmt.queue = s.mgmt.queue.drop 1 ∧ t.trunk = s.trunk ∧ s.counted t .requestsAccepted 1

/-- An actuator-side write that passes its checks is turned away by a full queue, waits in the queue, or, outside OPEN and
CLOSED, takes effect at once (R118, R119, R187). -/
def State.stages (s t : State) (r : Request) (w : ActuatorWrite) : Prop :=
  if s.loop.state.applies = true then
    t.tables = s.tables ∧
    (if 32 ≤ s.mgmt.actuatorQueue.length then
      s.answered t r .busy none [] ∧ s.counted t .stagedFull 1 ∧ t.mgmt.actuatorQueue = s.mgmt.actuatorQueue
    else t.mgmt.actuatorQueue = s.mgmt.actuatorQueue ++ [⟨r, s.now, 1000 * s.params.requestWatchdog, w⟩]
      ∧ t.mgmt.queue = s.mgmt.queue.drop 1 ∧ t.trunk = s.trunk ∧ s.counted t .stagedPlaced 1
      ∧ s.counted t .requestsAccepted 1)
  else s.answered t r .done none [] ∧ s.counted t .requestsAccepted 1 ∧ t.mgmt.actuatorQueue = s.mgmt.actuatorQueue
    ∧ t.tables = (if w.changesClasses = true then (s.applyActuator w).recomputeClasses else s.applyActuator w).tables

/-! ## What is due at a tick (R20) -/

/-- An expiry that is due: its timer runs and the timebase has reached its moment (R31, R143, R145, R150, R188, R191), or the moment
of R73 has come for a NODE RESET. Every other command is never due. -/
def State.due (s : State) : Instr → Prop
  | .assemblyDeadline c => (s.ctx c).isOpen = true ∧ (s.ctx c).asmRunning = true
      ∧ hasReached s.now (after (s.ctx c).openTime (s.ctx c).dAsm) = true
  | .deliveryDeadline c => (s.ctx c).isOpen = true ∧ (s.ctx c).delRunning = true
      ∧ hasReached s.now (after (s.ctx c).openTime (s.ctx c).dDel) = true
  | .parkRefreshExpiry => s.loop.state = .safe ∧ ∃ u, s.loop.parkRefresh = some u ∧ hasReached s.now (after u 10000) = true
  | .starvationExpiry => (s.loop.state = .opened ∨ s.loop.state = .closed)
      ∧ ∃ u, s.loop.starvation = some u ∧ hasReached s.now (after u (1000 * s.params.starvationInterval)) = true
  | .echoEntryExpiry => ∃ e ∈ s.mirror.echoes, hasReached s.now e.expiry = true
  | .requestWatchdogExpiry .execution => ∃ e, s.mgmt.executing = some e ∧ e.begun = false
      ∧ hasReached s.now (after e.acceptedAt e.watchdog) = true
  | .requestWatchdogExpiry .slopeSide => ∃ e ∈ s.mgmt.slopeQueue, hasReached s.now (after e.acceptedAt e.watchdog) = true
  | .requestWatchdogExpiry .actuatorSide =>
      ∃ e ∈ s.mgmt.actuatorQueue, hasReached s.now (after e.acceptedAt e.watchdog) = true
  | .eventHoldoffExpiry => ∃ u, s.events.holdoff = some u ∧ hasReached s.now (after u (1000 * s.params.eventHoldoff)) = true
  | .nodeResetBegin => s.mgmt.reset = .due
  | _ => False

/-! ## Bursts placed at the Memory Arbiter (R57, R58) -/

/-- Bursts have joined the management-transfer queue: behind those that wait while the DRAM is busy; where nothing waits and the
DRAM is idle, the first of them is granted. -/
def State.placesTransfers (s t : State) (bs : List Burst) : Prop :=
  (s.arbiter.inProgress.isSome = true → t.arbiter = { s.arbiter with management := s.arbiter.management ++ bs })
  ∧ (s.arbiter = ⟨[], [], [], [], [], none⟩ → t.arbiter = ⟨[], [], [], [], bs.drop 1, bs.head?⟩)

/-- Bursts have joined the telemetry-read queue in the same way. -/
def State.placesRecordReads (s t : State) (bs : List Burst) : Prop :=
  (s.arbiter.inProgress.isSome = true → t.arbiter = { s.arbiter with telemetryRead := s.arbiter.telemetryRead ++ bs })
  ∧ (s.arbiter = ⟨[], [], [], [], [], none⟩ → t.arbiter = ⟨[], [], [], bs.drop 1, [], bs.head?⟩)

/-- The addresses that bursts cover, in their order. -/
def burstAddresses (bs : List Burst) : List Nat := bs.flatMap (fun b => (List.range b.length).map (fun k => b.address + k))

/-- The addresses of `n` units of the telemetry ring from unit `u` on; after the ring's last unit comes its first (R38, R168). -/
def ringAddresses (f : TelemetryConfig) (u n : Nat) : List Nat :=
  (List.range (32 * n)).map fun x =>
    201326592 + 32 * f.ringStart + (32 * (u - f.ringStart) + x) % (32 * (f.ringEnd - f.ringStart))

/-! ## Single-bit errors of a read (R39) -/

/-- Codewords of a burst that hold a single-bit error once the upsets that come with the command have struck. -/
def State.singles (s : State) (ks : List Strike) (b : Burst) : Nat :=
  (codewordsOf b.address b.length).countP (fun k => (s.strike ks).dram.errors.get k == .single)

/-- The corrected-codeword counter of the area in which an address lies (R38, R60). -/
def areaCounter (a : Nat) : Counter :=
  if a < 201326592 then .correctedBank else if a < 469762048 then .correctedTelemetry else .correctedPoke

/-- The state in which every single-bit error of a burst has been counted and has raised MATRIX_CORRECTED. -/
def State.corrected (s : State) (ks : List Strike) (b : Burst) : State :=
  (fun v : State => (v.bump (areaCounter b.address)).raise .matrixCorrected)^[s.singles ks b] s

/-- Between two states the single-bit errors of a burst have been counted in their area's counter, MATRIX_CORRECTED has been
raised if there was one, and no codeword has been written back. -/
def State.corrects (s t : State) (ks : List Strike) (b : Burst) : Prop :=
  t.counter (areaCounter b.address) = (if s.singles ks b = 0 then s.counter (areaCounter b.address)
    else min (s.counter (areaCounter b.address) + s.singles ks b) 4294967295)
  ∧ (0 < s.singles ks b → s.raised t .matrixCorrected)
  ∧ ∀ k, t.dram.errors.get k = (s.strike ks).dram.errors.get k

/-! ## The Column Engine at work (R13, R15, R17, R52) -/

/-- Between two states a counter has counted `n` occurrences, and stands as it was where there was none. -/
def State.countedTimes (s t : State) (c : Counter) (n : Nat) : Prop :=
  t.counter c = if n = 0 then s.counter c else min (s.counter c + n) Config.counterMax

/-- The arbiter once the DRAM has completed its burst: the oldest burst of the first queue that holds one is in progress, in the
order of R57 (R58). -/
def Arbiter.completed (a : Arbiter) : Arbiter :=
  match a.columnFetch, a.pokeFetch, a.telemetryWrite, a.telemetryRead, a.management with
  | x :: q, _, _, _, _ => { a with columnFetch := q, inProgress := some x }
  | [], x :: q, _, _, _ => { a with pokeFetch := q, inProgress := some x }
  | [], [], x :: q, _, _ => { a with telemetryWrite := q, inProgress := some x }
  | [], [], [], x :: q, _ => { a with telemetryRead := q, inProgress := some x }
  | [], [], [], [], x :: q => { a with management := q, inProgress := some x }
  | [], [], [], [], [] => { a with inProgress := none }

/-- The arbiter once bursts have joined the column-fetch queue; an idle DRAM begins the next burst at once (R58). -/
def Arbiter.joinedBy (a : Arbiter) (bs : List Burst) : Arbiter :=
  if a.inProgress.isSome then { a with columnFetch := a.columnFetch ++ bs }
  else Arbiter.completed { a with columnFetch := a.columnFetch ++ bs }

/-- The bursts that read column `i` of the recorded bank of context `c`: one for each 512 actuators, in rising order, at the
places of R38 (R52). -/
def State.columnOf (s : State) (c : Ix) (i : Nat) : List Burst :=
  (List.range (ceilDiv s.params.actuators 512)).map fun g =>
    ⟨.columnFetch c (s.ctx c).bank i g, 100663296 * (s.ctx c).bank.toNat + 12288 * i + 1024 * g,
      2 * min 512 (s.params.actuators - 512 * g), [], g + 1 = ceilDiv s.params.actuators 512, false⟩

/-- The local index of slope `j` of a packet (R1). -/
def State.indexAt (s : State) (p : Ix) (d : Descriptor) (j : Nat) : Nat := s.localIndex p (d.first + j)

/-- Slope `j` of a packet less its reference (R15). -/
def State.differenceAt (s : State) (p : Ix) (d : Descriptor) (j : Nat) : Int :=
  ((s.port p).slopeAt j).toInt - s.engine.refs.get (s.indexAt p d j)

/-- The corrected value of slope `j` of a packet (R15). -/
def State.correctedAt (s : State) (p : Ix) (d : Descriptor) (j : Nat) : Int := clampInt (-32767) 32767 (s.differenceAt p d j)

/-- Slope `j` of a packet is a duplicate: not NO_SLOPE, and its index is in the seen-map (R15, case 2). -/
def State.duplicateAt (s : State) (p : Ix) (d : Descriptor) (j : Nat) : Bool :=
  ((s.port p).slopeAt j).toInt != -32768 && (s.ctx d.ctx).seen.get (s.indexAt p d j)

/-- Slope `j` of a packet is a valid one: not NO_SLOPE, and its index is not in the seen-map (R15, case 3). -/
def State.validAt (s : State) (p : Ix) (d : Descriptor) (j : Nat) : Bool :=
  ((s.port p).slopeAt j).toInt != -32768 && !(s.ctx d.ctx).seen.get (s.indexAt p d j)

/-- The column of slope `j` of a packet is fetched: it is valid, its corrected value is not 0, and nothing has stopped the fetches
for its context (R15, R55). -/
def State.fetchedAt (s : State) (p : Ix) (d : Descriptor) (j : Nat) : Bool :=
  s.validAt p d j && s.correctedAt p d j != 0 && s.fetches d.ctx

/-- Between two states the slopes `k` to `m - 1` of a packet have been treated: a valid one has entered the seen-map, the slope
record and the hold table, every other index stands as it was, and duplicates and clamped ones are counted (R15). -/
def State.treats (s t : State) (p : Ix) (d : Descriptor) (k m : Nat) : Prop :=
  (∀ j, k ≤ j → j < m → s.validAt p d j = true →
    (t.ctx d.ctx).seen.get (s.indexAt p d j) = true
    ∧ (t.ctx d.ctx).slopes.get (s.indexAt p d j) = s.correctedAt p d j
    ∧ t.engine.hold.get (s.indexAt p d j) = some ⟨s.correctedAt p d j, 0⟩
    ∧ (s.correctedAt p d j ≠ s.differenceAt p d j → (t.ctx d.ctx).hasFlag .slopeClamp = true))
  ∧ (∀ i, (∀ j, k ≤ j → j < m → s.validAt p d j = true → s.indexAt p d j ≠ i) →
    (t.ctx d.ctx).seen.get i = (s.ctx d.ctx).seen.get i ∧ (t.ctx d.ctx).slopes.get i = (s.ctx d.ctx).slopes.get i
    ∧ t.engine.hold.get i = s.engine.hold.get i)
  ∧ s.countedTimes t (.port p .duplicates) ((List.range' k (m - k)).countP (s.duplicateAt p d))
  ∧ s.countedTimes t (.port p .clamped)
      ((List.range' k (m - k)).countP (fun j => s.validAt p d j && s.correctedAt p d j != s.differenceAt p d j))

/-- The ring of port `p` has released the packet: its words are free again (R13). -/
def State.releases (s t : State) (p : Ix) (d : Descriptor) : Prop :=
  (t.port p).readPos = ((s.port p).readPos + footprint d.count) % 8192
  ∧ (t.port p).freeCount = (s.port p).freeCount + footprint d.count

/-- The engine has gone on with a packet from slope `k`, with the arbiter at `a`: in packet order, as far as the first slope
whose column is fetched, which is then in hand, or else through the whole packet, which the ring releases (R13, R15, R52). -/
def State.goesOn (s t : State) (a : Arbiter) (p : Ix) (d : Descriptor) (k : Nat) : Prop :=
  (∃ j, k ≤ j ∧ j < d.count ∧ s.fetchedAt p d j = true ∧ (∀ x, k ≤ x → x < j → s.fetchedAt p d x = false)
    ∧ s.treats t p d k (j + 1) ∧ t.engine.work = .packet p d (j + 1)
    ∧ t.engine.pass = some ⟨d.ctx, s.indexAt p d j, s.correctedAt p d j⟩
    ∧ t.arbiter = a.joinedBy (s.columnOf d.ctx (s.indexAt p d j)) ∧ t.ports = s.ports)
  ∨ ((∀ x, k ≤ x → x < d.count → s.fetchedAt p d x = false)
    ∧ s.treats t p d k d.count ∧ t.engine.work = .idle ∧ t.arbiter = a ∧ s.releases t p d)

/-- An unseen index `j` is held: its port is not IDLE and has policy HOLD, and the age is below the hold limit (R17, R18). -/
def State.heldAt (s : State) (j : Nat) : Bool :=
  (s.port (s.ownerOf j)).state != .idle && (s.port (s.ownerOf j)).config.policy == .hold
    && (s.holdEntry j).age < (s.port (s.ownerOf j)).config.holdLimit

/-- An unseen index `j` is lost: the same with the age at the hold limit (R17). -/
def State.lostAt (s : State) (j : Nat) : Bool :=
  (s.port (s.ownerOf j)).state != .idle && (s.port (s.ownerOf j)).config.policy == .hold
    && (s.port (s.ownerOf j)).config.holdLimit ≤ (s.holdEntry j).age

/-- The substitution of index `j` fetches its column: it is unseen and held with a value that is not 0, and nothing has stopped
the fetches for its context (R17, R55). -/
def State.fillFetchedAt (s : State) (c : Ix) (j : Nat) : Bool :=
  !(s.ctx c).seen.get j && s.heldAt j && (s.holdEntry j).value != 0 && s.fetches c

/-- Between two states a job has visited the indices `i` to `m - 1`: the hold entry of a held one has aged by 1 with its value
kept, and every other hold entry stands as it was (R17). -/
def State.ages (s t : State) (c : Ix) (i m : Nat) : Prop :=
  ∀ j, t.engine.hold.get j =
    if (i ≤ j ∧ j < m ∧ (s.ctx c).seen.get j = false) ∧ s.heldAt j = true then
      some ⟨(s.holdEntry j).value, (s.holdEntry j).age + 1⟩
    else s.engine.hold.get j

/-- How many of the unseen indices from `i` to `m - 1` port `q` owns that satisfy a predicate. -/
def State.unseenCount (s : State) (c q : Ix) (f : Nat → Bool) (i m : Nat) : Nat :=
  (List.range' i (m - i)).countP (fun j => !(s.ctx c).seen.get j && (s.ownerOf j == q && f j))

/-- The context has what the visited indices give it: the held value or 0 in the slope record of an unseen one, SLOPES_SUBSTITUTED
and SLOPES_LOST where there is one, and the seen-map as it was; each unseen index is counted at its port (R17, R18). -/
def State.fills (s t : State) (c : Ix) (i m : Nat) : Prop :=
  (t.ctx c).seen = (s.ctx c).seen
  ∧ (∀ j, (t.ctx c).slopes.get j =
    if i ≤ j ∧ j < m ∧ (s.ctx c).seen.get j = false then (if s.heldAt j = true then (s.holdEntry j).value else 0)
    else (s.ctx c).slopes.get j)
  ∧ (∀ j, i ≤ j → j < m → (s.ctx c).seen.get j = false →
    (s.heldAt j = true → (t.ctx c).hasFlag .slopesSubstituted = true)
    ∧ (s.lostAt j = true → (t.ctx c).hasFlag .slopesLost = true))
  ∧ ∀ q : Ix, s.countedTimes t (.port q .substituted) (s.unseenCount c q s.heldAt i m)
    ∧ s.countedTimes t (.port q .lost) (s.unseenCount c q s.lostAt i m)
    ∧ s.countedTimes t (.port q .missing) (s.unseenCount c q (fun j => !s.heldAt j && !s.lostAt j) i m)

/-- A MIDDLE node with A set at which a context that becomes ACCUMULATED waits for its first segment: no segment is stored, slot
0 is EMPTY, and no delivery expiry is pending (R34, R81). -/
def State.awaitsSegments (s : State) (c : Ix) : Prop :=
  s.params.role = .middle ∧ 0 < s.params.actuators ∧ (s.ctx c).deliveryPending = false ∧ (s.ctx c).storedOrder = []
  ∧ (s.ctx c).slots.get 0 = .empty

/-- A job has gone on from index `i` to its end: the hold entries have aged and nothing is in hand; where the context then waits
for its first segment it is ACCUMULATED and filled (R17, R34). -/
def State.endsJob (s t : State) (c : Ix) (i : Nat) : Prop :=
  s.ages t c i s.slopeTotal ∧ t.engine.work = .idle
  ∧ (s.awaitsSegments c → s.fills t c i s.slopeTotal ∧ (t.ctx c).state = .accumulated ∧ (t.ctx c).job = .ended)

/-- The engine has gone on with a job from index `i`, with the arbiter at `a`: in rising order, as far as the first index whose
column is fetched, which is then in hand, or else to the job's end (R17, R52). -/
def State.goesOnFilling (s t : State) (a : Arbiter) (c : Ix) (i : Nat) : Prop :=
  (∃ j, i ≤ j ∧ j < s.slopeTotal ∧ s.fillFetchedAt c j = true ∧ (∀ x, i ≤ x → x < j → s.fillFetchedAt c x = false)
    ∧ s.ages t c i (j + 1) ∧ s.fills t c i (j + 1) ∧ t.engine.work = .job c (j + 1)
    ∧ t.engine.pass = some ⟨c, j, (s.holdEntry j).value⟩ ∧ t.arbiter = a.joinedBy (s.columnOf c j)
    ∧ (t.ctx c).state = (s.ctx c).state)
  ∨ ((∀ x, i ≤ x → x < s.slopeTotal → s.fillFetchedAt c x = false)
    ∧ s.endsJob t c i ∧ (s.awaitsSegments c → t.arbiter = a))

end Sys2Proof.Machine
end

