-- ==== Sys2Proof/Certificates/Slice0/Obligations.lean ====
section
/-! DEFINITION. The statements for the provers. Words used throughout: `s.answered t r st e b` (the oldest request has left the
queue and its response is placed), `s.counted t c n` and `s.countedIf t b c` (a counter has counted), `s.raised t e` (an event is pending, or has
been reported since), all of Safety.lean. A command's frame is the statement EveryCommandStaysWithinItsParts. -/

open Sys2Proof Sys2Proof.Machine

/-- A step runs the command at the front of the queue (95_what_each_step_holds.md: each step is whole and indivisible). The queue is the model's own (INVENTORY.md, Agents). -/
def Obligations.StepRunsFrontCommand : Prop :=
  ∀ (c : Instr) (s : State), step { s with pending := c :: s.pending } = exec c s

/-- The tick of R20 with the expiries that it brings; `State.due` says when each is due. That it falls on a step with an empty queue, and offers one expiry at a time, is the model's choice (log entry 1). -/
def Obligations.IdleStepPassesOneMicrosecond : Prop :=
  ∀ s : State, s.pending = [] → ∃ t, step s = .next t
    ∧ (∀ p : Part, p ≠ .pending → p ≠ .timebase → p.same s t)
    ∧ ((t.pending = [] ∧ t.now = s.now + 1) ∨ (t.now = s.now ∧ ∃ c, t.pending = [c] ∧ s.due c))
    ∧ (t.pending = [] ↔ ∀ c, ¬ s.due c)

/-- Power-on reset establishes the laws that every command keeps (R196). The node number 0 of `State.reset` is log entry 2. -/
def Obligations.PowerOnStateMeetsTheLaws : Prop :=
  (∀ (n : BitVec 3) (e : Nat), (State.powerOn n e).Inv) ∧ State.reset.Inv

/-- The laws of `State.Inv` are kept by every command and every step, from every state that meets them; the rules are those that the fields of `State.Inv` cite. -/
def Obligations.EveryCommandKeepsTheLaws : Prop :=
  (∀ (i : Instr) (s : State), s.Inv → ∃ t, exec i s = .next t ∧ t.Inv)
    ∧ ∀ s : State, s.Inv → ∃ t, step s = .next t ∧ t.Inv

/-- The frame of every command (95_what_each_step_holds.md lists what comes about inside each step): `partsOf` names the parts that it may change, `Part.same` says what the parts are. -/
def Obligations.EveryCommandStaysWithinItsParts : Prop :=
  ∀ (i : Instr) (s : State), ∃ t, exec i s = .next t ∧ ∀ p : Part, p ∉ partsOf i → p.same s t

/-- Counters count up and saturate (00_scope.md section 5.6); only a clearing read (R193) and power-on reset (R196) bring one down. -/
def Obligations.CountersNeverFall : Prop :=
  ∀ (i : Instr) (s : State), s.Inv → (∀ n, i ≠ .powerOnReset n) → i ≠ .readCounters →
    ∃ t, exec i s = .next t ∧ ∀ c : Counter, s.counter c ≤ t.counter c

/-- The only bytes of the stacked DRAM that a command stores are those of the write burst in progress that it ends (R45, R158, R174). -/
def Obligations.DramBytesChangeOnlyInTheStoredBurst : Prop :=
  ∀ (i : Instr) (s : State) (a : Nat), (∀ n, i ≠ .powerOnReset n) →
    (∀ b, s.arbiter.inProgress = some b → ¬(b.address ≤ a ∧ a < b.address + b.data.length)) →
    ∃ t, exec i s = .next t ∧ t.dram.memory.read? a = s.dram.memory.read? a

/-- R196 with the power-on values of R3, R6, R40, R186 and R190. That waiting commands still wait, and how undefined DRAM is held, are log entries 3 and 6. -/
def Obligations.PowerOnResetSetsPowerOnValues : Prop :=
  ∀ (n : BitVec 3) (s : State), ∃ t, exec (.powerOnReset n) s = .next t ∧ t.nodeNumber = n ∧ t.safeOut = false
    ∧ t.now = 0 ∧ (∀ c : Counter, t.counter c = 0) ∧ t.trunk = ⟨false, false, [], [], none⟩ ∧ t.mirror.up = false
    ∧ t.mirror.echoes = [] ∧ t.mirror.sending = none ∧ t.mirror.waiting = none ∧ t.mirror.misses = 0
    ∧ t.arbiter = ⟨[], [], [], [], [], none⟩ ∧ t.frames.jobs = [] ∧ t.engine.work = .idle ∧ t.engine.pass = none
    ∧ (∀ i, t.engine.hold.get i = none)
    ∧ (∀ p : Ix, (t.port p).linkUp = false ∧ (t.port p).state = .idle ∧ (t.port p).freeCount = 8192
        ∧ (t.port p).readPos = 0 ∧ (t.port p).visiblePos = 0 ∧ (t.port p).writePos = 0
        ∧ (t.port p).reception = none)
    ∧ (∀ c : Ix, (t.ctx c).state = .free) ∧ (∀ b : Ix, (t.bank b).state = .empty ∧ (t.bank b).useCount = 0)
    ∧ t.params.role = .solo ∧ t.params.actuators = 0 ∧ t.params.dAsm = 300 ∧ t.params.dDel = 600
    ∧ t.params.expectedMask = ownBit n ∧ t.loop.state = .off ∧ t.loop.snapshotState = .empty ∧ t.events.pending = 0
    ∧ t.events.frameNumber = 0 ∧ t.mgmt.queue = [] ∧ t.mgmt.executing = none ∧ t.mgmt.slopeQueue = []
    ∧ t.mgmt.actuatorQueue = [] ∧ t.poke = none ∧ t.telemetry.state = .idle ∧ t.telemetry.lengths = [] ∧ t.telemetry.inFlight = none ∧ t.lastApplied = none
    ∧ t.dram.memory.cells = [] ∧ t.pending = s.pending

/-- A change to UP raises no event and counts nothing (R4, R64, R147). -/
def Obligations.LinkUpCommandsOnlyReportTheLink : Prop :=
  ∀ s : State,
    (∀ p : Ix, exec (.slLinkUp p) s = .next (s.setPort p { s.port p with linkUp := true }))
    ∧ exec .tiLinkUp s = .next { s with trunk := { s.trunk with tiUp := true } }
    ∧ exec .mlLinkUp s = .next { s with mirror := { s.mirror with up := true } }

/-- A change of a link to DOWN: R4 with R11, R64, R71 and R147. The loss of ML in OPEN and CLOSED is MirrorLossEntersSafe. -/
def Obligations.LinkDownCommandsCountAndRaise : Prop :=
  ∀ s : State,
    (∀ p : Ix, (s.port p).linkUp = true → ∃ t, exec (.slLinkDown p) s = .next t ∧ (t.port p).linkUp = false
      ∧ (t.port p).state = (s.port p).state ∧ (t.port p).reception = none ∧ s.counted t (.port p .linkDown) 1
      ∧ s.raised t .linkDown ∧ t.counter (.port p .payloadErrors) = s.counter (.port p .payloadErrors)
      ∧ (match (s.port p).reception with
        | some r => s.counted t (.port p .truncated) 1 ∧ (t.port p).writePos = (s.port p).visiblePos
            ∧ (t.port p).freeCount = (s.port p).freeCount + footprint r.descriptor.count
        | none => t.counter (.port p .truncated) = s.counter (.port p .truncated) ∧ (t.port p).writePos = (s.port p).writePos
            ∧ (t.port p).freeCount = (s.port p).freeCount))
    ∧ (s.trunk.tiUp = true → ∀ b : Bool, ∃ t, exec (.tiLinkDown b) s = .next t ∧ t.trunk.tiUp = false
      ∧ s.counted t .tiLinkDown 1 ∧ s.raised t .linkDown ∧ s.countedIf t b .truncatedTi)
    ∧ (s.trunk.toUp = true → ∃ t, exec .toLinkDown s = .next t ∧ t.trunk.toUp = false ∧ t.trunk.sending = none
      ∧ t.trunk.realtime = s.trunk.realtime ∧ s.counted t .toLinkDown 1 ∧ s.raised t .linkDown
      ∧ s.countedIf t s.trunk.sending.isSome .transmitAborted)
    ∧ (s.mirror.up = true → s.loop.state.applies = false → ∃ t, exec .mlLinkDown s = .next t ∧ t.mirror.up = false
      ∧ t.mirror.sending = none ∧ t.mirror.waiting = none ∧ s.counted t .mlLinkDown 1 ∧ s.raised t .linkDown
      ∧ s.countedIf t s.mirror.sending.isSome .mlTransmitAborted
      ∧ s.countedIf t s.mirror.waiting.isSome .unsent)

/-- The raising of an event and the report test (R190, R191), with the holding back of reports while a NODE RESET waits (R195). -/
def Obligations.RaisedEventPendsOrIsReported : Prop :=
  ∀ (s : State) (e : Event),
    (hasEvent fatalSet e = true → (s.raise e).isPending e = true)
    ∧ s.raised (s.raise e) e
    ∧ (s.events.reportEnable = false ∨ s.events.holdoff.isSome = true ∨ s.mgmt.reset ≠ .none →
        (s.raise e).isPending e = true ∧ (s.raise e).events.frameNumber = s.events.frameNumber)
    ∧ (s.events.reportEnable = true → s.events.holdoff = none → s.mgmt.reset = .none →
        hasEvent (s.setPending e).reportable e = true →
        (s.raise e).events.frameNumber = s.events.frameNumber + 1
        ∧ (hasEvent fatalSet e = false → (s.raise e).isPending e = false)
        ∧ (hasEvent fatalSet e = true → hasEvent (s.raise e).events.reported e = true))

/-- The end of a send and the grants of the TO transmitter (R70, R71). -/
def Obligations.TransmitterServesRealtimeFirst : Prop :=
  ∀ s : State,
    (∀ x : Sending, s.trunk.sending = some x → s.trunk.toUp = true → ∃ t, exec .toSendEnd s = .next t
      ∧ s.countedIf t x.realtime .realtimeSent ∧ s.countedIf t (!x.realtime) .controlSent
      ∧ (t.trunk.sending, t.trunk.realtime, t.trunk.control) =
        (match s.trunk.realtime, s.trunk.control with
          | f :: q, c => (some ⟨f, true⟩, q, c)
          | [], f :: q => (some ⟨f, false⟩, [], q)
          | [], [] => (none, [], [])))
    ∧ (s.trunk.sending = none → ∃ t, exec .toLinkUp s = .next t ∧ t.trunk.toUp = true
      ∧ (t.trunk.sending, t.trunk.realtime, t.trunk.control) =
        (match s.trunk.realtime, s.trunk.control with
          | f :: q, c => (some ⟨f, true⟩, q, c)
          | [], f :: q => (some ⟨f, false⟩, [], q)
          | [], [] => (none, [], [])))

/-- Overflow of the two TO queues (R67, R69). -/
def Obligations.FullQueuesLoseTheRightFrame : Prop :=
  ∀ (s : State) (f : ToFrame) (bytes : List Byte), s.trunk.toUp = false →
    (if 16 ≤ s.trunk.control.length then (s.placeControl f).trunk = s.trunk ∧ s.counted (s.placeControl f) .controlOverflow 1
      else (s.placeControl f).trunk = { s.trunk with control := s.trunk.control ++ [f] }
        ∧ (s.placeControl f).counters = s.counters)
    ∧ (if 24 ≤ s.trunk.realtime.length then
        (s.placeRealtime bytes).trunk = { s.trunk with realtime := s.trunk.realtime.drop 1 ++ [⟨bytes, false⟩] }
        ∧ s.counted (s.placeRealtime bytes) .realtimeOverflow 1
      else (s.placeRealtime bytes).trunk = { s.trunk with realtime := s.trunk.realtime ++ [⟨bytes, false⟩] }
        ∧ (s.placeRealtime bytes).counters = s.counters)

/-- Reservation, resolution in the first case, and descriptor (R7, R9, R24). -/
def Obligations.SlopeHeaderOfAnOpenTagIsReceived : Prop :=
  ∀ (p c : Ix) (h : List Byte) (s : State), (s.port p).linkUp = true → (s.port p).reception = none →
    headerHolds h = true → (s.port p).state = .running →
    1 ≤ (headerDescriptor h).count → (headerDescriptor h).count ≤ 256 →
    (headerDescriptor h).first + (headerDescriptor h).count ≤ (s.port p).config.slopeCount →
    footprint (headerDescriptor h).count ≤ (s.port p).freeCount →
    s.ctxOfTag? (headerDescriptor h).tag = some c → (s.ctx c).state = .assembling →
    ∃ t, exec (.slopePacketHeader p h) s = .next t
      ∧ (t.port p).freeCount = (s.port p).freeCount - footprint (headerDescriptor h).count
      ∧ (t.port p).writePos = ((s.port p).writePos + 2) % 8192
      ∧ (t.port p).ring.get ((s.port p).writePos % 8192) = .descriptor { headerDescriptor h with ctx := c }
      ∧ (t.port p).ring.get (((s.port p).writePos + 1) % 8192) = .descriptorRest
      ∧ (t.port p).reception = some ⟨h, { headerDescriptor h with ctx := c }⟩
      ∧ (t.port p).readPos = (s.port p).readPos ∧ (t.port p).visiblePos = (s.port p).visiblePos
      ∧ (t.port p).state = .running ∧ (t.port p).linkUp = true ∧ t.port p.other = s.port p.other
      ∧ t.ctx c = { s.ctx c with heldCount := (s.ctx c).heldCount.set p ((s.ctx c).heldCount.get p + 1) }
      ∧ t.ctx c.other = s.ctx c.other ∧ t.counters = s.counters

/-- The discards of a slope packet at its header (R5, R7, R8, R9, R24). -/
def Obligations.SlopeHeaderThatFailsIsDiscarded : Prop :=
  ∀ (p : Ix) (h : List Byte) (s : State), (s.port p).linkUp = true → (s.port p).reception = none →
    ∃ t, exec (.slopePacketHeader p h) s = .next t ∧
      (if headerHolds h = false then s.counted t (.port p .headerErrors) 1 ∧ s.raised t .linkCrc ∧ t.ports = s.ports
      else if (s.port p).state ≠ .running then s.counted t (.port p .notRunning) 1 ∧ t.ports = s.ports
      else if ¬(1 ≤ (headerDescriptor h).count ∧ (headerDescriptor h).count ≤ 256
          ∧ (headerDescriptor h).first + (headerDescriptor h).count ≤ (s.port p).config.slopeCount) then
        s.counted t (.port p .rangeErrors) 1 ∧ t.ports = s.ports
      else if (s.port p).freeCount < footprint (headerDescriptor h).count then
        (match (s.port p).config.fullMode with
        | .drop => s.counted t (.port p .droppedFull) 1 ∧ s.raised t .packetDropped ∧ t.ports = s.ports
        | .stop => s.counted t (.port p .stoppedDiscard) 1 ∧ t.isPending (portStopped p) = true
            ∧ t.port p = { s.port p with state := .stopped } ∧ t.port p.other = s.port p.other)
      else (match s.ctxOfTag? (headerDescriptor h).tag with
        | some c => (s.ctx c).state ≠ .assembling →
            s.counted t (.port p .lateAtArrival) 1 ∧ s.raised t .lateInput ∧ t.ports = s.ports ∧ t.frames = s.frames
        | none =>
            (tagNewerThan (headerDescriptor h).tag s.frames.newestOpened = false →
              s.counted t (.port p .lateAtArrival) 1 ∧ s.raised t .lateInput ∧ t.ports = s.ports ∧ t.frames = s.frames)
            ∧ (tagNewerThan (headerDescriptor h).tag s.frames.newestOpened = true →
              s.hasMatrix (headerDescriptor h).tag = false →
              s.counted t (.port p .noMatrix) 1 ∧ t.ports = s.ports ∧ t.frames = s.frames)))

/-- The steps of an opening (R27), with the swap of R49 and the CORRUPT mark of R55, as a packet (R24) and a segment (R25) bring them about, and the displacement of an open context (R29, R30). That the engine drains, holding the packet until a burst in progress ends, is read from R29 by inference (log entry 19). What two tags exactly 32768 apart do is log entry 13 and not stated. -/
def Obligations.OpeningRecordsTagBankAndTime : Prop :=
  (∀ (s : State) (g : Tag) (b c : Ix),
    c = (if (s.ctx .zero).state = .free then .zero else .one) → (s.ctx c).state = .free →
    (match s.reachedSwap? g with | some k => some k | none => s.liveBank?) = some b →
    (s.openContext g).1 = c ∧
    (∃ t, (s.openContext g).2 = t ∧ (t.ctx c).state = .assembling ∧ (t.ctx c).tag = g ∧ (t.ctx c).bank = b
      ∧ (t.ctx c).label = (s.bank b).label ∧ (t.ctx c).scale = (s.bank b).scale ∧ (t.ctx c).openTime = s.now
      ∧ (t.ctx c).dAsm = s.params.dAsm ∧ (t.ctx c).dDel = s.params.dDel
      ∧ (t.ctx c).asmRunning = true ∧ (t.ctx c).delRunning = true ∧ (t.ctx c).heldCount = ⟨0, 0⟩
      ∧ (∀ i, (t.ctx c).seen.get i = false ∧ (t.ctx c).sums.get i = 0 ∧ (t.ctx c).slots.get i = .empty)
      ∧ (t.ctx c).isCorrupt = s.isPending .matrixUncorrectable
      ∧ (t.bank b).useCount = (s.bank b).useCount + 1 ∧ (t.bank b).state = .live
      ∧ t.frames.newestOpened = some g ∧ s.counted t .contextsOpened 1
      ∧ (match s.reachedSwap? g with
        | some _ => (t.bank b).swapMark = none ∧ s.counted t .swaps 1 ∧ s.raised t .bankSwapped
            ∧ (t.bank b.other).state = (if (s.bank b.other).state = .live then .ready else (s.bank b.other).state)
        | none => t.bank b.other = s.bank b.other ∧ t.counter .swaps = s.counter .swaps)))
  ∧ (∀ (s : State) (p b c : Ix) (h : List Byte) (d : Descriptor), d = headerDescriptor h → (s.port p).linkUp = true →
    (s.port p).reception = none → headerHolds h = true → (s.port p).state = .running → 1 ≤ d.count → d.count ≤ 256 →
    d.first + d.count ≤ (s.port p).config.slopeCount → footprint d.count ≤ (s.port p).freeCount →
    (∀ k, (s.ctx k).isOpen = true → (s.ctx k).tag ≠ d.tag) → tagNewerThan d.tag s.frames.newestOpened = true →
    (match s.reachedSwap? d.tag with | some k => some k | none => s.liveBank?) = some b →
    (c = (if (s.ctx .zero).state = .free then .zero else .one) → (s.ctx c).state = .free →
      ∃ t, exec (.slopePacketHeader p h) s = .next t ∧ (t.ctx c).state = .assembling ∧ (t.ctx c).tag = d.tag
        ∧ (t.ctx c).bank = b ∧ (t.ctx c).openTime = s.now ∧ (t.ctx c).heldCount.get p = 1
        ∧ (t.port p).freeCount = (s.port p).freeCount - footprint d.count
        ∧ (t.port p).reception = some ⟨h, { d with ctx := c }⟩ ∧ t.frames.newestOpened = some d.tag
        ∧ s.counted t .contextsOpened 1)
    ∧ ((s.ctx .zero).state ≠ .free → (s.ctx .one).state ≠ .free → tagNewer (s.ctx c.other).tag (s.ctx c).tag = true →
      ∃ t, exec (.slopePacketHeader p h) s = .next t ∧ (t.ctx c).state = .assembling ∧ (t.ctx c).tag = d.tag
        ∧ (t.ctx c).bank = b ∧ (t.ctx c).openTime = s.now ∧ (t.ctx c).heldCount.get p = 1
        ∧ t.frames.newestOpened = some d.tag ∧ s.counted t .contextsOpened 1
        ∧ ((s.ctx c).state = .assembling → s.counted t .abandoned 1)
        ∧ ((s.ctx c).state = .accumulated ∨ (s.ctx c).state = .merging → s.counted t .forcedByDisplacement 1)))
  ∧ (∀ (s : State) (f : List Byte) (g : Segment) (b c : Ix), s.trunk.tiUp = true → lengthsHold f = true →
    crc32Holds f = true → frameKind f = 1 → (s.params.role = .middle ∨ s.params.role = .tail) →
    g = Segment.decode (framePayload f) → formsSegment (framePayload f) = true → s.shapeAgrees g = true →
    (∀ k, (s.ctx k).isOpen = true → (s.ctx k).tag ≠ g.tag) → tagNewerThan g.tag s.frames.newestOpened = true →
    (match s.reachedSwap? g.tag with | some k => some k | none => s.liveBank?) = some b →
    c = (if (s.ctx .zero).state = .free then .zero else .one) → (s.ctx c).state = .free →
    ∃ t, exec (.tiFrameReceived f) s = .next t ∧ (t.ctx c).state = .assembling ∧ (t.ctx c).tag = g.tag
      ∧ (t.ctx c).bank = b ∧ (t.ctx c).openTime = s.now ∧ (t.ctx c).slots.get g.index = .stored g
      ∧ (t.ctx c).storedOrder = [g.index] ∧ t.frames.newestOpened = some g.tag ∧ s.counted t .contextsOpened 1
      ∧ s.counted t .storedSegments 1)
  ∧ ∀ (s : State) (c : Ix), ∃ t, s.displace c = t
    ∧ ((s.ctx c).state = .assembling → t.ctx c = Context.free ∧ t.ctx c.other = s.ctx c.other ∧ c ∉ t.frames.jobs
      ∧ s.counted t .abandoned 1 ∧ s.raised t .contextAbandoned
      ∧ (t.bank (s.ctx c).bank).useCount = (s.bank (s.ctx c).bank).useCount - 1
      ∧ t.frames.newestDelivered = s.frames.newestDelivered ∧ t.lastApplied = s.lastApplied
      ∧ t.telemetry.inFlight = s.telemetry.inFlight ∧ t.engine.hold = s.engine.hold
      ∧ (∀ f ∈ t.trunk.realtime, f ∈ s.trunk.realtime)
      ∧ (∀ k, s.engine.work = .job c k → t.engine.pass = none ∧ (∀ x ∈ t.arbiter.columnFetch, x.job.isColumn = false)
        ∧ ((∀ x, s.arbiter.inProgress = some x → x.job.isColumn = false) → t.engine.work = .idle))
      ∧ (∀ p d k, s.engine.work = .packet p d k → d.ctx = c →
        t.engine.pass = none ∧ (∀ x ∈ t.arbiter.columnFetch, x.job.isColumn = false)
        ∧ ((∃ x, s.arbiter.inProgress = some x ∧ x.job.isColumn = true) →
          t.engine.work = .draining (some (p, d)) ∧ t.ports = s.ports)
        ∧ ((∀ x, s.arbiter.inProgress = some x → x.job.isColumn = false) → t.engine.work = .idle
          ∧ (t.port p).readPos = ((s.port p).readPos + footprint d.count) % 8192
          ∧ (t.port p).freeCount = (s.port p).freeCount + footprint d.count)))
    ∧ ((s.ctx c).state = .accumulated ∨ (s.ctx c).state = .merging → (t.ctx c).state = .free
      ∧ s.counted t .forcedByDisplacement 1 ∧ (∀ w, t.telemetry.inFlight = some w → w.ctx ≠ c)
      ∧ (s.isTail = true → s.counted t .lateFrames 1 ∧ s.raised t .lateFrame ∧ t.lastApplied = s.lastApplied
        ∧ s.countedIf t (!(s.ctx c).hasFlag .deliveryDeadline) .lateByDisplacement
        ∧ s.countedIf t ((s.ctx c).hasFlag .deliveryDeadline) .lateByDeadline))
    ∧ ((s.ctx c).state = .done → t.ctx c = Context.free ∧ t.ctx c.other = s.ctx c.other
      ∧ t.frames.newestDelivered = s.frames.newestDelivered
      ∧ (∀ w, s.telemetry.inFlight = some w → w.ctx = c → t.telemetry.inFlight = none
        ∧ s.counted t .telemetryDropped 1 ∧ ∀ x ∈ t.arbiter.telemetryWrite, x.job.isTelemetryWrite = false)
      ∧ ((∀ w, s.telemetry.inFlight = some w → w.ctx ≠ c) → t.telemetry = s.telemetry ∧ t.counters = s.counters))

/-- The payload check and the flush (R10, R11). That the slopes are written and the write position advances in this one command, and only if the packet holds, is the model's choice (log entry 4): R10 has them written as they arrive. -/
def Obligations.PacketEndMakesVisibleOrFlushes : Prop :=
  ∀ (p : Ix) (bytes : List Byte) (s : State) (r : Reception), (s.port p).reception = some r →
    ∃ t, exec (.slopePacketEnd p bytes) s = .next t ∧ (t.port p).reception = none ∧ t.port p.other = s.port p.other ∧
      (if payloadHolds r bytes = true then
        s.counted t (.port p .accepted) 1 ∧ (t.port p).freeCount = (s.port p).freeCount
        ∧ (t.port p).writePos = ((s.port p).writePos + ceilDiv r.descriptor.count 2) % 8192
        ∧ (t.port p).visiblePos = (t.port p).writePos ∧ (t.port p).readPos = (s.port p).readPos
        ∧ (r.descriptor.count ≤ 256 → ∀ k, k < r.descriptor.count → ∃ lower upper,
            (t.port p).ring.get (((s.port p).writePos + k / 2) % 8192) = .slopes lower upper
            ∧ (if k % 2 = 0 then lower else upper.getD 0) = BitVec.ofNat 16 (fieldAt bytes (2 * k) 2))
        ∧ (if r.descriptor.last = true ∧ s.stillOpen r.descriptor = true then
            (t.ctx r.descriptor.ctx).lastDelivered.get p = true else t.frames = s.frames)
      else
        s.counted t (.port p .payloadErrors) 1 ∧ s.raised t .linkCrc
        ∧ (t.port p).writePos = (s.port p).visiblePos ∧ (t.port p).visiblePos = (s.port p).visiblePos
        ∧ (t.port p).freeCount = (s.port p).freeCount + footprint r.descriptor.count
        ∧ (if s.stillOpen r.descriptor = true then
            (t.ctx r.descriptor.ctx).heldCount.get p = (s.ctx r.descriptor.ctx).heldCount.get p - 1
            else t.frames = s.frames))

/-- Taking a packet (R13), the treatment of its slopes (R15) as far as the first column fetch (R52), and the consumption without fetches of a CORRUPT context (R55); `State.goesOn` and `State.treats` of Safety.lean spell out what the engine does from a slope on. That nothing is fetched for a CORRUPT context after MATRIX_UNCORRECTABLE has been cleared is read from the spec by inference (log entry 20). -/
def Obligations.EngineTakesOrSkipsTheOldestPacket : Prop :=
  ∀ (s : State) (p : Ix) (d : Descriptor), s.engine.work = .idle → s.frames.jobs = [] → s.nextRing? = some p →
    (s.port p).ring.get (s.port p).readPos = .descriptor d →
    ∃ t, exec .columnEngineTakePacket s = .next t ∧ t.engine.lastPort = p ∧
      (¬(s.stillOpen d = true ∧ (s.ctx d.ctx).state = .assembling) →
        s.counted t (.port p .lateAtConsumption) 1 ∧ s.raised t .lateInput ∧ t.engine.work = .idle
        ∧ (t.port p).readPos = ((s.port p).readPos + footprint d.count) % 8192
        ∧ (t.port p).freeCount = (s.port p).freeCount + footprint d.count
        ∧ (s.stillOpen d = true → (t.ctx d.ctx).heldCount.get p = (s.ctx d.ctx).heldCount.get p - 1)
        ∧ t.engine.hold = s.engine.hold ∧ t.arbiter = s.arbiter)
      ∧ (s.stillOpen d = true → (s.ctx d.ctx).state = .assembling →
        s.goesOn t s.arbiter p d 0 ∧ (t.engine.work = .idle → t.engine.pass = s.engine.pass)
        ∧ ∀ x : Ix, (t.ctx x).sums = (s.ctx x).sums)
      ∧ (s.stillOpen d = true → (s.ctx d.ctx).state = .assembling → (s.ctx d.ctx).isCorrupt = true →
        t.engine.work = .idle ∧ (t.port p).readPos = ((s.port p).readPos + footprint d.count) % 8192
        ∧ (t.port p).freeCount = (s.port p).freeCount + footprint d.count
        ∧ (t.ctx d.ctx).sums = (s.ctx d.ctx).sums ∧ t.arbiter = s.arbiter)

/-- The table of R17 with R18, a job that goes on to the first column fetch (R52), and one that fetches nothing (R34); `State.goesOnFilling` of Safety.lean spells out what the engine does from an index on. That nothing is fetched for a CORRUPT context after MATRIX_UNCORRECTABLE has been cleared is read from the spec by inference (log entry 20). -/
def Obligations.SubstitutionFillsUnseenSlopes : Prop :=
  (∀ (s : State) (c i : Ix) (k : Nat), i = s.ownerOf k →
    (((s.substitute c k).2.ctx c).seen = (s.ctx c).seen ∧ ((s.substitute c k).2.ctx c).sums = (s.ctx c).sums)
    ∧ ((s.port i).state = .idle ∨ (s.port i).config.policy = .zero →
      (s.substitute c k).1 = 0 ∧ ((s.substitute c k).2.ctx c).slopes.get k = 0
      ∧ (s.substitute c k).2.engine = s.engine ∧ s.counted (s.substitute c k).2 (.port i .missing) 1)
    ∧ ((s.port i).state ≠ .idle → (s.port i).config.policy = .hold →
      (s.holdEntry k).age < (s.port i).config.holdLimit →
      (s.substitute c k).1 = (s.holdEntry k).value ∧ ((s.substitute c k).2.ctx c).slopes.get k = (s.holdEntry k).value
      ∧ (s.substitute c k).2.engine.hold.get k = some ⟨(s.holdEntry k).value, (s.holdEntry k).age + 1⟩
      ∧ ((s.substitute c k).2.ctx c).hasFlag .slopesSubstituted = true
      ∧ s.counted (s.substitute c k).2 (.port i .substituted) 1)
    ∧ ((s.port i).state ≠ .idle → (s.port i).config.policy = .hold →
      (s.port i).config.holdLimit ≤ (s.holdEntry k).age →
      (s.substitute c k).1 = 0 ∧ ((s.substitute c k).2.ctx c).slopes.get k = 0
      ∧ (s.substitute c k).2.engine = s.engine ∧ ((s.substitute c k).2.ctx c).hasFlag .slopesLost = true
      ∧ s.counted (s.substitute c k).2 (.port i .lost) 1))
  ∧ ∀ (s : State) (c : Ix) (rest : List Ix), s.engine.work = .idle → s.frames.jobs = c :: rest →
    ∃ t, exec .substitutionJobRun s = .next t ∧ t.frames.jobs = rest ∧ s.goesOnFilling t s.arbiter c 0
      ∧ (t.engine.work ≠ .idle → (t.ctx c).job = .running)
      ∧ ((∀ p : Ix, (s.port p).state = .idle ∨ (s.port p).config.policy = .zero) →
        t.engine.work = .idle ∧ t.engine.hold = s.engine.hold
        ∧ (s.awaitsSegments c → (t.ctx c).state = .accumulated ∧ t.arbiter = s.arbiter ∧ ∀ k, k < s.slopeTotal →
          (t.ctx c).slopes.get k = if (s.ctx c).seen.get k = true then (s.ctx c).slopes.get k else 0))

/-- Accumulation (R52, R53) of a read that R39 corrects, with what the engine goes on to (R13, R15, R17) and the end of a burst given up (R54). That the next burst is granted before the engine goes on is log entry 22; that a CORRUPT context fetches nothing is log entry 20; that the engine drains and a burst given up still corrects and counts is log entries 19 and 21. -/
def Obligations.ColumnBurstAddsItsProducts : Prop :=
  (∀ (s : State) (ks : List Strike) (b : Burst) (c bank : Ix) (i g : Nat) (v : ColumnPass),
    s.arbiter.inProgress = some b → b.job = .columnFetch c bank i g → b.dropped = false →
    (∀ k ∈ codewordsOf b.address b.length, (s.strike ks).dram.errors.get k ≠ .double) →
    s.engine.pass = some v →
    ∃ t, exec (.columnBurstDelivered ks) s = .next t ∧ s.corrects t ks b ∧
      let added := ∀ j, (t.ctx c).sums.get j = (s.ctx c).sums.get j +
          (if 512 * g ≤ j ∧ j < 512 * g + b.length / 2 then
            v.value * signedAt (s.dramBytes b.address b.length) (2 * (j - 512 * g)) 2 else 0)
      (b.last = false → added ∧ t.ctx c.other = s.ctx c.other ∧ t.engine.pass = s.engine.pass
        ∧ t.engine.work = s.engine.work ∧ t.ports = s.ports ∧ t.arbiter = s.arbiter.completed)
      ∧ (b.last = true → ∀ (p : Ix) (d : Descriptor) (k : Nat), s.engine.work = .packet p d k → k ≤ d.count →
        added ∧ s.goesOn t s.arbiter.completed p d k ∧ (t.engine.work = .idle → t.engine.pass = none)
        ∧ (k = d.count ∨ d.ctx = c →
          t.ctx c.other = { s.ctx c.other with heldCount := (t.ctx c.other).heldCount, job := (t.ctx c.other).job }))
      ∧ (b.last = true → ∀ k, s.engine.work = .job c k → k ≤ s.slopeTotal →
        s.goesOnFilling t s.arbiter.completed c k ∧ (t.engine.work = .idle → t.engine.pass = none)
        ∧ (t.engine.work ≠ .idle ∨ s.awaitsSegments c → added ∧ t.ctx c.other = s.ctx c.other)))
  ∧ ∀ (s : State) (ks : List Strike) (b : Burst) (packet : Option (Ix × Descriptor)),
    s.arbiter.inProgress = some b → b.job.isColumn = true → b.dropped = true → s.engine.work = .draining packet →
    (∀ k ∈ codewordsOf b.address b.length, (s.strike ks).dram.errors.get k ≠ .double) →
    ∃ t, exec (.columnBurstDelivered ks) s = .next t ∧ s.corrects t ks b ∧ t.engine.work = .idle
      ∧ t.arbiter = s.arbiter.completed
      ∧ (∀ c : Ix, (t.ctx c).sums = (s.ctx c).sums ∧ (t.ctx c).state = (s.ctx c).state)
      ∧ (∀ p d, packet = some (p, d) → s.releases t p d) ∧ (packet = none → t.ports = s.ports)

/-- Uncorrectable matrix data (R55), whatever the engine has in hand. That a burst given up by its requester is checked, counted and latched like any other is read from R39 by inference (log entry 21), and that the engine drains until it ends is log entry 19. -/
def Obligations.UncorrectableColumnBurstMakesTheNodeNonContributing : Prop :=
  ∀ (s : State) (ks : List Strike) (b : Burst),
    s.arbiter.inProgress = some b → b.job.isColumn = true →
    (∃ k ∈ codewordsOf b.address b.length, (s.strike ks).dram.errors.get k = .double) →
    ∃ t, exec (.columnBurstDelivered ks) s = .next t ∧ t.isPending .matrixUncorrectable = true
      ∧ s.counted t .uncorrectableColumn 1 ∧ t.bankStore.lastBad = some (placeOf b.address, s.now)
      ∧ (∀ x ∈ t.arbiter.columnFetch, x.job.isColumn = false) ∧ t.engine.pass = none ∧
      let spoilt := ∀ c : Ix, (t.ctx c).sums = (s.ctx c).sums
        ∧ ((s.ctx c).isOpen = true → (s.ctx c).state ≠ .done → (t.ctx c).isCorrupt = true)
      (∀ (p : Ix) (d : Descriptor) (k : Nat), s.engine.work = .packet p d k → k ≤ d.count →
        s.treats t p d k d.count ∧ s.releases t p d ∧ t.engine.work = .idle ∧ spoilt
        ∧ ∀ c : Ix, (t.ctx c).state = (s.ctx c).state)
      ∧ (∀ packet, s.engine.work = .draining packet → t.engine.work = .idle ∧ spoilt
        ∧ (∀ p d, packet = some (p, d) → s.releases t p d) ∧ ∀ c : Ix, (t.ctx c).state = (s.ctx c).state)
      ∧ ∀ (c : Ix) (i : Nat), s.engine.work = .job c i → i ≤ s.slopeTotal →
        s.endsJob t c i ∧ (s.awaitsSegments c → spoilt)

/-- The two deadlines (R33, R35). The timebase is brought to the deadline's moment by the model's choice (log entry 14). -/
def Obligations.DeadlinesOfAnOpenContext : Prop :=
  ∀ (c : Ix) (s : State),
    ((s.ctx c).isOpen = true → (s.ctx c).asmRunning = true → ∃ t, exec (.assemblyDeadline c) s = .next t
      ∧ t.now = (if hasReached s.now (s.ctx c).asmMoment = true then s.now else (s.ctx c).asmMoment)
      ∧ t.ctx c.other = s.ctx c.other
      ∧ (if (s.ctx c).state = .assembling ∧ (s.ctx c).job = .none then
          t.ctx c = { (s.ctx c).addFlag .assemblyDeadline with asmRunning := false, job := .queued }
          ∧ t.frames.jobs = s.frames.jobs ++ [c] ∧ s.counted t .assemblyDeadlines 1
        else t.ctx c = { s.ctx c with asmRunning := false } ∧ t.frames.jobs = s.frames.jobs ∧ t.counters = s.counters))
    ∧ ((s.ctx c).isOpen = true → (s.ctx c).delRunning = true → ∃ t, exec (.deliveryDeadline c) s = .next t
      ∧ t.now = (if hasReached s.now (s.ctx c).delMoment = true then s.now else (s.ctx c).delMoment)
      ∧ ((s.ctx c).state = .assembling →
          t.ctx c = { (s.ctx c).addFlag .deliveryDeadline with delRunning := false, deliveryPending := true }
          ∧ s.counted t .lateAccumulations 1)
      ∧ ((s.ctx c).state = .accumulated ∨ (s.ctx c).state = .merging →
          (t.ctx c).state = .done ∨ (t.ctx c).state = .free))
    ∧ ((s.ctx c).asmRunning = false → exec (.assemblyDeadline c) s = .next s)
    ∧ ((s.ctx c).delRunning = false → exec (.deliveryDeadline c) s = .next s)

/-- The checks and the classification of a frame on TI (R63, R65, R66, R183). The request in execution keeps its place in the queue until it is answered, as the table of section 11.9 shows. -/
def Obligations.TrunkFrameIsCheckedAndClassified : Prop :=
  ∀ (s : State) (f : List Byte), s.trunk.tiUp = true → ∃ t, exec (.tiFrameReceived f) s = .next t ∧
    (if lengthsHold f = false then s.counted t .lengthErrors 1 ∧ s.raised t .linkCrc ∧ t.mgmt = s.mgmt
    else if crc32Holds f = false then s.counted t .crcErrors 1 ∧ s.raised t .linkCrc ∧ t.mgmt = s.mgmt
    else (match frameKind f with
      | 1 => s.counted t .receivedPartial 1 ∧ (s.params.role = .head ∨ s.params.role = .solo →
          s.counted t .partialDiscarded 1 ∧ t.trunk = s.trunk ∧ t.frames = s.frames)
      | 2 => s.counted t .receivedRequest 1 ∧
          (frameDestination f = s.nodeNumber.toNat → s.counted t .consumedRequests 1
            ∧ (if 8 ≤ s.mgmt.queue.length + (if s.mgmt.executing.isSome = true then 1 else 0) then s.counted t .busy 1 ∧ t.mgmt = s.mgmt
                  ∧ t.trunk = (s.respond ⟨framePayload f⟩ .busy none []).trunk
              else t.mgmt = { s.mgmt with queue := s.mgmt.queue ++ [⟨framePayload f⟩] } ∧ t.trunk = s.trunk))
          ∧ (frameDestination f = 15 → s.counted t .forwarded 1 ∧ s.counted t .consumedRequests 1
            ∧ (s.mgmt.queue.length + (if s.mgmt.executing.isSome = true then 1 else 0) < 8 → t.mgmt = { s.mgmt with queue := s.mgmt.queue ++ [⟨framePayload f⟩] }
              ∧ t.trunk = (s.placeControl ⟨f, false⟩).trunk))
          ∧ (frameDestination f ≠ s.nodeNumber.toNat → frameDestination f ≠ 15 → s.counted t .forwarded 1
            ∧ t.mgmt = s.mgmt ∧ t.trunk = (s.placeControl ⟨f, false⟩).trunk)
      | 3 => s.counted t .receivedResponse 1 ∧ s.counted t .forwarded 1 ∧ t.mgmt = s.mgmt
          ∧ t.trunk = (s.placeControl ⟨f, false⟩).trunk
      | 4 => s.counted t .receivedEvent 1 ∧ s.counted t .forwarded 1 ∧ t.mgmt = s.mgmt
          ∧ t.trunk = (s.placeControl ⟨f, false⟩).trunk
      | _ => s.counted t .unknownKind 1 ∧ t.mgmt = s.mgmt ∧ t.trunk = s.trunk))

/-- Arrival of a segment (R78, R79, R80) with the resolution of its tag (R25). -/
def Obligations.SegmentsAreStoredDiscardedOrPassed : Prop :=
  ∀ (s : State) (f : List Byte) (g : Segment), s.trunk.tiUp = true → lengthsHold f = true → crc32Holds f = true →
    frameKind f = 1 → (s.params.role = .middle ∨ s.params.role = .tail) → g = Segment.decode (framePayload f) →
    ∃ t, exec (.tiFrameReceived f) s = .next t ∧ s.counted t .receivedPartial 1 ∧
      (if formsSegment (framePayload f) = false then
        s.counted t .malformedSegments 1 ∧ t.frames = s.frames ∧ t.trunk = s.trunk
      else if s.shapeAgrees g = false then s.counted t .mismatchedSegments 1 ∧ t.frames = s.frames ∧ t.trunk = s.trunk
      else (match s.ctxOfTag? g.tag with
        | some c =>
          if (s.ctx c).state = .done then s.counted t .lateSegments 1 ∧ s.raised t .lateInput ∧ t.frames = s.frames
          else if (s.ctx c).slots.get g.index ≠ .empty then
            s.counted t .duplicateSegments 1 ∧ t.frames = s.frames ∧ t.trunk = s.trunk
          else ((s.ctx c).state = .assembling →
            s.counted t .storedSegments 1 ∧ t.trunk = s.trunk ∧ t.ctx c.other = s.ctx c.other
            ∧ t.ctx c = { s.ctx c with slots := (s.ctx c).slots.set g.index (.stored g),
                                       storedOrder := (s.ctx c).storedOrder ++ [g.index] })
        | none =>
          (tagNewerThan g.tag s.frames.newestOpened = false →
            s.counted t .lateSegments 1 ∧ s.raised t .lateInput ∧ t.frames = s.frames)
          ∧ (tagNewerThan g.tag s.frames.newestOpened = true → s.hasMatrix g.tag = false →
            s.counted t .passedThrough 1 ∧ t.frames = s.frames ∧ t.trunk = (s.placeRealtime f).trunk)))

/-- Merging one segment (R82) and where it goes (R80, R85); the bounds are those of R53. That a PARTIAL frame has the own number as source and 15 as destination is read from R61 and R62 by inference (log entry 34). A forced merge (R87, with R84), as a delivery deadline (R35) brings it about. -/
def Obligations.MergeTakesTheFirstCase : Prop :=
  (∀ (s : State) (c : Ix) (g m : Segment), m = s.mergedSegment (s.ctx c) g →
    (m.tag = g.tag ∧ m.index = g.index ∧ m.count = g.count ∧ m.first = g.first ∧ m.actuators = g.actuators
      ∧ m.label = g.label ∧ m.scale = g.scale ∧ g.flags &&& m.flags = g.flags)
    ∧ (if (s.ctx c).isCorrupt = true then m.sums = g.sums ∧ m.mask = g.mask ∧ hasSegFlag m.flags .corrupt = true
      else if g.mask &&& ownBit s.nodeNumber ≠ 0 then
        m.sums = g.sums ∧ m.mask = g.mask ∧ hasSegFlag m.flags .mixed = true ∧ s.counted (s.mergeOne c g) .ownBitPresent 1
      else if g.label ≠ (s.ctx c).label ∨ g.scale ≠ (s.ctx c).scale then
        m.sums = g.sums ∧ m.mask = g.mask ∧ hasSegFlag m.flags .mixed = true ∧ s.counted (s.mergeOne c g) .mixedSegments 1
      else m.mask = g.mask ||| ownBit s.nodeNumber ∧ m.flags = g.flags ∧ s.counted (s.mergeOne c g) .contributingMerges 1
        ∧ ((∀ v ∈ g.sums, v.natAbs ≤ 70368744177664) →
          (∀ v ∈ s.localSums (s.ctx c) g.index, v.natAbs ≤ 8796093022208) →
          m.sums = List.zipWith (fun x y => x + y) g.sums (s.localSums (s.ctx c) g.index)))
    ∧ ((s.mergeOne c g).ctx c).state = .merging
    ∧ ((s.mergeOne c g).ctx c).frameMask = (s.ctx c).frameMask &&& m.mask
    ∧ ((s.mergeOne c g).ctx c).segFlags = (s.ctx c).segFlags ||| m.flags
    ∧ ((s.mergeOne c g).ctx c).slots.get g.index =
        .merged (if s.params.role = .tail ∨ s.params.role = .solo then some m else none)
    ∧ (s.mergeOne c g).trunk = (if s.params.role = .tail ∨ s.params.role = .solo then s.trunk
        else (s.placeRealtime (trunkFrame 1 s.nodeNumber.toNat 15 m.encode)).trunk))
  ∧ ∀ (s : State) (c : Ix) (made : Nat → Segment) (missing : List Nat), s.params.role = .middle ∨ s.params.role = .tail →
    (∀ i, made i = ⟨(s.ctx c).tag, i, segmentCount s.params.actuators, 512 * i, min 512 (s.params.actuators - 512 * i),
      if (s.ctx c).isCorrupt = true then 0 else ownBit s.nodeNumber, if (s.ctx c).isCorrupt = true then 5 else 1,
      (s.ctx c).label, (s.ctx c).scale, (List.range (min 512 (s.params.actuators - 512 * i))).map
        (fun k => if (s.ctx c).isCorrupt = true then 0 else (s.ctx c).sums.get (512 * i + k))⟩) →
    missing = (List.range (segmentCount s.params.actuators)).filter (fun i => (s.ctx c).slots.get i == .empty) →
    (∀ i, ((s.makeMissing c (List.range (segmentCount s.params.actuators))).ctx c).slots.get i =
      if i ∈ missing then .merged (if s.params.role = .tail then some (made i) else none) else (s.ctx c).slots.get i)
    ∧ ((s.ctx c).state = .accumulated ∨ (s.ctx c).state = .merging → (s.ctx c).delRunning = true →
      s.trunk.toUp = false → (s.ctx c).storedOrder.Nodup →
      (∀ i ∈ (s.ctx c).storedOrder, ∃ g, (s.ctx c).slots.get i = .stored g ∧ g.index = i) →
      s.trunk.realtime.length + (s.ctx c).storedOrder.length + missing.length ≤ 24 →
      ∃ t, exec (.deliveryDeadline c) s = .next t ∧ ((t.ctx c).state = .done ∨ (t.ctx c).state = .free)
      ∧ s.counted t .deliveryDeadlines 1
      ∧ t.counter .forcedSegments = (if missing = [] then s.counter .forcedSegments
          else min (s.counter .forcedSegments + missing.length) 4294967295)
      ∧ (s.params.role = .middle → t.trunk.realtime = s.trunk.realtime
          ++ (s.ctx c).storedOrder.filterMap (fun i => match (s.ctx c).slots.get i with
            | .stored g => some ⟨trunkFrame 1 s.nodeNumber.toNat 15 (s.mergedSegment (s.ctx c) g).encode, false⟩
            | _ => none)
          ++ missing.map (fun i => ⟨trunkFrame 1 s.nodeNumber.toNat 15 (made i).encode, false⟩))
      ∧ (s.params.role = .tail → t.trunk.realtime = s.trunk.realtime ∧ s.counted t .lateFrames 1
          ∧ s.counted t .lateByDeadline 1 ∧ t.lastApplied = s.lastApplied))

/-- Classification (R92), with the expected mask of R89 and R93. -/
def Obligations.FinishedFrameIsClassified : Prop :=
  (∀ (s : State) (c : Ix) (displaced : Bool),
    s.verdict c displaced =
      if (s.ctx c).hasFlag .deliveryDeadline = true then .lateByDeadline
      else if displaced = true then .lateByDisplacement
      else if (∃ l, s.lastApplied = some l ∧ tagNewer (s.ctx c).tag l = false) then .lateByTag
      else if (∃ g ∈ s.heldSegments c,
          g.mask ≠ (if s.params.role = .solo then ownBit s.nodeNumber else s.params.expectedMask)
          ∨ hasSegFlag g.flags .mixed = true ∨ hasSegFlag g.flags .corrupt = true
          ∨ hasSegFlag g.flags .upstreamMissing = true) then .incomplete
      else .good)
  ∧ ∀ s : State,
    (∀ v : Verdict, v = .lateByDeadline ∨ v = .lateByDisplacement ∨ v = .lateByTag →
      s.counted (s.countVerdict v) .lateFrames 1 ∧ s.raised (s.countVerdict v) .lateFrame
      ∧ s.countedIf (s.countVerdict v) (v == .lateByDeadline) .lateByDeadline
      ∧ s.countedIf (s.countVerdict v) (v == .lateByDisplacement) .lateByDisplacement
      ∧ s.countedIf (s.countVerdict v) (v == .lateByTag) .lateByTag)
    ∧ s.counted (s.countVerdict .incomplete) .incompleteFrames 1 ∧ s.raised (s.countVerdict .incomplete) .incompleteFrame
    ∧ s.counted (s.countVerdict .good) .goodFrames 1
    ∧ (∀ k : Counter, k ≠ .goodFrames → (s.countVerdict .good).counter k = s.counter k)
    ∧ ∀ p : Part, p ≠ .counters → p.same s (s.countVerdict .good)

/-- The rounding rule RN (00_scope.md section 5.3) and the residual (R95, R97). -/
def Obligations.ResidualIsTheNearestIntegerSaturated : Prop :=
  (∀ (x : Int) (b : Nat), 0 < b → 2 * (x - b * roundRN x b).natAbs ≤ b
      ∧ (2 * (x - b * roundRN x b).natAbs = b → x.natAbs < (b * roundRN x b).natAbs))
    ∧ (∀ (x : Int) (n : Nat), residual x n = max (-2147483648) (min 2147483647 (roundRN x (2 ^ n))))
    ∧ ∀ (s : State) (c : Ix) (sums : List Int), ∃ t, s.computeResiduals c sums = t
      ∧ (t.ctx c).residuals = sums.map (fun v => residual v (s.ctx c).scale)
      ∧ s.counted t .residualsComputed 1
      ∧ s.countedIf t (sums.any (fun v => residual v (s.ctx c).scale != roundRN v (2 ^ (s.ctx c).scale)))
          .residualSaturatedFrames
      ∧ (sums.any (fun v => residual v (s.ctx c).scale != roundRN v (2 ^ (s.ctx c).scale)) = true →
          (t.ctx c).hasFlag .residualSaturated = true)

/-- The integrator update (R104) with its bounds; the ACTIVE actuators below A are those of R103, the clamp and its count those of R105. -/
def Obligations.IntegratorUpdateOfAClosedFrame : Prop :=
  (∀ (s : State) (c : Ix), ∃ (t : State) (n : Nat), s.closedUpdate c = (t, n)
      ∧ (∀ j, t.tables.integrators.get j =
        if j < s.params.actuators ∧ s.tables.effective.get j = .active then
          clampInt ((s.actuator j).lo * 65536) ((s.actuator j).hi * 65536)
            (roundRN (s.tables.integrators.get j * (s.tables.gains.get (s.actuator j).profile).leak) 65536
              + 2 * (s.tables.gains.get (s.actuator j).profile).gain * (s.ctx c).residuals.getD j 0)
        else s.tables.integrators.get j)
      ∧ { t.tables with integrators := s.tables.integrators } = s.tables
      ∧ n = (List.range s.params.actuators).countP (fun j => s.tables.effective.get j == .active &&
        (t.tables.integrators.get j !=
          roundRN (s.tables.integrators.get j * (s.tables.gains.get (s.actuator j).profile).leak) 65536
            + 2 * (s.tables.gains.get (s.actuator j).profile).gain * (s.ctx c).residuals.getD j 0)))
    ∧ ∀ (x e : Int) (leak gain : Nat), x.natAbs ≤ 2147483648 → leak ≤ 65536 → gain ≤ 32768 → e.natAbs ≤ 2147483648 →
      (x * leak).natAbs ≤ 140737488355328 ∧ (roundRN (x * leak) 65536).natAbs ≤ 2147483648
      ∧ (2 * (gain : Int) * e).natAbs ≤ 140737488355328
      ∧ (roundRN (x * leak) 65536 + 2 * gain * e).natAbs < 281474976710656

/-- The effective class (R116) over the override ranges of R115. -/
def Obligations.EffectiveClassIsTheMostRestrictive : Prop :=
  ∀ (s : State) (j : Nat), j < 6144 →
    let e := s.recomputeClasses.tables.effective.get j
    (e = (s.actuator j).cls ∨ ∃ k, k < 8 ∧ (s.tables.overrides.get k).covers j = true ∧ e = (s.tables.overrides.get k).cls)
    ∧ (s.actuator j).cls.rank ≤ e.rank
    ∧ (∀ k, k < 8 → (s.tables.overrides.get k).enabled = true → (s.tables.overrides.get k).first ≤ j →
        j < (s.tables.overrides.get k).first + (s.tables.overrides.get k).count →
        (s.tables.overrides.get k).cls.rank ≤ e.rank)
    ∧ ActClass.active.rank < ActClass.slaved.rank ∧ ActClass.slaved.rank < ActClass.frozen.rank
    ∧ ActClass.frozen.rank < ActClass.dead.rank
    ∧ { s.recomputeClasses.tables with effective := s.tables.effective } = s.tables

/-- The final clamp (R129), the last outputs (R130) and the handing over of the COMMAND frame (R147, R148). -/
def Obligations.AppliedFrameCommandsWithinLimits : Prop :=
  ∀ (s : State) (c : Ix), s.Inv → ∃ (t : State) (n : Nat), s.pipeline c = (t, n)
    ∧ (t.ctx c).applied = true ∧ (t.ctx c).commands.length = s.params.actuators
    ∧ (∀ j, j < s.params.actuators →
        (t.actuator j).lo ≤ (t.ctx c).commands.getD j 0 ∧ (t.ctx c).commands.getD j 0 ≤ (t.actuator j).hi)
    ∧ (∀ j, t.tables.lastOutputs.get j =
        if j < s.params.actuators then (t.ctx c).commands.getD j 0 else s.tables.lastOutputs.get j)
    ∧ s.counted t .commandsBuilt 1
    ∧ (s.mirror.up = true → s.mirror.sending = none → t.mirror.sending =
        some ⟨.command, (s.ctx c).tag, commandFrame (s.ctx c).tag (t.ctx c).poke (t.ctx c).commands, true⟩)

/-- One pair of the neighbour pass (R128). That a SLAVED actuator without a slave record, which R125 treats as FROZEN for the frame, moves in the pass is read from R128 by inference (log entry 41). -/
def Obligations.NeighbourPairIsBroughtToTheLimit : Prop :=
  ∀ (t : Tables) (n dMax : Nat) (p : Pass) (x y : Nat), p.values.length = n →
    ∃ q, Pass.pair t n dMax p (x, y) = q ∧
      (if n ≤ x ∨ n ≤ y then q = { p with outOfRange := p.outOfRange + 1 }
      else if t.effective.get x = .dead ∨ t.effective.get y = .dead then q = { p with dead := p.dead + 1 }
      else if (p.value x - p.value y).natAbs ≤ dMax then q = p
      else if (t.effective.get x).movable = false ∧ (t.effective.get y).movable = false then
        q = { p with unresolved := p.unresolved + 1 }
      else (q.value x - q.value y).natAbs = dMax ∧ q.limited = p.limited + 1
        ∧ (∀ j, j ≠ x → j ≠ y → q.value j = p.value j)
        ∧ ((t.effective.get x).movable = false → q.value x = p.value x)
        ∧ ((t.effective.get y).movable = false → q.value y = p.value y)
        ∧ ((t.effective.get x).movable = true → (t.effective.get y).movable = true →
          (p.value y < p.value x →
            q.value x = p.value x - ceilDiv ((p.value x - p.value y).natAbs - dMax) 2
            ∧ q.value y = p.value y + (((p.value x - p.value y).natAbs - dMax) / 2 : Nat))
          ∧ (p.value x < p.value y →
            q.value y = p.value y - ceilDiv ((p.value x - p.value y).natAbs - dMax) 2
            ∧ q.value x = p.value x + (((p.value x - p.value y).natAbs - dMax) / 2 : Nat)))
        ∧ min (p.value x) (p.value y) ≤ q.value x ∧ q.value x ≤ max (p.value x) (p.value y)
        ∧ min (p.value x) (p.value y) ≤ q.value y ∧ q.value y ≤ max (p.value x) (p.value y))

/-- Steps 2 to 5 of the pipeline (R122 to R125) with the choice of the slave record (R117). -/
def Obligations.ClassesGiveTheirValues : Prop :=
  ∀ (t : Tables) (n j : Nat) (closed : Bool),
    (t.effective.get j = .active → t.stepValue n closed j = if closed then roundRN (t.integrators.get j) 65536
      else clampInt (t.actuators.get j).lo (t.actuators.get j).hi (t.openShape.get j))
    ∧ (t.effective.get j = .frozen → t.stepValue n closed j = t.lastOutputs.get j)
    ∧ (t.effective.get j = .dead → t.stepValue n closed j = (t.actuators.get j).park)
    ∧ (t.effective.get j = .slaved →
      (∀ k, k < 512 → (t.slaves.get k).masters ≠ [] → (t.slaves.get k).slave = j →
        (∀ i, i < k → (t.slaves.get i).masters = [] ∨ (t.slaves.get i).slave ≠ j) →
        ∀ ms, ms = (t.slaves.get k).masters.filter
            (fun m => m < n && (t.effective.get m == .active || t.effective.get m == .frozen)) →
        t.stepValue n closed j = if ms = [] then (t.actuators.get j).park
          else clampInt (t.actuators.get j).lo (t.actuators.get j).hi
            (roundRN (ms.map (t.stepValue n closed)).sum ms.length))
      ∧ ((∀ k, k < 512 → (t.slaves.get k).masters = [] ∨ (t.slaves.get k).slave ≠ j) →
        t.stepValue n closed j = t.lastOutputs.get j))

/-- The bad-frame detector (R141), whole: its table, its other zeroings, its range and its trip. Beside it the saturation detector of R142, for a frame reported with a clamp count (what the clamp count is: IntegratorUpdateOfAClosedFrame). -/
def Obligations.BadFrameCounterFollowsTheTable : Prop :=
  (∀ (s : State) (clamps : Nat), s.loop.state = .closed →
      (s.report true false clamps).loop.badFrames = min (s.loop.badFrames + 1) 255
      ∧ (if s.params.kBad ≤ min (s.loop.badFrames + 1) 255 then
          (s.report true false clamps).loop.state = .safe
          ∧ (s.loop.snapshotState ≠ .held → ∃ n, (s.report true false clamps).loop.snapshot = some n
              ∧ n.cause = .badFrames ∧ n.badFrames = min (s.loop.badFrames + 1) 255)
        else (s.report true false clamps).loop.state = .closed))
    ∧ (∀ (s : State) (clamps : Nat), s.loop.state ≠ .closed →
      (s.report true false clamps).loop.badFrames = s.loop.badFrames
      ∧ (s.report true false clamps).loop.state = s.loop.state)
    ∧ (∀ (s : State) (clamps : Nat), (s.report false true clamps).loop.badFrames = 0)
    ∧ (∀ (s : State) (clamps : Nat), (s.report false false clamps).loop.badFrames = s.loop.badFrames)
    ∧ (∀ (s : State) (r : Request), s.oldest? .loopClose = some r → s.isTail = true → r.body = [] →
      (s.loop.state = .opened ∨ s.loop.state = .held) → s.loopReady = true → ∃ t, exec .loopClose s = .next t ∧ t.loop.badFrames = 0 ∧ t.loop.satRun = 0)
    ∧ (∀ (s : State) (n : BitVec 3), ∃ t, exec (.powerOnReset n) s = .next t ∧ t.loop.badFrames = 0 ∧ t.loop.satRun = 0)
    ∧ (∀ s : State, s.mgmt.reset = .due → ∃ t, exec .nodeResetBegin s = .next t ∧ t.loop.badFrames = 0
      ∧ t.loop.satRun = 0)
    ∧ (∀ s : State, s.Inv → s.loop.badFrames ≤ 255 ∧ s.loop.satRun ≤ 1000)
    ∧ (∀ (s : State) (clamps : Nat), s.loop.state = .closed →
      (s.report false true clamps).loop.satRun = (if s.params.saturationLimit < clamps then min (s.loop.satRun + 1) 1000 else 0)
      ∧ (if s.params.saturationLimit < clamps ∧ s.params.saturationFrames ≤ min (s.loop.satRun + 1) 1000 then
          (s.report false true clamps).loop.state = .safe
          ∧ (s.loop.snapshotState ≠ .held → ∃ n, (s.report false true clamps).loop.snapshot = some n
              ∧ n.cause = .saturation ∧ n.satRun = min (s.loop.satRun + 1) 1000 ∧ n.lastClampCount = clamps)
        else (s.report false true clamps).loop.state = .closed))
    ∧ (∀ (s : State) (clamps : Nat), s.loop.state ≠ .closed →
      (s.report false true clamps).loop.satRun = 0 ∧ (s.report false true clamps).loop.state = s.loop.state)
    ∧ ∀ (s : State) (bad : Bool) (clamps : Nat), (s.report bad false clamps).loop.satRun = s.loop.satRun

/-- The entry to SAFE (R144) with its snapshot (R153), the abort of the Poke Engine (R161), and the first SHAPE frame (R149). -/
def Obligations.EntryToSafeTakesItsSteps : Prop :=
  ∀ (s : State) (cause : SafeCause),
    (s.loop.state = .off ∨ s.loop.state = .safe → s.enterSafe cause = s)
    ∧ (s.loop.state ≠ .off → s.loop.state ≠ .safe → ∃ t, s.enterSafe cause = t ∧ t.loop.state = .safe ∧ t.safeOut = true
      ∧ t.isPending .loopSafe = true ∧ s.counted t .safeEntries 1 ∧ t.poke = none ∧ t.mgmt.actuatorQueue = []
      ∧ t.loop.starvation = none ∧ t.loop.parkRefresh = some s.now ∧ t.mirror.shapeNumber = s.mirror.shapeNumber + 1
      ∧ (∀ j, j < s.params.actuators → t.tables.lastOutputs.get j = (t.actuator j).park)
      ∧ t.loop.snapshotState = .held
      ∧ t.loop.snapshot = (if s.loop.snapshotState = .held then s.loop.snapshot else some (s.takeSnapshot cause))
      ∧ t.loop.badFrames = s.loop.badFrames ∧ t.loop.satRun = s.loop.satRun
      ∧ (s.mirror.up = true → s.mirror.sending = none → t.mirror.sending =
          some ⟨.shape, s.mirror.shapeNumber + 1, shapeFrame (s.mirror.shapeNumber + 1) t.parks, true⟩))

/-- The loss of the mirror link (R152) by its link (R147) and by missed echoes (R150). That ECHO_ENTRY_EXPIRY removes the entry whose expiry comes first, whatever the timebase stands at, is the model's choice (log entry 14). -/
def Obligations.MirrorLossEntersSafe : Prop :=
  ∀ s : State, s.loop.state.applies = true → s.isPending .mirrorLinkLost = false →
    (s.mirror.up = true → ∃ t, exec .mlLinkDown s = .next t ∧ t.mirror.up = false ∧ t.mirror.sending = none
      ∧ t.mirror.waiting = none ∧ s.counted t .mlLinkDown 1 ∧ t.isPending .mirrorLinkLost = true
      ∧ s.counted t .mirrorLinkLost 1 ∧ t.loop.state = .safe)
    ∧ ∀ (e : EchoEntry) (rest : List EchoEntry), takeSoonest s.now EchoEntry.expiry s.mirror.echoes = some (e, rest) →
      ∃ t, exec .echoEntryExpiry s = .next t ∧ t.mirror.echoes = rest ∧ s.counted t .missedEchoes 1
      ∧ t.mirror.misses = min (s.mirror.misses + 1) 64
      ∧ (if s.params.echoMissLimit ≤ min (s.mirror.misses + 1) 64 then
          t.isPending .mirrorLinkLost = true ∧ s.counted t .mirrorLinkLost 1 ∧ t.loop.state = .safe
        else t.loop.state = s.loop.state ∧ t.counter .mirrorLinkLost = s.counter .mirrorLinkLost)

/-- The two timers of the Loop Supervisor (R143, R145). The timebase is brought to the moment of expiry by the model's choice (log entry 14). -/
def Obligations.ParkRefreshAndStarvationTimers : Prop :=
  ∀ s : State,
    (∀ u, s.loop.state = .safe → s.loop.parkRefresh = some u → ∃ t, exec .parkRefreshExpiry s = .next t
      ∧ t.now = (if hasReached s.now (after u 10000) = true then s.now else after u 10000)
      ∧ t.mirror.shapeNumber = s.mirror.shapeNumber + 1 ∧ t.loop.parkRefresh = some t.now ∧ t.loop.state = .safe
      ∧ (∀ j, j < s.params.actuators → t.tables.lastOutputs.get j = (s.actuator j).park)
      ∧ (s.mirror.up = true → s.mirror.sending = none → t.mirror.sending =
          some ⟨.shape, s.mirror.shapeNumber + 1, shapeFrame (s.mirror.shapeNumber + 1) s.parks, true⟩))
    ∧ (∀ u, s.loop.state.applies = true → s.loop.starvation = some u → ∃ t, exec .starvationExpiry s = .next t
      ∧ t.now = (if hasReached s.now (after u (1000 * s.params.starvationInterval)) = true then s.now
          else after u (1000 * s.params.starvationInterval))
      ∧ t.loop.state = .held ∧ t.loop.starvation = none ∧ s.counted t .starvationHolds 1 ∧ s.raised t .starvationHold
      ∧ t.mgmt.actuatorQueue = [] ∧ t.safeOut = s.safeOut ∧ t.loop.snapshot = s.loop.snapshot ∧ t.poke = s.poke
      ∧ t.mirror = s.mirror)
    ∧ (s.loop.state ≠ .safe ∨ s.loop.parkRefresh = none → exec .parkRefreshExpiry s = .next s)
    ∧ (s.loop.state.applies = false ∨ s.loop.starvation = none → exec .starvationExpiry s = .next s)

/-- The slots of the ML transmitter (R147), the outstanding-echo list (R150), and what a NODE RESET takes away (R155). That a role that is no longer a tail's takes the entry of a frame being sent away as a NODE RESET does is log entry 38. -/
def Obligations.MirrorSendsAndHandovers : Prop :=
  (∀ (s : State) (f : MlFrame), s.mirror.sending = some f →
      (s.mirror.echoes.length < 4 ∨ f.makesEntry = false ∨ s.loop.state.applies = false ∨ s.isTail = false) →
      ∃ t, exec .mlSendEnd s = .next t ∧ t.mirror.sending = s.mirror.waiting ∧ t.mirror.waiting = none
      ∧ s.countedIf t (f.kind == .command) .commandSent ∧ s.countedIf t (f.kind == .shape) .shapeSent
      ∧ t.mirror.echoes = (if f.makesEntry = true ∧ s.isTail = true then
          (if s.mirror.echoes.length < 4 then s.mirror.echoes else s.mirror.echoes.drop 1)
            ++ [⟨f.kind, f.number, after s.now s.params.echoTimeout⟩] else s.mirror.echoes)
      ∧ s.countedIf t (f.makesEntry && s.isTail && 4 ≤ s.mirror.echoes.length) .missedEchoes)
    ∧ ∀ (s : State) (f : MlFrame),
      (s.mirror.up = true → s.mirror.sending = none →
        s.handToMirror f = { s with mirror := { s.mirror with sending := some f } })
      ∧ (s.mirror.up = true → s.mirror.sending ≠ none →
        (s.handToMirror f).mirror = { s.mirror with waiting := some f }
        ∧ s.countedIf (s.handToMirror f) s.mirror.waiting.isSome .superseded)
      ∧ (s.mirror.up = false → (s.handToMirror f).mirror = s.mirror ∧ s.counted (s.handToMirror f) .unsent 1)

/-- The cases of an echo (R151), and an expiry outside OPEN and CLOSED (R150). That ECHO_ENTRY_EXPIRY removes the entry whose expiry comes first, whatever the timebase stands at, is the model's choice (log entry 14). -/
def Obligations.EchoTakesTheFirstCase : Prop :=
  ∀ s : State,
    (s.mirror.up = true → ∀ f : List Byte, ∃ t, exec (.echoReceived f) s = .next t ∧
      (if echoHolds f = false then s.counted t .echoErrors 1 ∧ t.mirror = s.mirror ∧ t.loop = s.loop
      else if (∀ e ∈ s.mirror.echoes, e.answersTo (fieldAt f 4 1) (BitVec.ofNat 16 (fieldAt f 2 2)) = false) then
        s.counted t .unknownEchoes 1 ∧ t.mirror = s.mirror ∧ t.loop = s.loop
      else t.mirror.echoes.length + 1 = s.mirror.echoes.length
        ∧ (∃ (pre post : List EchoEntry) (e : EchoEntry), s.mirror.echoes = pre ++ e :: post
          ∧ e.answersTo (fieldAt f 4 1) (BitVec.ofNat 16 (fieldAt f 2 2)) = true
          ∧ (∀ x ∈ pre, x.answersTo (fieldAt f 4 1) (BitVec.ofNat 16 (fieldAt f 2 2)) = false)
          ∧ t.mirror.echoes = pre ++ post)
        ∧ (if fieldAt f 5 1 = 0 then t.mirror.misses = 0 ∧ s.counted t .echoesOk 1 ∧ t.loop = s.loop
          else t.mirror.lastDriverStatus = some (fieldAt f 5 1) ∧ s.counted t .driverFaults 1
            ∧ t.isPending .driverFault = true ∧ t.mirror.misses = s.mirror.misses
            ∧ t.loop.state = (if s.isPending .driverFault = false ∧ s.loop.state.entersSafe = true then .safe
                else s.loop.state))))
    ∧ (s.loop.state.applies = false → ∀ (e : EchoEntry) (rest : List EchoEntry),
      takeSoonest s.now EchoEntry.expiry s.mirror.echoes = some (e, rest) →
      ∃ t, exec .echoEntryExpiry s = .next t ∧ t.mirror.echoes = rest ∧ s.counted t .missedEchoes 1
      ∧ t.mirror.misses = min (s.mirror.misses + 1) 64 ∧ t.loop = s.loop)

/-- The arrival of a fetched poke record (R162), corrected where R39 corrects, and its discarding by an IDLE engine (R159). That an awaited current record is prefetched no longer once its copy has come is log entry 30. -/
def Obligations.PokeFetchArrivalIsJudged : Prop :=
  ∀ (s : State) (ks : List Strike) (b : Burst), s.arbiter.inProgress = some b → b.job.isPoke = true →
    (s.poke = none → ∃ t, exec (.pokeRecordFetchArrival ks) s = .next t ∧ t.poke = none ∧ t.counters = s.counters)
    ∧ (∀ e : PokeRun, s.poke = some e → b.dropped = false →
      ∃ t, exec (.pokeRecordFetchArrival ks) s = .next t ∧ s.corrects t ks b ∧
        (if (∃ k ∈ codewordsOf b.address b.length, (s.strike ks).dram.errors.get k = .double) then
          t.poke = none ∧ s.counted t .uncorrectablePoke 1 ∧ s.counted t .pokeFaults 1 ∧ s.raised t .pokeFault
        else (match PokeRecord.decode? (s.dramBytes b.address b.length) with
          | none => t.poke = none ∧ s.counted t .illFormedRecords 1 ∧ s.counted t .pokeFaults 1 ∧ s.raised t .pokeFault
          | some rec => t.counters = (s.corrected ks b).counters ∧ t.events = (s.corrected ks b).events ∧
            (if e.copy = none then t.poke = some { e with copy := some rec, remaining := rec.dwell, prefetched := none }
            else t.poke = some { e with prefetched := e.prefetched.map (fun f => (f.1, some rec)) }))))

/-- The walk of a chain (R163, R164) with the marks of R166. That the next record is the current one, its copy awaited, as soon as its fetch is placed, and is shown as the prefetched one as well, is read from R164 and section 9.8 by inference (log entry 30). -/
def Obligations.PokeEngineWalksItsChain : Prop :=
  ∀ s : State, ∃ t, s.pokeStep.2.2 = t ∧
    (match s.poke with
    | none => s.pokeStep.1 = [] ∧ s.pokeStep.2.1 = .idle ∧ t = s
    | some e =>
      (match e.copy with
      | none => s.pokeStep.1 = [] ∧ s.pokeStep.2.1 = .active e.current .push true ∧ t.poke = s.poke
          ∧ s.counted t .withheldFrames 1
      | some rec =>
        s.pokeStep.1 = rec.entries.map (fun x => (x.1, if e.phase = .pull then -x.2 else x.2))
        ∧ s.pokeStep.2.1 = .active e.current e.phase false
        ∧ (if 1 < e.remaining then t.poke = some { e with remaining := e.remaining - 1 } ∧ t.counters = s.counters
          else if rec.pushPull = true ∧ e.phase = .push then
            t.poke = some { e with phase := .pull, remaining := rec.dwell } ∧ t.counters = s.counters
          else s.counted t .recordsCompleted 1 ∧
            (match rec.next with
            | none => t.poke = none ∧ s.counted t .sequencesDone 1 ∧ s.raised t .pokeDone
            | some r => ∃ n, t.poke = some n ∧ n.current = r ∧ n.phase = .push
                ∧ (e.prefetched = none → n.copy = none ∧ n.prefetched = some (r, none) ∧ ∃ b : Burst,
                  b.job = .pokeFetch r ∧ b.address = 469762048 + 128 * r ∧ b.length = 128
                  ∧ (b ∈ t.arbiter.pokeFetch ∨ t.arbiter.inProgress = some b))))))

/-- The end of a LOAD COLUMN (R45) and the coverage map (R40). -/
def Obligations.LoadColumnWriteEndMarksAndAnswers : Prop :=
  ∀ (s : State) (e : Execution) (b : Burst) (k : Ix) (i g n : Nat), s.mgmt.executing = some e →
    e.transfer = .loadColumn k i g n → g + n ≤ 12 → s.arbiter.inProgress = some b → b.job = .loadColumn → b.last = true →
    b.dropped = false → b.data ≠ [] →
    ∃ t, exec .loadColumnWriteEnd s = .next t
      ∧ (∀ x, x < b.data.length → t.dram.memory.read? (b.address + x) = b.data[x]?)
      ∧ (∀ w ∈ codewordsOf b.address b.data.length, t.dram.errors.get w = .clean)
      ∧ (∀ c m, m < 12 → (t.bank k).covered c m = ((s.bank k).covered c m || (c == i && g ≤ m && m < g + n)))
      ∧ (t.bank k.other).coverage = (s.bank k.other).coverage
      ∧ s.counted t .loadsWritten 1 ∧ t.mgmt.executing = none ∧ t.trunk = (s.respond e.request .done none []).trunk

/-- The end of a matrix readback (R51) and of poke records of a request (R158), with the corrections of R39. That the codewords are checked before the answer is made is log entry 22. -/
def Obligations.ReadBurstEndsAnswerTheirBytes : Prop :=
  ∀ (s : State) (ks : List Strike) (e : Execution) (b : Burst), s.mgmt.executing = some e →
    s.arbiter.inProgress = some b → b.last = true → b.dropped = false →
    (b.job = .readback → ∃ t, exec (.readbackBurstEnd ks) s = .next t ∧ t.mgmt.executing = none ∧ s.corrects t ks b ∧
      (if (∃ k ∈ codewordsOf b.address b.length, (s.strike ks).dram.errors.get k = .double) then
        t.trunk = ((s.corrected ks b).respond e.request .mediaError none []).trunk ∧ s.counted t .uncorrectableReadback 1
        ∧ t.counter .readbacks = s.counter .readbacks
      else t.trunk = ((s.corrected ks b).respond e.request .done none (leBytes 1 1 ++ leBytes 1 0
            ++ leBytes 2 (b.length / 2) ++ s.dramBytes b.address b.length)).trunk
        ∧ s.counted t .readbacks 1))
    ∧ (b.job = .pokeRecordWrite → e.transfer = .pokeWrite → b.data ≠ [] →
      ∃ t, exec (.pokeRecordsTransferEnd ks) s = .next t ∧ t.mgmt.executing = none
      ∧ (∀ x, x < b.data.length → t.dram.memory.read? (b.address + x) = b.data[x]?)
      ∧ t.trunk = (s.respond e.request .done none []).trunk)
    ∧ ∀ data : List Byte, b.job = .pokeRecordRead → e.transfer = .pokeRead data →
      ∃ t, exec (.pokeRecordsTransferEnd ks) s = .next t ∧ t.mgmt.executing = none ∧ s.corrects t ks b ∧
      (if (∃ k ∈ codewordsOf b.address b.length, (s.strike ks).dram.errors.get k = .double) then
        t.trunk = ((s.corrected ks b).respond e.request .mediaError none []).trunk ∧ s.counted t .recordReadbackErrors 1
      else t.trunk = ((s.corrected ks b).respond e.request .done none (data ++ s.dramBytes b.address b.length)).trunk
        ∧ t.counters = ((s.corrected ks b).respond e.request .done none (data ++ s.dramBytes b.address b.length)).counters)

/-- Commit (R174, R175, R177) and the end of a read (R178, R179) with the corrections of R39. That no burst of a read spans two records, and that the records before a failing one count as read, is log entry 31. -/
def Obligations.TelemetryCommitAndReadEnd : Prop :=
  ∀ s : State,
    (∀ (w : RecordWrite) (b : Burst), s.telemetry.inFlight = some w → s.arbiter.inProgress = some b →
      b.job = .telemetryWrite → b.last = true → b.dropped = false → b.data ≠ [] →
      ∃ t, exec .telemetryRecordCommit s = .next t
      ∧ (∀ x, x < b.data.length → t.dram.memory.read? (b.address + x) = b.data[x]?)
      ∧ s.counted t .recordsWritten 1 ∧ t.telemetry.inFlight = none
      ∧ t.telemetry.writePos = s.telemetry.config.ringStart
          + (s.telemetry.writePos - s.telemetry.config.ringStart + w.units) % s.telemetry.ringSize
      ∧ (t.ctx w.ctx).state = .free
      ∧ (s.telemetry.config.fullMode = .stop → t.telemetry.lengths = s.telemetry.lengths ++ [w.units]
          ∧ t.telemetry.readPos = s.telemetry.readPos ∧ t.counter .overwritten = s.counter .overwritten)
      ∧ (s.telemetry.config.fullMode = .wrap → s.telemetry.config.ringStart + 2562 ≤ s.telemetry.config.ringEnd →
          w.units ≤ 1281 → ∃ n, n ≤ s.telemetry.lengths.length
          ∧ t.telemetry.lengths = (s.telemetry.lengths ++ [w.units]).drop n
          ∧ 1281 ≤ s.telemetry.ringSize - t.telemetry.lengths.sum
          ∧ (∀ m, m < n → s.telemetry.ringSize - ((s.telemetry.lengths ++ [w.units]).drop m).sum < 1281)
          ∧ t.telemetry.readPos = (if n = 0 then s.telemetry.readPos else s.telemetry.config.ringStart
            + (s.telemetry.readPos - s.telemetry.config.ringStart + (s.telemetry.lengths.take n).sum) % s.telemetry.ringSize)
          ∧ t.counter .overwritten = (if n = 0 then s.counter .overwritten
            else min (s.counter .overwritten + n) 4294967295))
      ∧ (s.telemetry.state = .triggered → s.telemetry.remaining ≤ 1 →
          t.telemetry.state = .frozen ∧ t.telemetry.remaining = 0 ∧ s.raised t .telemetryTriggered)
      ∧ (s.telemetry.state = .triggered → 1 < s.telemetry.remaining →
          t.telemetry.state = .triggered ∧ t.telemetry.remaining = s.telemetry.remaining - 1)
      ∧ (s.telemetry.state ≠ .triggered →
          t.telemetry.state = s.telemetry.state ∧ t.telemetry.remaining = s.telemetry.remaining))
    ∧ ∀ (ks : List Strike) (e : Execution) (chosen : List ChosenRecord) (b : Burst) (u : Nat),
      s.mgmt.executing = some e → e.transfer = .readTelemetry chosen → s.arbiter.inProgress = some b →
      b.job = .telemetryRead u → b.last = true → b.dropped = false →
      ∃ t, exec (.telemetryReadEnd ks) s = .next t ∧ t.mgmt.executing = none ∧ s.corrects t ks b ∧
      (if (∃ k ∈ codewordsOf b.address b.length, (s.strike ks).dram.errors.get k = .double) then
        ∀ before, before = chosen.takeWhile (fun k => k.unit != u) →
        t.trunk = ((s.corrected ks b).respond e.request .mediaError none
          (leBytes 2 before.length ++ leBytes 2 0 ++ before.flatMap ChosenRecord.data)).trunk
        ∧ t.telemetry.lengths = s.telemetry.lengths.drop (before.length + 1)
        ∧ t.telemetry.readPos = s.telemetry.config.ringStart + (s.telemetry.readPos - s.telemetry.config.ringStart
            + (s.telemetry.lengths.take (before.length + 1)).sum) % s.telemetry.ringSize
        ∧ s.counted t .recordsRead before.length ∧ s.counted t .mediaDiscarded 1 ∧ s.counted t .uncorrectableTelemetry 1
      else t.trunk = ((s.corrected ks b).respond e.request .done none (leBytes 2 chosen.length ++ leBytes 2 0
          ++ chosen.flatMap (fun k => if k.unit = u then k.data ++ s.dramBytes b.address b.length else k.data))).trunk
        ∧ t.telemetry.lengths = s.telemetry.lengths.drop chosen.length
        ∧ t.telemetry.readPos = s.telemetry.config.ringStart + (s.telemetry.readPos - s.telemetry.config.ringStart
            + (s.telemetry.lengths.take chosen.length).sum) % s.telemetry.ringSize
        ∧ s.counted t .recordsRead chosen.length)

/-- A burst in the middle of its work (R45, R158, R174, R178) or given up (R57), with the corrections of R39, and the grant that follows (R58). That the check comes first is log entry 22, that a read given up is still checked and counted log entry 21, that a failing read of poke records ends at once log entry 43, and that no burst of a READ TELEMETRY spans two records log entry 31. -/
def Obligations.OtherBurstsCompleteAndTheNextIsGranted : Prop :=
  ∀ (s : State) (ks : List Strike) (b : Burst), s.arbiter.inProgress = some b →
    let bytes := s.dramBytes b.address b.length
    let fails := ∃ k ∈ codewordsOf b.address b.length, (s.strike ks).dram.errors.get k = .double
    let held := fun t : State => t.mgmt.executing.map (fun e => (e.request, e.transfer))
    ((b.job = .telemetryWrite ∨ b.job = .loadColumn ∨ b.job = .pokeRecordWrite) → b.last = false ∨ b.dropped = true →
      b.data ≠ [] → (b.job = .pokeRecordWrite → b.dropped = false → ∃ e, s.mgmt.executing = some e ∧ e.transfer = .pokeWrite) →
      ∃ t, exec (.dramBurstComplete ks) s = .next t
      ∧ (∀ x, x < b.data.length → t.dram.memory.read? (b.address + x) = b.data[x]?)
      ∧ t.trunk = s.trunk ∧ t.frames = s.frames ∧ t.counters = s.counters ∧ t.mgmt.queue = s.mgmt.queue ∧ held t = held s
      ∧ t.arbiter = s.arbiter.completed)
    ∧ (∀ (e : Execution) (data : List Byte), b.job = .pokeRecordRead → b.last = false → b.dropped = false →
      s.mgmt.executing = some e → e.transfer = .pokeRead data →
      ∃ t, exec (.dramBurstComplete ks) s = .next t ∧ s.corrects t ks b ∧ t.mgmt.queue = s.mgmt.queue ∧
      (if fails then
        t.mgmt.executing = none ∧ t.trunk = ((s.corrected ks b).respond e.request .mediaError none []).trunk
        ∧ s.counted t .recordReadbackErrors 1 ∧ ∀ x ∈ t.arbiter.management, x.job ≠ .pokeRecordRead
      else held t = some (e.request, .pokeRead (data ++ bytes)) ∧ t.trunk = (s.corrected ks b).trunk
        ∧ t.arbiter = s.arbiter.completed))
    ∧ (∀ (e : Execution) (chosen : List ChosenRecord) (u : Nat), b.job = .telemetryRead u → b.last = false → b.dropped = false →
      s.mgmt.executing = some e → e.transfer = .readTelemetry chosen →
      ∃ t, exec (.dramBurstComplete ks) s = .next t ∧ s.corrects t ks b ∧ t.mgmt.queue = s.mgmt.queue ∧
      (if fails then
        t.mgmt.executing = none ∧ ∀ before, before = chosen.takeWhile (fun k => k.unit != u) →
        t.trunk = ((s.corrected ks b).respond e.request .mediaError none
          (leBytes 2 before.length ++ leBytes 2 0 ++ before.flatMap ChosenRecord.data)).trunk
        ∧ t.telemetry.lengths = s.telemetry.lengths.drop (before.length + 1)
        ∧ s.counted t .recordsRead before.length ∧ s.counted t .mediaDiscarded 1 ∧ s.counted t .uncorrectableTelemetry 1
      else held t = some (e.request, .readTelemetry
          (chosen.map (fun k => if k.unit = u then { k with data := k.data ++ bytes } else k)))
        ∧ t.trunk = (s.corrected ks b).trunk ∧ t.telemetry.lengths = s.telemetry.lengths
        ∧ t.arbiter = s.arbiter.completed))
    ∧ (∀ c : Counter, (∃ u, b.job = .telemetryRead u) ∧ c = .uncorrectableTelemetry
        ∨ b.job = .readback ∧ c = .uncorrectableReadback ∨ b.job = .pokeRecordRead ∧ c = .recordReadbackErrors →
      b.dropped = true → b.data = [] →
      ∃ t, exec (.dramBurstComplete ks) s = .next t ∧ s.corrects t ks b ∧ t.mgmt.queue = s.mgmt.queue ∧ held t = held s
      ∧ t.trunk = (s.corrected ks b).trunk ∧ t.frames = s.frames ∧ t.arbiter = s.arbiter.completed
      ∧ t.dram.memory = s.dram.memory
      ∧ (if fails then s.counted t c 1 ∧ t.bankStore.lastBad = some (placeOf b.address, s.now)
        else t.counter c = s.counter c ∧ t.bankStore.lastBad = s.bankStore.lastBad))

/-- The request watchdogs (R188, R46) and the holdoff (R191). The timebase is brought to the moment of expiry by the model's choice (log entry 14). -/
def Obligations.WatchdogsWithdrawAndTheHoldoffReports : Prop :=
  ∀ s : State,
    (∀ e, s.mgmt.executing = some e →
      (e.begun = true → exec (.requestWatchdogExpiry .execution) s = .next s)
      ∧ (e.begun = false → ∃ t, exec (.requestWatchdogExpiry .execution) s = .next t ∧ t.mgmt.executing = none
        ∧ s.counted t .timedOut 1 ∧ s.countedIf t e.transfer.isLoad .loadsTimedOut
        ∧ t.trunk = (s.respond e.request .timedOut none []).trunk
        ∧ ∀ b ∈ t.arbiter.telemetryRead ++ t.arbiter.management, b.job.isRequest = false))
    ∧ (∀ e rest, takeSoonest s.now StagedEntry.moment s.mgmt.slopeQueue = some (e, rest) →
      ∃ t, exec (.requestWatchdogExpiry .slopeSide) s = .next t ∧ t.mgmt.slopeQueue = rest ∧ s.counted t .timedOut 1
      ∧ t.trunk = (s.respond e.request .timedOut none []).trunk ∧ t.engine = s.engine ∧ t.ports = s.ports)
    ∧ (∀ e rest, takeSoonest s.now StagedEntry.moment s.mgmt.actuatorQueue = some (e, rest) →
      ∃ t, exec (.requestWatchdogExpiry .actuatorSide) s = .next t ∧ t.mgmt.actuatorQueue = rest
      ∧ s.counted t .timedOut 1 ∧ t.trunk = (s.respond e.request .timedOut none []).trunk ∧ t.tables = s.tables)
    ∧ (∀ u m, s.events.holdoff = some u → m = after u (1000 * s.params.eventHoldoff) →
      ∃ t, exec .eventHoldoffExpiry s = .next t ∧ t.now = (if hasReached s.now m = true then s.now else m) ∧
      (if s.events.reportEnable = true ∧ s.mgmt.reset = .none ∧ s.reportable ≠ 0 then
        t.events = { s.events with
          pending := s.events.pending &&& ~~~(s.reportable &&& transientSet)
          reported := s.events.reported ||| (s.reportable &&& fatalSet)
          frameNumber := s.events.frameNumber + 1
          holdoff := if s.params.eventHoldoff = 0 then none else some t.now }
        ∧ s.counted t .eventFrames 1
        ∧ t.trunk = (s.placeControl ⟨(s.advanceTo m).eventFrame s.reportable, false⟩).trunk
      else t.events = { s.events with holdoff := none } ∧ t.trunk = s.trunk))

/-- Reads answered at acceptance (R185, R193, R51) in the bytes of R199, and the checks before them (R183, R184). The order of the checks is log entry 25. `f` gives the bytes of codes that the spec does not state (log entry 9). The codes of a loop state, a poke phase and the ML state in state fields, the bits of a context's frame flags, the two fields of a fault snapshot row with two values, the six fields of the last uncorrectable location and the coding of a first unmarked segment are log entries 44 and 9; the tail items at a HEAD or MIDDLE node log entry 29, and the last applied tag before integrator states and last outputs there log entry 38; the zeros in the places of masters that a slave record does not name log entry 46; the age of a zeroed hold entry log entry 32; the effective class is the one held. -/
def Obligations.ReadsAnswerTheValuesInEffect : Prop :=
  ∀ (s : State) (r : Request) (o a n : Nat), o = r.field 0 1 → a = r.field 4 4 → n = r.field 8 4 →
    let w := fun x : Nat => leBytes 4 x
    let v := fun x : Int => leBytes 2 (BitVec.ofInt 16 x).toNat
    let bit := fun b : Bool => if b = true then 1 else 0
    let items := fun xs : List Nat => xs.zipIdx.flatMap (fun x => leBytes 2 x.2 ++ leBytes 2 0 ++ leBytes 4 x.1)
    let run := fun g : Nat → List Byte => (List.range n).flatMap (fun k => g (a + k))
    let tag := fun x : Option Tag => match x with | some t => w t.toNat | none => w 4294967295
    let cls := fun x : ActClass => match x with | .active => 0 | .frozen => 1 | .slaved => 2 | .dead => 3
    let state := fun x : LoopState => match x with | .off => 0 | .opened => 1 | .closed => 2 | .held => 3 | .safe => 4
    let phase := fun x : PokePhase => match x with | .push => 0 | .pull => 1
    let port := fun p : Ix => items [bit (s.port p).config.enabled, (s.port p).config.slopeCount,
        match (s.port p).config.policy with | .zero => 0 | .hold => 1, (s.port p).config.holdLimit,
        match (s.port p).config.fullMode with | .drop => 0 | .stop => 1,
        match (s.port p).state with | .idle => 0 | .running => 1 | .stopped => 2, bit (s.port p).linkUp,
        (s.port p).readPos, (s.port p).visiblePos, (s.port p).writePos, (s.port p).freeCount]
      ++ (List.range (s.port p).config.slopeCount).flatMap (fun k =>
        match s.engine.hold.get ((if p = .one then (s.port .zero).config.slopeCount else 0) + k) with
        | some h => v h.value ++ leBytes 1 h.age ++ leBytes 1 0
        | none => v 0 ++ leBytes 1 (s.port p).config.holdLimit ++ leBytes 1 0)
    (s.oldest? .readObject = some r → ∃ (t : State) (f : Nat → List Byte), exec .readObject s = .next t
      ∧ (∀ i, (f i).length = if i = 0 then 2 else 4) ∧
      let entries := match o with
        | 3 => 8192 | 4 => 6144 | 5 => 16 | 6 => 8 | 7 => 512 | 8 => 16384 | 9 => 6144 | 13 => 6144 | 14 => 6144 | _ => 0
      let size := match o with
        | 3 => 2 * n | 4 => 12 * n | 5 => 8 * n | 6 => 8 * n | 7 => 12 * n | 8 => 4 + 4 * n | 9 => 2 * n
        | 13 => 4 + 4 * n | 14 => 4 + 2 * n | _ => 0
      let applied := match s.lastApplied with
        | some g => leBytes 2 g.toNat ++ leBytes 1 1 ++ leBytes 1 0
        | none => f 0 ++ leBytes 1 0 ++ leBytes 1 0
      let header := fun (b : Ix) (i : Nat) => f i ++ w (s.bank b).nb ++ w (s.bank b).ab ++ w (s.bank b).scale
        ++ w (s.bank b).label.toNat
        ++ w ((List.range (s.bank b).nb).map (fun c =>
            (List.range (segmentCount (s.bank b).ab)).countP (fun m => !(s.bank b).covered c m))).sum
        ++ (match ((List.range (s.bank b).nb).flatMap (fun c => ((List.range (segmentCount (s.bank b).ab)).filter
              (fun m => !(s.bank b).covered c m)).map (fun m => (c, m)))).head? with
          | some (c, m) => leBytes 2 c ++ leBytes 1 m ++ leBytes 1 0
          | none => f (i + 1))
        ++ f (i + 2) ++ w (s.bank b).useCount
      let context := fun (c : Ix) (i : Nat) => f i ++ (if (s.ctx c).state = .free then [] else w (s.ctx c).tag.toNat
        ++ w (s.ctx c).bank.toNat ++ w (s.ctx c).label.toNat ++ w (s.ctx c).openTime.toNat ++ w (s.ctx c).flags.toNat)
      let refused := fun st : Status => s.answered t r st none [] ∧ s.counted t .requestsRefused 1
      if r.form ≠ 0 ∨ r.body = [] then refused .badRequest
      else if 19 < o then refused .badObject
      else if r.body.length ≠ 12 then refused .badRequest
      else if 1 < r.field 1 1 then refused .badValue
      else if r.field 1 1 = 1 then refused .badObject
      else if entries ≠ 0 ∧ (49152 < 8 + size ∨ n = 0 ∨ entries < a + n) then refused .badRange
      else s.counted t .requestsAccepted 1 ∧ s.answered t r .done none (match o with
        | 0 => items [match s.params.role with | .solo => 0 | .head => 1 | .middle => 2 | .tail => 3, s.params.actuators,
            s.params.dAsm, s.params.dDel, s.params.expectedMask.toNat, s.params.kBad, s.params.saturationLimit,
            s.params.saturationFrames, s.params.starvationInterval, s.params.echoTimeout, s.params.echoMissLimit,
            s.params.dMax, s.params.requestWatchdog, s.params.eventHoldoff]
        | 1 => port .zero
        | 2 => port .one
        | 3 => run (fun k => v (s.engine.refs.get k))
        | 4 => run (fun k => v (s.actuator k).lo ++ v (s.actuator k).hi ++ v (s.actuator k).park
            ++ leBytes 1 (cls (s.actuator k).cls) ++ leBytes 1 (s.actuator k).profile
            ++ leBytes 1 (cls (s.tables.effective.get k)) ++ leBytes 3 0)
        | 5 => run (fun k => w (s.tables.gains.get k).gain ++ w (s.tables.gains.get k).leak)
        | 6 => run (fun k => leBytes 2 (s.tables.overrides.get k).first ++ leBytes 2 (s.tables.overrides.get k).count
            ++ leBytes 1 (cls (s.tables.overrides.get k).cls) ++ leBytes 1 (bit (s.tables.overrides.get k).enabled)
            ++ leBytes 2 0)
        | 7 => run (fun k => leBytes 2 (s.tables.slaves.get k).slave ++ leBytes 1 (s.tables.slaves.get k).masters.length
            ++ leBytes 1 0 ++ (List.range 4).flatMap (fun i => leBytes 2 ((s.tables.slaves.get k).masters.getD i 0)))
        | 8 => w s.tables.pairCount
            ++ run (fun k => leBytes 2 (s.tables.pairs.get k).1 ++ leBytes 2 (s.tables.pairs.get k).2)
        | 9 => run (fun k => v (s.tables.openShape.get k))
        | 11 => header .zero 1 ++ header .one 4 ++ (match s.bankStore.lastBad with
            | some (.bank b i g, u) => f 7 ++ w b.toNat ++ w i ++ w g ++ f 8 ++ w u.toNat
            | some (.telemetry x, u) => f 7 ++ f 8 ++ f 9 ++ f 10 ++ w x ++ w u.toNat
            | some (.poke x, u) => f 7 ++ f 8 ++ f 9 ++ f 10 ++ w x ++ w u.toNat
            | none => f 7 ++ f 8 ++ f 9 ++ f 10 ++ f 11 ++ f 12)
        | 13 => applied ++ run (fun k => w (BitVec.ofInt 32 (s.tables.integrators.get k)).toNat)
        | 14 => applied ++ run (fun k => v (s.tables.lastOutputs.get k))
        | 15 => w s.now.toNat ++ tag s.frames.newestOpened ++ tag s.frames.newestDelivered ++ context .zero 1 ++ context .one 2
            ++ (if s.params.role = .tail ∨ s.params.role = .solo then
              tag s.lastApplied ++ w (state s.loop.state) ++ w s.loop.badFrames ++ w s.loop.satRun
              ++ (match s.loop.lastFinish with | some u => w (s.now - u).toNat | none => f 3) ++ w (bit s.mirror.up)
              ++ w s.mirror.echoes.length ++ w s.mirror.misses
              ++ (match s.mirror.lastDriverStatus with | some x => w x | none => f 4) ++ f 5
              ++ (match s.poke with
                | none => f 6 ++ f 7 ++ f 8 ++ f 9 ++ f 10
                | some e => f 6 ++ w e.current ++ w (phase e.phase) ++ (if e.copy = none then f 9 else w e.remaining)
                    ++ (match e.prefetched with | some x => w x.1 | none => f 10))
            else w 4294967295 ++ w 0 ++ w 0 ++ w 0 ++ f 3 ++ w 0 ++ w 0 ++ w 0 ++ f 4 ++ f 5
              ++ f 6 ++ f 7 ++ f 8 ++ f 9 ++ f 10)
        | 16 => items [s.telemetry.config.ringStart, s.telemetry.config.ringEnd,
            bit s.telemetry.config.slopeSection + 2 * bit s.telemetry.config.residualSection
              + 4 * bit s.telemetry.config.commandSection, s.telemetry.config.decimation,
            match s.telemetry.config.fullMode with | .wrap => 0 | .stop => 1, s.telemetry.config.triggerMask.toNat,
            s.telemetry.config.postTrigger, match s.telemetry.state with
              | .idle => 0 | .running => 1 | .triggered => 2 | .frozen => 3 | .stopped => 4,
            s.telemetry.readPos, s.telemetry.writePos, s.telemetry.lengths.length, s.telemetry.lengths.sum,
            s.telemetry.config.ringEnd - s.telemetry.config.ringStart - s.telemetry.lengths.sum, s.telemetry.remaining,
            s.telemetry.phase, s.telemetry.nextRecord.toNat, bit s.telemetry.inFlight.isSome]
        | 17 => items [s.events.pending.toNat, s.events.enabled.toNat, s.events.critical.toNat, bit s.events.reportEnable,
            (s.events.reported &&& fatalSet).toNat, bit s.events.holdoff.isNone, s.events.frameNumber.toNat]
        | 19 => f 1 ++ (if s.loop.snapshotState = .empty then [] else match s.loop.snapshot with
            | none => []
            | some x => f 2 ++ (match x.cause with | .driverFault k => w k | _ => f 3) ++ tag x.lastFinished
              ++ tag x.lastApplied ++ w (state x.loopBefore) ++ w x.badFrames ++ w x.satRun ++ w x.lastClampCount
              ++ (match x.liveBank with | some (b, l) => w b.toNat ++ w l.toNat | none => f 4 ++ f 5)
              ++ (match x.poke with | some (k, g) => w k ++ w (phase g) | none => f 6 ++ w 2)
              ++ w x.latches.toNat ++ w x.timestamp.toNat ++ w x.later.toNat)
        | _ => []))
    ∧ (s.oldest? .readCounters = some r → ∃ t, exec .readCounters s = .next t ∧
      let refused := fun st : Status => s.answered t r st none [] ∧ s.counted t .requestsRefused 1
      if r.form ≠ 0 then refused .badRequest
      else if r.body.length ≠ 12 then refused .badRequest
      else if 1 < r.field 1 1 then refused .badValue
      else if 49152 < 16 + 4 * n ∨ n = 0 ∨ 142 < a + n then refused .badRange
      else s.answered t r .done none (leBytes 1 (bit s.trunk.tiUp) ++ leBytes 1 (bit s.trunk.toUp)
            ++ leBytes 1 s.trunk.realtime.length ++ leBytes 1 s.trunk.control.length
            ++ leBytes 1 (bit s.trunk.sending.isSome) ++ leBytes 3 0 ++ run (fun k => w
              (if k = Counter.requestsAccepted.number then min (s.counters.get k + 1) 4294967295 else s.counters.get k)))
        ∧ (r.field 1 1 = 1 → ∀ k, a ≤ k → k < a + n → k ≠ Counter.controlOverflow.number → t.counters.get k = 0)
        ∧ (r.field 1 1 = 0 → s.counted t .requestsAccepted 1
          ∧ ∀ c : Counter, c ≠ .requestsAccepted → c ≠ .controlOverflow → t.counter c = s.counter c))
    ∧ (∀ b, s.oldest? .readMatrixColumnSegment = some r → r.form = 0 → r.body.length = 12 → r.field 1 1 = 0 →
      Ix.ofNat? a = some b → (s.bank b).state ≠ .empty → n / 16 < (s.bank b).nb → n % 16 < segmentCount (s.bank b).ab →
      (s.bank b).covered (n / 16) (n % 16) = false → ∃ t, exec .readMatrixColumnSegment s = .next t
      ∧ s.answered t r .done none (leBytes 1 0 ++ leBytes 1 0 ++ leBytes 2 0) ∧ s.counted t .readbacks 1
      ∧ t.mgmt.executing = none)

/-- Requests that stay in execution until their last burst (R183): R44, R51, R158, R178, with the places of R38 and the queues of R58. The order of the checks before them is log entry 25. -/
def Obligations.ArbiterRequestsGoIntoExecution : Prop :=
  ∀ (s : State) (r : Request), r.form = 0 →
    (∀ b, s.oldest? .loadColumn = some r → 8 ≤ r.body.length → r.body.length = 8 + 2 * r.loadCount →
      r.bank? = some b → ((s.bank b).state = .loading ∨ (s.bank b).state = .ready) → (s.bank b).useCount = 0 →
      (s.bank b).swapMark = none → r.loadFits (s.bank b) = true → ∃ t, exec .loadColumn s = .next t
      ∧ s.executes t r (.loadColumn b (r.field 2 2) (r.field 4 2 / 512) ((r.field 6 2 + 511) / 512))
      ∧ s.placesTransfers t ((List.range ((r.field 6 2 + 511) / 512)).map (fun k =>
        let d := ((r.body.drop 8).drop (1024 * k)).take 1024
        let e := d ++ List.replicate (8 * ((d.length + 7) / 8) - d.length) 0
        ⟨.loadColumn, 100663296 * b.toNat + 12288 * r.field 2 2 + 1024 * (r.field 4 2 / 512 + k), e.length, e,
          k + 1 = (r.field 6 2 + 511) / 512, false⟩)))
    ∧ (∀ b, s.oldest? .readMatrixColumnSegment = some r → r.body.length = 12 → r.field 1 1 = 0 →
      Ix.ofNat? (r.field 4 4) = some b → (s.bank b).state ≠ .empty → r.field 8 4 / 16 < (s.bank b).nb →
      r.field 8 4 % 16 < segmentCount (s.bank b).ab → (s.bank b).covered (r.field 8 4 / 16) (r.field 8 4 % 16) = true →
      ∃ t, exec .readMatrixColumnSegment s = .next t
      ∧ s.executes t r (.readback b (r.field 8 4 / 16) (r.field 8 4 % 16))
      ∧ s.placesTransfers t [⟨.readback, 100663296 * b.toNat + 12288 * (r.field 8 4 / 16) + 1024 * (r.field 8 4 % 16),
          2 * min 512 ((s.bank b).ab - 512 * (r.field 8 4 % 16)), [], true, false⟩])
    ∧ (s.oldest? .readPokeRecords = some r → r.body.length = 12 → r.field 1 1 = 0 → 1 ≤ r.field 8 4 →
      8 + 128 * r.field 8 4 ≤ 49152 → r.field 4 4 + r.field 8 4 ≤ 1024 →
      ∃ t, exec .readPokeRecords s = .next t ∧ s.executes t r (.pokeRead [])
      ∧ s.placesTransfers t ((List.range (r.field 8 4)).map (fun k =>
        ⟨.pokeRecordRead, 469762048 + 128 * (r.field 4 4 + k), 128, [], k + 1 = r.field 8 4, false⟩)))
    ∧ (s.oldest? .writePokeRecords = some r → 8 < r.body.length → (r.body.length - 8) % 128 = 0 →
      r.first + (r.elementsOf 8 128).length ≤ 1024 → (r.elementsOf 8 128).all recordValuesHold = true →
      (r.elementsOf 8 128).all recordActuatorsHold = true → s.pokeRunFree r.first (r.elementsOf 8 128).length = true →
      ∃ t, exec .writePokeRecords s = .next t ∧ s.executes t r .pokeWrite
      ∧ s.placesTransfers t ((List.range ((r.body.length - 8) / 128)).map (fun k =>
        ⟨.pokeRecordWrite, 469762048 + 128 * (r.field 4 4 + k), 128, ((r.body.drop 8).drop (128 * k)).take 128,
          k + 1 = (r.body.length - 8) / 128, false⟩)))
    ∧ (s.oldest? .readTelemetry = some r → r.body.length = 4 → 1 ≤ r.field 0 2 →
      (s.telemetry.lengths = [] → ∃ t, exec .readTelemetry s = .next t
        ∧ s.answered t r .done none (leBytes 2 0 ++ leBytes 2 0))
      ∧ ∀ l rest (unit : Nat → Nat), s.telemetry.lengths = l :: rest → 32 * l ≤ 49140 →
        (∀ k, unit k = if k = 0 then s.telemetry.readPos else s.telemetry.config.ringStart + (s.telemetry.readPos
          - s.telemetry.config.ringStart + (s.telemetry.lengths.take k).sum) % s.telemetry.ringSize) →
        ∃ t m bs, exec .readTelemetry s = .next t ∧ 1 ≤ m ∧ m ≤ r.field 0 2 ∧ m ≤ s.telemetry.lengths.length
        ∧ 32 * (s.telemetry.lengths.take m).sum ≤ 49140
        ∧ (m = r.field 0 2 ∨ m = s.telemetry.lengths.length ∨ 49140 < 32 * (s.telemetry.lengths.take (m + 1)).sum)
        ∧ s.executes t r (.readTelemetry ((List.range m).map (fun k => ⟨unit k, s.telemetry.lengths.getD k 0, []⟩)))
        ∧ s.placesRecordReads t bs
        ∧ (s.telemetry.config.ringStart ≤ s.telemetry.readPos → s.telemetry.readPos < s.telemetry.config.ringEnd →
          burstAddresses bs = ringAddresses s.telemetry.config s.telemetry.readPos (s.telemetry.lengths.take m).sum)
        ∧ (∀ x ∈ bs, x.length ≤ 1024 ∧ x.data = [] ∧ x.dropped = false ∧ ∃ k, k < m ∧ x.job = .telemetryRead (unit k))
        ∧ ∀ k x, bs[k]? = some x → (x.last = true ↔ k + 1 = bs.length))

/-- Writes of the node parameters (R186) with the pair of R31, the role of R76 and the echo list of R150. What a role that is no longer a tail's does to the frames being sent and waiting, and that the rest of the mirror link is kept, is the model's choice (log entry 38); the order of the checks, and a parameter named twice, is log entry 25. -/
def Obligations.NodeParameterWritesAreCheckedWhole : Prop :=
  ∀ (s : State) (r : Request), s.oldest? .writeNodeParameters = some r → ∃ t, exec .writeNodeParameters s = .next t
    ∧ (match firstFailure (s.paramChecks r) with
      | some st => s.answered t r st none [] ∧ s.counted t .requestsRefused 1 ∧ t.params = s.params
          ∧ t.mirror = s.mirror
      | none => s.answered t r .done none [] ∧ s.counted t .requestsAccepted 1 ∧ t.params.dAsm < t.params.dDel
          ∧ (∀ k, t.params.values.getD k 0 = (lastItem r.items k).getD (s.params.values.getD k 0))
          ∧ t.mirror = (if s.isTail = true ∧ t.isTail = false then { s.mirror with
              sending := s.mirror.sending.map (fun f => { f with makesEntry := false }), waiting := none, echoes := [] }
            else s.mirror)
          ∧ (t.params.actuators = s.params.actuators → t.bankStore = s.bankStore))
    ∧ (s.quiet = false → t.params.role = s.params.role ∧ t.params.actuators = s.params.actuators)

/-- Port configuration (R2, R3) with the emptying of R12 and R16 and the staging of R28 and R187. The order of the checks, and an item named twice, is log entry 25. -/
def Obligations.PortConfigurationWritesApplyAndStage : Prop :=
  ∀ (s : State) (r : Request) (p : Ix) (new : PortConfig), s.oldest? .writePortConfiguration = some r →
    firstFailure (s.portChecks r) = none → p = r.portOf → new = (s.port p).config.setNow r.items →
    ∃ t, exec .writePortConfiguration s = .next t
    ∧ (match r.stagedPort with
      | none => s.answered t r .done none [] ∧ (t.port p).config = new ∧ t.port p.other = s.port p.other
          ∧ new.policy = (s.port p).config.policy ∧ new.holdLimit = (s.port p).config.holdLimit
          ∧ (t.port p).state = (if new.enabled = (s.port p).config.enabled then (s.port p).state
              else if new.enabled = true then .running else .idle)
          ∧ (new.enabled ≠ (s.port p).config.enabled ∨ new.slopeCount ≠ (s.port p).config.slopeCount →
              (t.port p).readPos = 0 ∧ (t.port p).visiblePos = 0 ∧ (t.port p).writePos = 0 ∧ (t.port p).freeCount = 8192
              ∧ (t.port p).reception = none ∧ ∀ i, t.engine.hold.get i = none)
      | some w =>
        if s.liveBank?.isSome = true ∨ s.anyOpen = true then
          t.port p.other = s.port p.other ∧
          (if 32 ≤ s.mgmt.slopeQueue.length then
            s.answered t r .busy none [] ∧ t.ports = s.ports ∧ s.counted t .stagedFull 1
          else (t.port p).config = new ∧ t.mgmt.queue = s.mgmt.queue.drop 1 ∧ t.trunk = s.trunk
            ∧ t.mgmt.slopeQueue = s.mgmt.slopeQueue ++ [⟨r, s.now, 1000 * s.params.requestWatchdog, w⟩]
            ∧ s.counted t .stagedPlaced 1)
        else (s.mgmt.slopeQueue = [] → s.answered t r .done none [] ∧ t.port p.other = s.port p.other
          ∧ (t.port p).config = { new with policy := (policyOf r.items).getD new.policy
                                           holdLimit := (lastItem r.items 3).getD new.holdLimit }))

/-- Staged writes at acceptance (R28, R118, R119, R187); `State.stages` spells out the actuator side. What a range written with enabled no takes over is log entry 42; an element run of the wrong length, and the order of the checks, is log entry 25. -/
def Obligations.StagedWritesWaitOrTakeEffect : Prop :=
  ∀ (s : State) (r : Request), r.form = 0 →
    (s.oldest? .writeActuatorEntries = some r → (r.holdsRun 8).1 = true → (r.runWithin 8 6144).1 = true →
      ((r.elementsOf 8 8).map ActuatorEntry.decode?).all Option.isSome = true → ∃ t, exec .writeActuatorEntries s = .next t
      ∧ s.stages t r (.actuatorEntries r.first ((r.elementsOf 8 8).filterMap ActuatorEntry.decode?)))
    ∧ (s.oldest? .writeGainProfiles = some r → (r.holdsRun 8).1 = true → (r.runWithin 8 16).1 = true →
      ((r.elementsOf 8 8).map GainProfile.decode).all GainProfile.inRange = true → ∃ t, exec .writeGainProfiles s = .next t
      ∧ s.stages t r (.gainProfiles r.first ((r.elementsOf 8 8).map GainProfile.decode)))
    ∧ (s.oldest? .writeOverrideRanges = some r → (r.holdsRun 8).1 = true → (r.runWithin 8 8).1 = true →
      (∀ e ∈ r.elementsOf 8 8, overrideFits s.params.actuators e = true ∧ (OverrideRange.decode? e).isSome = true) →
      ∃ t, exec .writeOverrideRanges s = .next t
      ∧ s.stages t r (.overrideRanges r.first ((r.elementsOf 8 8).filterMap OverrideRange.decode?)))
    ∧ (s.oldest? .writeSlaveRecords = some r → (r.holdsRun 12).1 = true → (r.runWithin 12 512).1 = true →
      (∀ e ∈ r.elementsOf 8 12, fieldAt e 2 1 ≤ 4 ∧ (SlaveRecord.decode e).inRange = true) →
      ∃ t, exec .writeSlaveRecords s = .next t
      ∧ s.stages t r (.slaveRecords r.first ((r.elementsOf 8 12).map SlaveRecord.decode)))
    ∧ (s.oldest? .writeNeighbourPairs = some r → 12 ≤ r.body.length → (r.body.length - 12) % 4 = 0 → r.pairCount ≤ 16384 →
      r.firstPair + r.pairs.length ≤ 16384 → (∀ q ∈ r.pairs, q.1 < 6144 ∧ q.2 < 6144) →
      ∃ t, exec .writeNeighbourPairs s = .next t ∧ s.stages t r (.neighbourPairs r.pairCount r.firstPair r.pairs))
    ∧ (s.oldest? .writeOpenShape = some r → (r.holdsRun 2).1 = true → (r.runWithin 2 6144).1 = true →
      ∃ t, exec .writeOpenShape s = .next t ∧ s.stages t r (.openShape r.first r.values16))
    ∧ (s.oldest? .writeReferenceSlopes = some r → (r.holdsRun 2).1 = true → (r.runWithin 2 8192).1 = true →
      (∀ v ∈ r.values16, v ≠ -32768) → ∃ t, exec .writeReferenceSlopes s = .next t ∧
      (if s.liveBank?.isSome = true ∨ s.anyOpen = true then
        t.engine = s.engine ∧
        (if 32 ≤ s.mgmt.slopeQueue.length then
          s.answered t r .busy none [] ∧ s.counted t .stagedFull 1 ∧ t.mgmt.slopeQueue = s.mgmt.slopeQueue
        else t.mgmt.queue = s.mgmt.queue.drop 1 ∧ t.trunk = s.trunk ∧ s.counted t .stagedPlaced 1
          ∧ t.mgmt.slopeQueue = s.mgmt.slopeQueue ++
            [⟨r, s.now, 1000 * s.params.requestWatchdog, .references r.first r.values16⟩])
      else (s.mgmt.slopeQueue = [] → s.answered t r .done none [] ∧ ∀ i, t.engine.refs.get i =
        if r.first ≤ i ∧ i < r.first + r.values16.length then r.values16.getD (i - r.first) 0 else s.engine.refs.get i)))

/-- Staged writes taking effect (R28, R118) with the limit clamp (R120). That a range written with enabled no keeps its other fields is R115; that this goes before the overwriting of R118 is log entry 42. -/
def Obligations.StagedWritesOverwriteWhatTheyName : Prop :=
  ∀ (s : State) (k : Nat),
    (∀ vs, (s.applyActuator (.gainProfiles k vs)).tables = { s.tables with gains := (s.applyActuator (.gainProfiles k vs)).tables.gains }
      ∧ ∀ i, (s.applyActuator (.gainProfiles k vs)).tables.gains.get i =
        if k ≤ i ∧ i < k + vs.length then vs.getD (i - k) .powerOn else s.tables.gains.get i)
    ∧ (∀ vs, (s.applyActuator (.overrideRanges k vs)).tables =
        { s.tables with overrides := (s.applyActuator (.overrideRanges k vs)).tables.overrides }
      ∧ ∀ i, (s.applyActuator (.overrideRanges k vs)).tables.overrides.get i =
        if k ≤ i ∧ i < k + vs.length then
          if (vs.getD (i - k) .powerOn).enabled = true then vs.getD (i - k) .powerOn
          else { s.tables.overrides.get i with enabled := false }
        else s.tables.overrides.get i)
    ∧ (∀ vs, (s.applyActuator (.slaveRecords k vs)).tables =
        { s.tables with slaves := (s.applyActuator (.slaveRecords k vs)).tables.slaves }
      ∧ ∀ i, (s.applyActuator (.slaveRecords k vs)).tables.slaves.get i =
        if k ≤ i ∧ i < k + vs.length then vs.getD (i - k) .unused else s.tables.slaves.get i)
    ∧ (∀ n vs, (s.applyActuator (.neighbourPairs n k vs)).tables =
        { s.tables with pairCount := n, pairs := (s.applyActuator (.neighbourPairs n k vs)).tables.pairs }
      ∧ ∀ i, (s.applyActuator (.neighbourPairs n k vs)).tables.pairs.get i =
        if k ≤ i ∧ i < k + vs.length then vs.getD (i - k) (0, 0) else s.tables.pairs.get i)
    ∧ (∀ vs, (s.applyActuator (.openShape k vs)).tables =
        { s.tables with openShape := (s.applyActuator (.openShape k vs)).tables.openShape }
      ∧ ∀ i, (s.applyActuator (.openShape k vs)).tables.openShape.get i =
        if k ≤ i ∧ i < k + vs.length then vs.getD (i - k) 0 else s.tables.openShape.get i)
    ∧ (∀ es, ∃ t, s.applyActuator (.actuatorEntries k es) = t
      ∧ { t.tables with actuators := s.tables.actuators, integrators := s.tables.integrators } = s.tables
      ∧ ∀ i, (k ≤ i ∧ i < k + es.length →
          t.actuator i = es.getD (i - k) .powerOn
          ∧ t.tables.integrators.get i =
            (if (t.actuator i).lo = (s.actuator i).lo ∧ (t.actuator i).hi = (s.actuator i).hi then s.tables.integrators.get i
            else clampInt ((t.actuator i).lo * 65536) ((t.actuator i).hi * 65536) (s.tables.integrators.get i)))
        ∧ (¬(k ≤ i ∧ i < k + es.length) →
          t.actuator i = s.actuator i ∧ t.tables.integrators.get i = s.tables.integrators.get i))
    ∧ ∀ vs i, (s.applySlope (.references k vs)).engine.refs.get i =
        if k ≤ i ∧ i < k + vs.length then vs.getD (i - k) 0 else s.engine.refs.get i

/-- The requests of R169, R172, R192 and R161. That the empty trigger mask is in range, where R169 refuses a mask that names no known event, is the model's choice (log entry 45); an item named twice, and the answer to a write of no item, is log entry 25; that the decimation phase is kept whatever decimation is written is log entry 47. -/
def Obligations.TelemetryEventAndStopRequests : Prop :=
  ∀ (s : State) (r : Request),
    (s.oldest? .writeTelemetryConfiguration = some r → r.form = 0 → (r.holdsItems 17).1 = true → (r.writesOnly 7).1 = true →
      ∃ t, exec .writeTelemetryConfiguration s = .next t ∧
      (if s.telemetry.state = .running ∨ s.telemetry.state = .triggered then
        s.answered t r .wrongState none [] ∧ t.telemetry = s.telemetry
      else (r.items.all (fun i => telemetryInRange i.1 i.2) = true →
        (s.telemetry.config.setItems r.items).ringStart + 2562 ≤ (s.telemetry.config.setItems r.items).ringEnd →
        s.answered t r .done none [] ∧ t.telemetry.config = s.telemetry.config.setItems r.items ∧
        (if t.telemetry.config.ringStart = s.telemetry.config.ringStart
            ∧ t.telemetry.config.ringEnd = s.telemetry.config.ringEnd then
          t.telemetry = { s.telemetry with config := t.telemetry.config }
        else t.telemetry.readPos = t.telemetry.config.ringStart ∧ t.telemetry.writePos = t.telemetry.config.ringStart
          ∧ t.telemetry.lengths = [] ∧ t.telemetry.inFlight = none))))
    ∧ (s.oldest? .writeEventState = some r → r.form = 0 → (r.holdsItems 7).1 = true → (r.writesOnly 4).1 = true →
      r.items.all (fun i => eventInRange i.1 i.2) = true → ∃ t, exec .writeEventState s = .next t
      ∧ t.events.enabled = (r.items.foldl Events.setItem s.events).enabled
      ∧ t.events.critical = (r.items.foldl Events.setItem s.events).critical
      ∧ t.events.reportEnable = (r.items.foldl Events.setItem s.events).reportEnable
      ∧ (s.events.holdoff.isSome = true →
        t.events = r.items.foldl Events.setItem s.events ∧ s.answered t r .done none []))
    ∧ (s.oldest? .telemetryArm = some r → r.body = [] → ∃ t, exec .telemetryArm s = .next t ∧
      (if s.telemetry.state = .running ∨ s.telemetry.state = .triggered then
        s.answered t r .wrongState none [] ∧ t.telemetry = s.telemetry
      else s.answered t r .done none [] ∧ t.telemetry.state = .running ∧ t.telemetry.lengths = []
        ∧ t.telemetry.readPos = s.telemetry.config.ringStart ∧ t.telemetry.writePos = s.telemetry.config.ringStart
        ∧ t.telemetry.phase = 0 ∧ t.telemetry.nextRecord = 0 ∧ t.telemetry.inFlight = none))
    ∧ (s.oldest? .telemetryStop = some r → r.body = [] → ∃ t, exec .telemetryStop s = .next t
      ∧ s.answered t r .done none [] ∧ t.telemetry = { s.telemetry with state := .idle, inFlight := none }
      ∧ ∀ w, s.telemetry.inFlight = some w → (t.ctx w.ctx).state = .free)
    ∧ (s.oldest? .pokeStop = some r → r.form = 0 → s.isTail = true → r.body = [] → ∃ t, exec .pokeStop s = .next t
      ∧ t.poke = none ∧ s.countedIf t s.poke.isSome .sequencesStopped
      ∧ t.counter .sequencesAborted = s.counter .sequencesAborted
      ∧ (s.poke = none ∨ s.events.reportEnable = false ∨ s.events.holdoff.isSome = true → s.answered t r .done none []))

/-- BANK SETUP (R43) and RETIRE BANK (R50). -/
def Obligations.BankSetupAndRetireBank : Prop :=
  ∀ (s : State) (r : Request), r.form = 0 →
    (s.oldest? .bankSetup = some r → r.body.length = 10 → ∃ t, exec .bankSetup s = .next t ∧
      (match r.bank? with
      | none => s.answered t r .badValue none [] ∧ t.bankStore = s.bankStore
      | some b =>
        if ¬(2 ≤ r.field 2 2 ∧ r.field 2 2 ≤ 8192 ∧ r.field 2 2 % 2 = 0 ∧ 1 ≤ r.field 4 2 ∧ r.field 4 2 ≤ 6144
            ∧ r.field 6 1 ≤ 24) then s.answered t r .badValue none [] ∧ t.bankStore = s.bankStore
        else if (s.bank b).state = .live ∨ 0 < (s.bank b).useCount then
          s.answered t r .bankLive none [] ∧ t.bankStore = s.bankStore
        else if (s.bank b).swapMark ≠ none then s.answered t r .swapPending none [] ∧ t.bankStore = s.bankStore
        else s.answered t r .done none [] ∧ (t.bank b).state = .loading ∧ (t.bank b).nb = r.field 2 2
          ∧ (t.bank b).ab = r.field 4 2 ∧ (t.bank b).scale = r.field 6 1
          ∧ (t.bank b).label = BitVec.ofNat 16 (r.field 8 2) ∧ (∀ i g, (t.bank b).covered i g = false)
          ∧ (t.bank b).useCount = (s.bank b).useCount ∧ t.bank b.other = s.bank b.other))
    ∧ (s.oldest? .retireBank = some r → r.body = [] → ∃ t, exec .retireBank s = .next t ∧
      (match s.liveBank? with
      | none => s.answered t r .wrongState none [] ∧ t.bankStore = s.bankStore
      | some b =>
        if s.isTail = true ∧ s.loop.state ≠ .off then s.answered t r .wrongState none [] ∧ t.bankStore = s.bankStore
        else s.answered t r .done none [] ∧ t.bank b = { s.bank b with state := .ready } ∧ t.bank b.other = s.bank b.other))

/-- CLOSE BANK (R47): its table, the bank number, and the body of INCOMPLETE with its agreement with the bank headers object. That a bank header codes its first unmarked segment in the very bytes of the INCOMPLETE body is the model's choice (log entry 9). -/
def Obligations.CloseBankFollowsTheTable : Prop :=
  ∀ (s : State) (r : Request), s.oldest? .closeBank = some r → r.form = 0 → r.body.length = 4 →
    ∃ t, exec .closeBank s = .next t ∧
    (match r.bank? with
    | none => s.answered t r .badValue none [] ∧ t.bankStore = s.bankStore
    | some b =>
      (match (s.bank b).state with
      | .empty => s.answered t r .wrongState none [] ∧ t.bankStore = s.bankStore
      | .ready => s.answered t r .done none [] ∧ t.bankStore = s.bankStore
      | .live => s.answered t r .done none [] ∧ t.bankStore = s.bankStore
      | .loading =>
        if (∀ i, i < (s.bank b).nb → ∀ g, g < segmentCount (s.bank b).ab → (s.bank b).covered i g = true) then
          s.answered t r .done none [] ∧ t.bank b = { s.bank b with state := .ready } ∧ t.bank b.other = s.bank b.other
        else t.bankStore = s.bankStore ∧ ∃ n i g, s.answered t r .incomplete none (leBytes 4 n ++ placeBytes (i, g))
          ∧ n = ((List.range (s.bank b).nb).map (fun c =>
              (List.range (segmentCount (s.bank b).ab)).countP (fun m => !(s.bank b).covered c m))).sum
          ∧ i < (s.bank b).nb ∧ g < segmentCount (s.bank b).ab ∧ (s.bank b).covered i g = false
          ∧ (∀ c m, m < segmentCount (s.bank b).ab → c < i ∨ (c = i ∧ m < g) → (s.bank b).covered c m = true)
          ∧ ∃ x y, (s.bank b).header = x ++ leBytes 4 n ++ placeBytes (i, g) ++ y))

/-- SWAP BANK (R48). What a scheduled swap does is OpeningRecordsTagBankAndTime. -/
def Obligations.SwapBankIsScheduledInTheOrderOfItsChecks : Prop :=
  ∀ (s : State) (r : Request), s.oldest? .swapBank = some r → r.form = 0 → r.body.length = 4 → r.field 1 1 ≤ 1 →
    ∃ t, exec .swapBank s = .next t ∧
    (match r.bank? with
    | none => s.answered t r .badValue none [] ∧ t.bankStore = s.bankStore
    | some b =>
      if (s.bank b).state ≠ .ready ∨ (s.bank .zero).swapMark ≠ none ∨ (s.bank .one).swapMark ≠ none then
        s.answered t r .wrongState none [] ∧ t.bankStore = s.bankStore
      else if (s.bank b).nb ≠ (s.port .zero).config.slopeCount + (s.port .one).config.slopeCount
          ∨ (s.bank b).ab ≠ s.params.actuators ∨ s.params.actuators = 0 then
        s.answered t r .mismatch none [] ∧ t.bankStore = s.bankStore
      else s.answered t r .done none [] ∧ t.bank b.other = s.bank b.other
        ∧ t.bank b = { s.bank b with
            swapMark := some (if r.field 1 1 = 1 then SwapTarget.next else .tag (BitVec.ofNat 16 (r.field 2 2))) })

/-- The loop requests (R136 to R138) with the bumpless load (R110) and the reset of the integrators (R112; its counter is R113's, log entry 15). -/
def Obligations.LoopRequestsChangeTheLoop : Prop :=
  ∀ (s : State) (r : Request) (ready : Bool), s.isTail = true → r.body = [] →
    (ready = true ↔ ((s.bank .zero).state = .live ∨ (s.bank .one).state = .live) ∧ 0 < s.params.actuators
      ∧ s.mirror.up = true ∧ s.isPending .mirrorLinkLost = false ∧ s.isPending .driverFault = false
      ∧ s.mirror.misses < s.params.echoMissLimit) →
    (s.oldest? .loopOff = some r → ∃ t, exec .loopOff s = .next t ∧
      (if s.loop.state = .opened ∨ s.loop.state = .closed ∨ s.loop.state = .held then
        t.loop.state = .off ∧ t.loop.starvation = none ∧ t.poke = none ∧ s.countedIf t s.poke.isSome .sequencesAborted
        ∧ (s.loop.state ≠ .held → t.mgmt.actuatorQueue = [])
        ∧ (s.poke = none → s.loop.state = .held ∨ s.mgmt.actuatorQueue = [] → s.answered t r .done none [])
      else s.answered t r .wrongState none [] ∧ t.loop = s.loop ∧ t.tables = s.tables))
    ∧ (s.oldest? .loopOpen = some r → ∃ t, exec .loopOpen s = .next t ∧ t.tables = s.tables ∧
      (if (s.loop.state = .off ∨ s.loop.state = .closed ∨ s.loop.state = .held) ∧ ready = true then
        s.answered t r .done none [] ∧ t.loop.state = .opened ∧ t.loop.starvation = some s.now
      else s.answered t r .wrongState none [] ∧ t.loop = s.loop))
    ∧ (s.oldest? .loopClose = some r → ∃ t, exec .loopClose s = .next t ∧
      (if (s.loop.state = .opened ∨ s.loop.state = .held) ∧ ready = true then
        s.answered t r .done none [] ∧ t.loop.state = .closed ∧ t.loop.badFrames = 0 ∧ t.loop.satRun = 0
        ∧ t.loop.starvation = some s.now ∧ s.countedIf t (s.loop.state == .opened) .bumplessLoads
        ∧ { t.tables with integrators := s.tables.integrators } = s.tables
        ∧ (s.loop.state = .held → t.tables = s.tables)
        ∧ (s.loop.state = .opened → ∀ j, j < 6144 → t.tables.integrators.get j =
            clampInt (s.actuator j).lo (s.actuator j).hi (s.tables.openShape.get j) * 65536)
      else s.answered t r .wrongState none [] ∧ t.loop = s.loop ∧ t.tables = s.tables))
    ∧ (s.oldest? .loopHold = some r → ∃ t, exec .loopHold s = .next t ∧
      (if s.loop.state = .opened ∨ s.loop.state = .closed then
        t.loop.state = .held ∧ t.loop.starvation = none ∧ t.poke = s.poke ∧ t.mgmt.actuatorQueue = []
        ∧ (s.mgmt.actuatorQueue = [] → s.answered t r .done none [])
      else s.answered t r .wrongState none [] ∧ t.loop = s.loop ∧ t.tables = s.tables))
    ∧ (s.oldest? .resetIntegrators = some r → ∃ t, exec .resetIntegrators s = .next t ∧ t.loop = s.loop ∧
      (if s.loop.state = .off ∨ s.loop.state = .opened ∨ s.loop.state = .held then
        s.answered t r .done none [] ∧ s.counted t .integratorResets 1
        ∧ { t.tables with integrators := s.tables.integrators } = s.tables
        ∧ ∀ j, j < 6144 → t.tables.integrators.get j = (s.actuator j).park * 65536
      else s.answered t r .wrongState none [] ∧ t.tables = s.tables))

/-- POKE START (R160) with the engine's state (R159) and the place of a record (R38). -/
def Obligations.PokeStartInTheOrderOfItsChecks : Prop :=
  ∀ (s : State) (r : Request), s.oldest? .pokeStart = some r → r.form = 0 → ∃ t, exec .pokeStart s = .next t ∧
    (if s.params.role = .head ∨ s.params.role = .middle then
      s.answered t r .notTail none [] ∧ t.poke = s.poke ∧ t.arbiter = s.arbiter
    else if r.body.length ≠ 4 then s.answered t r .badRequest none [] ∧ t.poke = s.poke ∧ t.arbiter = s.arbiter
    else if 1023 < r.field 0 2 then s.answered t r .badValue none [] ∧ t.poke = s.poke ∧ t.arbiter = s.arbiter
    else if ¬(s.loop.state = .opened ∨ s.loop.state = .closed) ∨ s.poke ≠ none then
      s.answered t r .wrongState none [] ∧ t.poke = s.poke ∧ t.arbiter = s.arbiter
    else s.answered t r .done none [] ∧ s.counted t .sequencesStarted 1
      ∧ (∃ e, t.poke = some e ∧ e.current = r.field 0 2 ∧ e.copy = none ∧ e.phase = .push ∧ e.prefetched = none)
      ∧ ∃ b : Burst, b.job = .pokeFetch (r.field 0 2) ∧ b.address = 469762048 + 128 * r.field 0 2 ∧ b.length = 128
        ∧ (b ∈ t.arbiter.pokeFetch ∨ t.arbiter.inProgress = some b))

/-- CLEAR FAULT (R194, R146) and the common refusals (R184). That WRITE_OBJECT_OTHER answers requests of unknown kind or form is log entry 16. -/
def Obligations.ClearFaultAndRefusals : Prop :=
  ∀ (s : State) (r : Request),
    (s.oldest? .clearFault = some r → r.form = 0 → r.body = [] → ∃ t, exec .clearFault s = .next t
      ∧ t.events.pending &&& fatalSet = 0 ∧ t.events.reported = 0 ∧ t.events.enabled = s.events.enabled
      ∧ t.events.critical = s.events.critical ∧ t.events.reportEnable = s.events.reportEnable
      ∧ (∀ p : Ix, (t.port p).state = if (s.port p).state = .stopped then .running else (s.port p).state)
      ∧ (if s.isTail = true then
          t.mirror = { s.mirror with misses := 0 } ∧ t.loop.snapshot = s.loop.snapshot
          ∧ t.loop.snapshotState = (if s.loop.snapshotState = .held then .released else s.loop.snapshotState)
          ∧ (s.loop.state = .safe → t.loop.state = .off ∧ t.safeOut = false ∧ t.loop.parkRefresh = none)
          ∧ (s.loop.state ≠ .safe → t.loop.state = s.loop.state ∧ t.safeOut = s.safeOut)
        else t.loop = s.loop ∧ t.safeOut = s.safeOut ∧ t.mirror = s.mirror)
      ∧ (s.events.reportEnable = false ∨ s.events.holdoff.isSome = true → s.answered t r .done none []))
    ∧ (∀ i : Instr, (s.params.role = .head ∨ s.params.role = .middle) →
      (i = .loopOff ∨ i = .loopOpen ∨ i = .loopClose ∨ i = .loopHold ∨ i = .resetIntegrators
        ∨ (i = .pokeStop ∧ r.form = 0)) →
      s.oldest? i = some r → ∃ t, exec i s = .next t ∧ s.answered t r .notTail none [] ∧ s.counted t .requestsRefused 1
      ∧ t.loop = s.loop ∧ t.poke = s.poke ∧ t.tables = s.tables)
    ∧ (s.oldest? .writeObjectOther = some r → ∃ t, exec .writeObjectOther s = .next t ∧ s.counted t .requestsRefused 1
      ∧ s.answered t r
        (if 4 < r.payload.length ∧ r.kind = 2 ∧ r.form = 0 then .badObject else .badRequest) none [])

/-- NODE RESET: its response and the moments at which it begins (R73), and its beginning (R195). That the reset is due between its moment and NODE_RESET_BEGIN, with other commands having their effect, is log entry 24; that NODE_RESET_BEGIN of a reset that is not due changes nothing is log entry 17. -/
def Obligations.NodeResetWaitsForItsResponseAndResets : Prop :=
  (∀ (s : State) (r : Request), s.oldest? .nodeReset = some r → r.form = 0 → r.body = [] → ∃ t, exec .nodeReset s = .next t
      ∧ t.mgmt.queue = s.mgmt.queue.drop 1
      ∧ t.trunk = (s.placeControl ⟨s.responseFrame r .done none [], true⟩).trunk
      ∧ t.mgmt.reset = if 16 ≤ s.trunk.control.length ∨ s.trunk.toUp = false then .due else .waiting)
    ∧ (∀ (s : State) (x : Sending), s.trunk.sending = some x →
      ∃ t, exec .toSendEnd s = .next t ∧ t.mgmt.reset =
        if x.frame.resetResponse = true ∧ s.mgmt.reset = .waiting then .due else s.mgmt.reset)
    ∧ (∀ s : State, s.trunk.toUp = true → ∃ t, exec .toLinkDown s = .next t ∧ t.trunk.toUp = false
      ∧ t.trunk.sending = none ∧ t.mgmt.reset = if s.mgmt.reset = .waiting then .due else s.mgmt.reset)
    ∧ (∀ s : State, s.mgmt.reset ≠ .due → exec .nodeResetBegin s = .next s)
    ∧ ∀ s : State, s.mgmt.reset = .due → ∃ t, exec .nodeResetBegin s = .next t
      ∧ (∀ c : Ix, (t.ctx c).state = .free) ∧ t.frames.newestOpened = none ∧ t.frames.newestDelivered = none
      ∧ t.frames.jobs = [] ∧ t.lastApplied = none
      ∧ (∀ p : Ix, (t.port p).freeCount = 8192 ∧ (t.port p).readPos = 0 ∧ (t.port p).writePos = 0
          ∧ (t.port p).reception = none ∧ (t.port p).config = (s.port p).config ∧ (t.port p).linkUp = (s.port p).linkUp
          ∧ (t.port p).state = if (s.port p).config.enabled = true then .running else .idle)
      ∧ (∀ i, t.engine.hold.get i = none) ∧ t.engine.refs = s.engine.refs
      ∧ t.trunk = { s.trunk with
          realtime := [], control := []
          sending := s.trunk.sending.map (fun x => { x with frame := { x.frame with resetResponse := false } }) }
      ∧ t.arbiter.columnFetch = [] ∧ t.arbiter.pokeFetch = [] ∧ t.arbiter.telemetryWrite = []
      ∧ t.arbiter.telemetryRead = [] ∧ t.arbiter.management = []
      ∧ (∀ b : Ix, t.bank b = { s.bank b with swapMark := none, useCount := 0 })
      ∧ s.countedIf t s.swap?.isSome .swapsCancelled
      ∧ t.mgmt = ⟨[], none, [], [], .none⟩ ∧ t.events = { Events.powerOn with frameNumber := s.events.frameNumber }
      ∧ t.loop.state = .off ∧ t.safeOut = false ∧ t.loop.badFrames = 0 ∧ t.loop.satRun = 0 ∧ t.loop.starvation = none
      ∧ t.loop.parkRefresh = none ∧ t.loop.snapshot = s.loop.snapshot
      ∧ t.loop.snapshotState = (if s.loop.snapshotState = .held then .released else s.loop.snapshotState)
      ∧ t.poke = none ∧ t.mirror.echoes = [] ∧ t.mirror.misses = 0 ∧ t.mirror.up = s.mirror.up
      ∧ t.mirror.shapeNumber = s.mirror.shapeNumber ∧ t.mirror.waiting = none
      ∧ t.mirror.sending = s.mirror.sending.map (fun f => { f with makesEntry := false })
      ∧ (∀ j, j < 6144 → t.tables.integrators.get j = (s.actuator j).park * 65536
          ∧ t.tables.lastOutputs.get j = (s.actuator j).park ∧ t.actuator j = s.actuator j)
      ∧ t.telemetry = Telemetry.reset ∧ t.now = s.now ∧ t.params = s.params ∧ t.nodeNumber = s.nodeNumber
      ∧ t.dram = s.dram ∧ t.tables.gains = s.tables.gains ∧ t.tables.openShape = s.tables.openShape
      ∧ t.tables.actuators = s.tables.actuators ∧ t.tables.overrides = s.tables.overrides ∧ t.tables.slaves = s.tables.slaves
      ∧ t.tables.pairs = s.tables.pairs ∧ t.tables.pairCount = s.tables.pairCount

/-- The offer with decimation (R173), the room test and the write (R174, R175), the drop (R176), the record's bytes (R170, R171, R202) and the trigger (R177). The poke record under the IDLE mark is a free value (log entry 9); the order of the effects of raising an event is log entry 18. -/
def Obligations.TelemetryOfferIsRecordedDroppedOrRefused : Prop :=
  (∀ (s : State) (c : Ix), (s.ctx c).state = .done → ∃ t, s.offer c = t ∧
    if ¬(s.telemetry.state = .running ∨ s.telemetry.state = .triggered) then
      t.telemetry = s.telemetry ∧ t.ctx c = Context.free ∧ t.arbiter = s.arbiter
    else t.telemetry.phase = (if s.telemetry.phase + 1 < s.telemetry.config.decimation then s.telemetry.phase + 1 else 0) ∧
    if s.telemetry.phase ≠ 0 then
      t.telemetry = { s.telemetry with phase := t.telemetry.phase } ∧ t.ctx c = Context.free ∧ t.arbiter = s.arbiter
    else t.telemetry.nextRecord = s.telemetry.nextRecord + 1 ∧ t.telemetry.lengths = s.telemetry.lengths
      ∧ t.telemetry.readPos = s.telemetry.readPos ∧ t.telemetry.writePos = s.telemetry.writePos
      ∧ (s.telemetry.inFlight = none → t.counter .telemetryDropped = s.counter .telemetryDropped)
      ∧ (∀ o, s.telemetry.inFlight = some o → s.counted t .telemetryDropped 1 ∧ (o.ctx ≠ c → (t.ctx o.ctx).state = .free))
      ∧ ((∀ o, s.telemetry.inFlight = some o → o.ctx ≠ c) →
        ∀ (x : Context) (slopes residuals commands : Bool) (n : Nat), x = s.ctx c → slopes = s.telemetry.config.slopeSection →
        residuals = (s.telemetry.config.residualSection && (s.params.role == .tail || s.params.role == .solo)) →
        commands = (s.telemetry.config.commandSection && (s.params.role == .tail || s.params.role == .solo) && x.applied) →
        n = (32 + (if slopes = true then 2 * s.slopeTotal else 0) + (if residuals = true then 2 * x.residuals.length else 0)
          + (if commands = true then 2 * x.commands.length else 0) + 31) / 32 →
        if s.telemetry.config.fullMode = .stop ∧ s.telemetry.ringSize - s.telemetry.lengths.sum < n then
          t.telemetry.state = .stopped ∧ t.telemetry.inFlight = none ∧ s.counted t .refusedFull 1
          ∧ s.raised t .telemetryFull ∧ t.ctx c = Context.free
        else t.telemetry.state = s.telemetry.state ∧ t.telemetry.inFlight = some ⟨c, n⟩ ∧ t.ctx c = x ∧ ∃ bs : List Burst,
          (s.telemetry.inFlight = none → s.arbiter.inProgress.isSome = true →
            t.arbiter = { s.arbiter with telemetryWrite := s.arbiter.telemetryWrite ++ bs })
          ∧ (∀ b ∈ t.arbiter.telemetryWrite, s.telemetry.inFlight ≠ none → b.job = .telemetryWrite → b ∈ bs)
          ∧ (∀ b ∈ bs, b.job = .telemetryWrite ∧ b.length ≤ 1024 ∧ b.length = b.data.length ∧ b.dropped = false)
          ∧ (∀ k b, bs[k]? = some b → (b.last = true ↔ k + 1 = bs.length))
          ∧ (s.telemetry.config.ringStart ≤ s.telemetry.writePos → s.telemetry.writePos < s.telemetry.config.ringEnd →
            burstAddresses bs = ringAddresses s.telemetry.config s.telemetry.writePos n
            ∧ ∃ (idle zeros : List Byte), idle.length = 2 ∧ (∀ z ∈ zeros, z = 0) ∧ zeros.length < 32
            ∧ bs.flatMap Burst.data =
              leBytes 4 s.telemetry.nextRecord.toNat ++ leBytes 2 n
              ++ leBytes 1 ((if slopes = true then 1 else 0) + (if residuals = true then 2 else 0)
                + (if commands = true then 4 else 0) + 128 * x.bank.toNat)
              ++ leBytes 1 ((match x.cls with | .none => 0 | .good => 1 | .late => 2 | .incomplete => 3)
                + if x.applied = true then 128 else 0)
              ++ leBytes 2 x.tag.toNat
              ++ leBytes 1 (match x.finishLoop with | .off => 0 | .opened => 1 | .closed => 2 | .held => 3 | .safe => 4)
              ++ leBytes 1 (match x.poke with
                | .idle => 2
                | .active _ .push withheld => if withheld = true then 128 else 0
                | .active _ .pull withheld => if withheld = true then 129 else 1)
              ++ leBytes 4 x.openTime.toNat ++ leBytes 4 x.finishTime.toNat ++ leBytes 2 x.flags.toNat
              ++ leBytes 1 x.frameMask.toNat ++ leBytes 1 x.segFlags.toNat ++ leBytes 2 x.label.toNat
              ++ leBytes 2 ((s.port .zero).config.slopeCount + (s.port .one).config.slopeCount)
              ++ leBytes 2 s.params.actuators
              ++ (match x.poke with | .idle => idle | .active k _ _ => leBytes 2 k)
              ++ (if slopes = true then
                (List.range s.slopeTotal).flatMap (fun i => leBytes 2 (BitVec.ofInt 16 (x.slopes.get i)).toNat) else [])
              ++ (if residuals = true then x.residuals.flatMap
                (fun e => leBytes 2 (BitVec.ofInt 16 (max (-32768) (min 32767 e))).toNat) else [])
              ++ (if commands = true then x.commands.flatMap (fun p => leBytes 2 (BitVec.ofInt 16 p).toNat) else [])
              ++ zeros)))
  ∧ ∀ (s : State) (e : Event),
    if s.isPending e = false ∧ hasEvent s.telemetry.config.triggerMask e = true ∧ s.telemetry.state = .running then
      s.counted (s.raise e) .triggers 1 ∧ (s.raise e).telemetry.remaining = s.telemetry.config.postTrigger
      ∧ (s.telemetry.config.postTrigger = 0 →
          (s.raise e).telemetry.state = .frozen ∧ s.raised (s.raise e) .telemetryTriggered)
      ∧ (s.telemetry.config.postTrigger ≠ 0 → (s.raise e).telemetry.state = .triggered)
    else (s.raise e).telemetry = s.telemetry ∧ (s.raise e).counter .triggers = s.counter .triggers
end

