-- ==== Sys2Proof/Laws/State.lean ====
section
/-! SUPPORT. For each update of a part of the state, one lemma per part that it leaves alone, and what it makes of the part
that it writes; all of them true by definition. -/

-- One theorem after the other, so that checking the whole package keeps to few threads.
set_option Elab.async false

namespace Sys2Proof.Machine

/-! ## Pairs -/

@[simp] theorem Pair_get_set_same {α : Type} (p : Pair α) (i : Ix) (x : α) : (p.set i x).get i = x := by cases i <;> rfl

@[simp] theorem Pair_get_set_other {α : Type} (p : Pair α) (i : Ix) (x : α) : (p.set i x).get i.other = p.get i.other := by
  cases i <;> rfl

@[simp] theorem Pair_get_other_set {α : Type} (p : Pair α) (i : Ix) (x : α) : (p.set i.other x).get i = p.get i := by
  cases i <;> rfl

theorem Pair_get_set_ne {α : Type} (p : Pair α) {i j : Ix} (h : j ≠ i) (x : α) : (p.set i x).get j = p.get j := by
  cases i <;> cases j <;> first | rfl | exact absurd rfl h

@[simp] theorem Ix_other_other (i : Ix) : i.other.other = i := by cases i <;> rfl

@[simp] theorem Ix_other_ne (i : Ix) : i.other ≠ i := by cases i <;> decide

/-! ## The part that an update writes -/

@[simp] theorem State_ctx_setCtx (s : State) (c : Ix) (x : Context) : (s.setCtx c x).ctx c = x := by
  cases c <;> rfl

@[simp] theorem State_ctx_setCtx_other (s : State) (c : Ix) (x : Context) : (s.setCtx c x).ctx c.other = s.ctx c.other := by
  cases c <;> rfl

@[simp] theorem State_port_setPort (s : State) (p : Ix) (x : Port) : (s.setPort p x).port p = x := by cases p <;> rfl

@[simp] theorem State_port_setPort_other (s : State) (p : Ix) (x : Port) : (s.setPort p x).port p.other = s.port p.other := by
  cases p <;> rfl

@[simp] theorem State_bank_setBank (s : State) (b : Ix) (x : Bank) : (s.setBank b x).bank b = x := by cases b <;> rfl

@[simp] theorem State_bank_setBank_other (s : State) (b : Ix) (x : Bank) : (s.setBank b x).bank b.other = s.bank b.other := by
  cases b <;> rfl

@[simp] theorem State_arbiter_setArbiter (s : State) (a : Arbiter) : (s.setArbiter a).arbiter = a := rfl

@[simp] theorem State_lastBad_setBank (s : State) (b : Ix) (x : Bank) : (s.setBank b x).bankStore.lastBad = s.bankStore.lastBad :=
  rfl

@[simp] theorem State_executing_leaveExecution (s : State) : s.leaveExecution.mgmt.executing = none := rfl

@[simp] theorem State_queue_dequeue (s : State) : s.dequeue.mgmt.queue = s.mgmt.queue.drop 1 := rfl

@[simp] theorem State_loopState_enterRunning (s : State) (l : LoopState) : (s.enterRunning l).loop.state = l := rfl

/-! ## The parts that an update leaves alone -/

@[simp] theorem State_setCtx_pending (s : State) (c : Ix) (x : Context) : (s.setCtx c x).pending = s.pending := rfl
@[simp] theorem State_setCtx_nodeNumber (s : State) (c : Ix) (x : Context) : (s.setCtx c x).nodeNumber = s.nodeNumber := rfl
@[simp] theorem State_setCtx_safeOut (s : State) (c : Ix) (x : Context) : (s.setCtx c x).safeOut = s.safeOut := rfl
@[simp] theorem State_setCtx_counters (s : State) (c : Ix) (x : Context) : (s.setCtx c x).counters = s.counters := rfl
@[simp] theorem State_setCtx_params (s : State) (c : Ix) (x : Context) : (s.setCtx c x).params = s.params := rfl
@[simp] theorem State_setCtx_ports (s : State) (c : Ix) (x : Context) : (s.setCtx c x).ports = s.ports := rfl
@[simp] theorem State_setCtx_engine (s : State) (c : Ix) (x : Context) : (s.setCtx c x).engine = s.engine := rfl
@[simp] theorem State_setCtx_bankStore (s : State) (c : Ix) (x : Context) : (s.setCtx c x).bankStore = s.bankStore := rfl
@[simp] theorem State_setCtx_dram (s : State) (c : Ix) (x : Context) : (s.setCtx c x).dram = s.dram := rfl
@[simp] theorem State_setCtx_arbiter (s : State) (c : Ix) (x : Context) : (s.setCtx c x).arbiter = s.arbiter := rfl
@[simp] theorem State_setCtx_trunk (s : State) (c : Ix) (x : Context) : (s.setCtx c x).trunk = s.trunk := rfl
@[simp] theorem State_setCtx_lastApplied (s : State) (c : Ix) (x : Context) : (s.setCtx c x).lastApplied = s.lastApplied := rfl
@[simp] theorem State_setCtx_tables (s : State) (c : Ix) (x : Context) : (s.setCtx c x).tables = s.tables := rfl
@[simp] theorem State_setCtx_loop (s : State) (c : Ix) (x : Context) : (s.setCtx c x).loop = s.loop := rfl
@[simp] theorem State_setCtx_mirror (s : State) (c : Ix) (x : Context) : (s.setCtx c x).mirror = s.mirror := rfl
@[simp] theorem State_setCtx_poke (s : State) (c : Ix) (x : Context) : (s.setCtx c x).poke = s.poke := rfl
@[simp] theorem State_setCtx_telemetry (s : State) (c : Ix) (x : Context) : (s.setCtx c x).telemetry = s.telemetry := rfl
@[simp] theorem State_setCtx_mgmt (s : State) (c : Ix) (x : Context) : (s.setCtx c x).mgmt = s.mgmt := rfl
@[simp] theorem State_setCtx_events (s : State) (c : Ix) (x : Context) : (s.setCtx c x).events = s.events := rfl

@[simp] theorem State_setPort_pending (s : State) (p : Ix) (x : Port) : (s.setPort p x).pending = s.pending := rfl
@[simp] theorem State_setPort_nodeNumber (s : State) (p : Ix) (x : Port) : (s.setPort p x).nodeNumber = s.nodeNumber := rfl
@[simp] theorem State_setPort_safeOut (s : State) (p : Ix) (x : Port) : (s.setPort p x).safeOut = s.safeOut := rfl
@[simp] theorem State_setPort_counters (s : State) (p : Ix) (x : Port) : (s.setPort p x).counters = s.counters := rfl
@[simp] theorem State_setPort_params (s : State) (p : Ix) (x : Port) : (s.setPort p x).params = s.params := rfl
@[simp] theorem State_setPort_engine (s : State) (p : Ix) (x : Port) : (s.setPort p x).engine = s.engine := rfl
@[simp] theorem State_setPort_frames (s : State) (p : Ix) (x : Port) : (s.setPort p x).frames = s.frames := rfl
@[simp] theorem State_setPort_bankStore (s : State) (p : Ix) (x : Port) : (s.setPort p x).bankStore = s.bankStore := rfl
@[simp] theorem State_setPort_dram (s : State) (p : Ix) (x : Port) : (s.setPort p x).dram = s.dram := rfl
@[simp] theorem State_setPort_arbiter (s : State) (p : Ix) (x : Port) : (s.setPort p x).arbiter = s.arbiter := rfl
@[simp] theorem State_setPort_trunk (s : State) (p : Ix) (x : Port) : (s.setPort p x).trunk = s.trunk := rfl
@[simp] theorem State_setPort_lastApplied (s : State) (p : Ix) (x : Port) : (s.setPort p x).lastApplied = s.lastApplied := rfl
@[simp] theorem State_setPort_tables (s : State) (p : Ix) (x : Port) : (s.setPort p x).tables = s.tables := rfl
@[simp] theorem State_setPort_loop (s : State) (p : Ix) (x : Port) : (s.setPort p x).loop = s.loop := rfl
@[simp] theorem State_setPort_mirror (s : State) (p : Ix) (x : Port) : (s.setPort p x).mirror = s.mirror := rfl
@[simp] theorem State_setPort_poke (s : State) (p : Ix) (x : Port) : (s.setPort p x).poke = s.poke := rfl
@[simp] theorem State_setPort_telemetry (s : State) (p : Ix) (x : Port) : (s.setPort p x).telemetry = s.telemetry := rfl
@[simp] theorem State_setPort_mgmt (s : State) (p : Ix) (x : Port) : (s.setPort p x).mgmt = s.mgmt := rfl
@[simp] theorem State_setPort_events (s : State) (p : Ix) (x : Port) : (s.setPort p x).events = s.events := rfl

@[simp] theorem State_setBank_pending (s : State) (b : Ix) (x : Bank) : (s.setBank b x).pending = s.pending := rfl
@[simp] theorem State_setBank_nodeNumber (s : State) (b : Ix) (x : Bank) : (s.setBank b x).nodeNumber = s.nodeNumber := rfl
@[simp] theorem State_setBank_safeOut (s : State) (b : Ix) (x : Bank) : (s.setBank b x).safeOut = s.safeOut := rfl
@[simp] theorem State_setBank_counters (s : State) (b : Ix) (x : Bank) : (s.setBank b x).counters = s.counters := rfl
@[simp] theorem State_setBank_params (s : State) (b : Ix) (x : Bank) : (s.setBank b x).params = s.params := rfl
@[simp] theorem State_setBank_ports (s : State) (b : Ix) (x : Bank) : (s.setBank b x).ports = s.ports := rfl
@[simp] theorem State_setBank_engine (s : State) (b : Ix) (x : Bank) : (s.setBank b x).engine = s.engine := rfl
@[simp] theorem State_setBank_frames (s : State) (b : Ix) (x : Bank) : (s.setBank b x).frames = s.frames := rfl
@[simp] theorem State_setBank_dram (s : State) (b : Ix) (x : Bank) : (s.setBank b x).dram = s.dram := rfl
@[simp] theorem State_setBank_arbiter (s : State) (b : Ix) (x : Bank) : (s.setBank b x).arbiter = s.arbiter := rfl
@[simp] theorem State_setBank_trunk (s : State) (b : Ix) (x : Bank) : (s.setBank b x).trunk = s.trunk := rfl
@[simp] theorem State_setBank_lastApplied (s : State) (b : Ix) (x : Bank) : (s.setBank b x).lastApplied = s.lastApplied := rfl
@[simp] theorem State_setBank_tables (s : State) (b : Ix) (x : Bank) : (s.setBank b x).tables = s.tables := rfl
@[simp] theorem State_setBank_loop (s : State) (b : Ix) (x : Bank) : (s.setBank b x).loop = s.loop := rfl
@[simp] theorem State_setBank_mirror (s : State) (b : Ix) (x : Bank) : (s.setBank b x).mirror = s.mirror := rfl
@[simp] theorem State_setBank_poke (s : State) (b : Ix) (x : Bank) : (s.setBank b x).poke = s.poke := rfl
@[simp] theorem State_setBank_telemetry (s : State) (b : Ix) (x : Bank) : (s.setBank b x).telemetry = s.telemetry := rfl
@[simp] theorem State_setBank_mgmt (s : State) (b : Ix) (x : Bank) : (s.setBank b x).mgmt = s.mgmt := rfl
@[simp] theorem State_setBank_events (s : State) (b : Ix) (x : Bank) : (s.setBank b x).events = s.events := rfl

@[simp] theorem State_setArbiter_pending (s : State) (a : Arbiter) : (s.setArbiter a).pending = s.pending := rfl
@[simp] theorem State_setArbiter_nodeNumber (s : State) (a : Arbiter) : (s.setArbiter a).nodeNumber = s.nodeNumber := rfl
@[simp] theorem State_setArbiter_safeOut (s : State) (a : Arbiter) : (s.setArbiter a).safeOut = s.safeOut := rfl
@[simp] theorem State_setArbiter_counters (s : State) (a : Arbiter) : (s.setArbiter a).counters = s.counters := rfl
@[simp] theorem State_setArbiter_params (s : State) (a : Arbiter) : (s.setArbiter a).params = s.params := rfl
@[simp] theorem State_setArbiter_ports (s : State) (a : Arbiter) : (s.setArbiter a).ports = s.ports := rfl
@[simp] theorem State_setArbiter_engine (s : State) (a : Arbiter) : (s.setArbiter a).engine = s.engine := rfl
@[simp] theorem State_setArbiter_frames (s : State) (a : Arbiter) : (s.setArbiter a).frames = s.frames := rfl
@[simp] theorem State_setArbiter_bankStore (s : State) (a : Arbiter) : (s.setArbiter a).bankStore = s.bankStore := rfl
@[simp] theorem State_setArbiter_dram (s : State) (a : Arbiter) : (s.setArbiter a).dram = s.dram := rfl
@[simp] theorem State_setArbiter_trunk (s : State) (a : Arbiter) : (s.setArbiter a).trunk = s.trunk := rfl
@[simp] theorem State_setArbiter_lastApplied (s : State) (a : Arbiter) : (s.setArbiter a).lastApplied = s.lastApplied := rfl
@[simp] theorem State_setArbiter_tables (s : State) (a : Arbiter) : (s.setArbiter a).tables = s.tables := rfl
@[simp] theorem State_setArbiter_loop (s : State) (a : Arbiter) : (s.setArbiter a).loop = s.loop := rfl
@[simp] theorem State_setArbiter_mirror (s : State) (a : Arbiter) : (s.setArbiter a).mirror = s.mirror := rfl
@[simp] theorem State_setArbiter_poke (s : State) (a : Arbiter) : (s.setArbiter a).poke = s.poke := rfl
@[simp] theorem State_setArbiter_telemetry (s : State) (a : Arbiter) : (s.setArbiter a).telemetry = s.telemetry := rfl
@[simp] theorem State_setArbiter_mgmt (s : State) (a : Arbiter) : (s.setArbiter a).mgmt = s.mgmt := rfl
@[simp] theorem State_setArbiter_events (s : State) (a : Arbiter) : (s.setArbiter a).events = s.events := rfl

@[simp] theorem State_withdraw_pending (s : State) (p : BurstJob → Bool) : (s.withdraw p).pending = s.pending := rfl
@[simp] theorem State_withdraw_nodeNumber (s : State) (p : BurstJob → Bool) : (s.withdraw p).nodeNumber = s.nodeNumber := rfl
@[simp] theorem State_withdraw_safeOut (s : State) (p : BurstJob → Bool) : (s.withdraw p).safeOut = s.safeOut := rfl
@[simp] theorem State_withdraw_counters (s : State) (p : BurstJob → Bool) : (s.withdraw p).counters = s.counters := rfl
@[simp] theorem State_withdraw_params (s : State) (p : BurstJob → Bool) : (s.withdraw p).params = s.params := rfl
@[simp] theorem State_withdraw_ports (s : State) (p : BurstJob → Bool) : (s.withdraw p).ports = s.ports := rfl
@[simp] theorem State_withdraw_engine (s : State) (p : BurstJob → Bool) : (s.withdraw p).engine = s.engine := rfl
@[simp] theorem State_withdraw_frames (s : State) (p : BurstJob → Bool) : (s.withdraw p).frames = s.frames := rfl
@[simp] theorem State_withdraw_bankStore (s : State) (p : BurstJob → Bool) : (s.withdraw p).bankStore = s.bankStore := rfl
@[simp] theorem State_withdraw_dram (s : State) (p : BurstJob → Bool) : (s.withdraw p).dram = s.dram := rfl
@[simp] theorem State_withdraw_trunk (s : State) (p : BurstJob → Bool) : (s.withdraw p).trunk = s.trunk := rfl
@[simp] theorem State_withdraw_lastApplied (s : State) (p : BurstJob → Bool) : (s.withdraw p).lastApplied = s.lastApplied := rfl
@[simp] theorem State_withdraw_tables (s : State) (p : BurstJob → Bool) : (s.withdraw p).tables = s.tables := rfl
@[simp] theorem State_withdraw_loop (s : State) (p : BurstJob → Bool) : (s.withdraw p).loop = s.loop := rfl
@[simp] theorem State_withdraw_mirror (s : State) (p : BurstJob → Bool) : (s.withdraw p).mirror = s.mirror := rfl
@[simp] theorem State_withdraw_poke (s : State) (p : BurstJob → Bool) : (s.withdraw p).poke = s.poke := rfl
@[simp] theorem State_withdraw_telemetry (s : State) (p : BurstJob → Bool) : (s.withdraw p).telemetry = s.telemetry := rfl
@[simp] theorem State_withdraw_mgmt (s : State) (p : BurstJob → Bool) : (s.withdraw p).mgmt = s.mgmt := rfl
@[simp] theorem State_withdraw_events (s : State) (p : BurstJob → Bool) : (s.withdraw p).events = s.events := rfl

@[simp] theorem State_bumpBy_pending (s : State) (c : Counter) (n : Nat) : (s.bumpBy c n).pending = s.pending := rfl
@[simp] theorem State_bumpBy_nodeNumber (s : State) (c : Counter) (n : Nat) : (s.bumpBy c n).nodeNumber = s.nodeNumber := rfl
@[simp] theorem State_bumpBy_safeOut (s : State) (c : Counter) (n : Nat) : (s.bumpBy c n).safeOut = s.safeOut := rfl
@[simp] theorem State_bumpBy_params (s : State) (c : Counter) (n : Nat) : (s.bumpBy c n).params = s.params := rfl
@[simp] theorem State_bumpBy_ports (s : State) (c : Counter) (n : Nat) : (s.bumpBy c n).ports = s.ports := rfl
@[simp] theorem State_bumpBy_engine (s : State) (c : Counter) (n : Nat) : (s.bumpBy c n).engine = s.engine := rfl
@[simp] theorem State_bumpBy_frames (s : State) (c : Counter) (n : Nat) : (s.bumpBy c n).frames = s.frames := rfl
@[simp] theorem State_bumpBy_bankStore (s : State) (c : Counter) (n : Nat) : (s.bumpBy c n).bankStore = s.bankStore := rfl
@[simp] theorem State_bumpBy_dram (s : State) (c : Counter) (n : Nat) : (s.bumpBy c n).dram = s.dram := rfl
@[simp] theorem State_bumpBy_arbiter (s : State) (c : Counter) (n : Nat) : (s.bumpBy c n).arbiter = s.arbiter := rfl
@[simp] theorem State_bumpBy_trunk (s : State) (c : Counter) (n : Nat) : (s.bumpBy c n).trunk = s.trunk := rfl
@[simp] theorem State_bumpBy_lastApplied (s : State) (c : Counter) (n : Nat) : (s.bumpBy c n).lastApplied = s.lastApplied := rfl
@[simp] theorem State_bumpBy_tables (s : State) (c : Counter) (n : Nat) : (s.bumpBy c n).tables = s.tables := rfl
@[simp] theorem State_bumpBy_loop (s : State) (c : Counter) (n : Nat) : (s.bumpBy c n).loop = s.loop := rfl
@[simp] theorem State_bumpBy_mirror (s : State) (c : Counter) (n : Nat) : (s.bumpBy c n).mirror = s.mirror := rfl
@[simp] theorem State_bumpBy_poke (s : State) (c : Counter) (n : Nat) : (s.bumpBy c n).poke = s.poke := rfl
@[simp] theorem State_bumpBy_telemetry (s : State) (c : Counter) (n : Nat) : (s.bumpBy c n).telemetry = s.telemetry := rfl
@[simp] theorem State_bumpBy_mgmt (s : State) (c : Counter) (n : Nat) : (s.bumpBy c n).mgmt = s.mgmt := rfl
@[simp] theorem State_bumpBy_events (s : State) (c : Counter) (n : Nat) : (s.bumpBy c n).events = s.events := rfl

@[simp] theorem State_bump_pending (s : State) (c : Counter) : (s.bump c).pending = s.pending := rfl
@[simp] theorem State_bump_nodeNumber (s : State) (c : Counter) : (s.bump c).nodeNumber = s.nodeNumber := rfl
@[simp] theorem State_bump_safeOut (s : State) (c : Counter) : (s.bump c).safeOut = s.safeOut := rfl
@[simp] theorem State_bump_params (s : State) (c : Counter) : (s.bump c).params = s.params := rfl
@[simp] theorem State_bump_ports (s : State) (c : Counter) : (s.bump c).ports = s.ports := rfl
@[simp] theorem State_bump_engine (s : State) (c : Counter) : (s.bump c).engine = s.engine := rfl
@[simp] theorem State_bump_frames (s : State) (c : Counter) : (s.bump c).frames = s.frames := rfl
@[simp] theorem State_bump_bankStore (s : State) (c : Counter) : (s.bump c).bankStore = s.bankStore := rfl
@[simp] theorem State_bump_dram (s : State) (c : Counter) : (s.bump c).dram = s.dram := rfl
@[simp] theorem State_bump_arbiter (s : State) (c : Counter) : (s.bump c).arbiter = s.arbiter := rfl
@[simp] theorem State_bump_trunk (s : State) (c : Counter) : (s.bump c).trunk = s.trunk := rfl
@[simp] theorem State_bump_lastApplied (s : State) (c : Counter) : (s.bump c).lastApplied = s.lastApplied := rfl
@[simp] theorem State_bump_tables (s : State) (c : Counter) : (s.bump c).tables = s.tables := rfl
@[simp] theorem State_bump_loop (s : State) (c : Counter) : (s.bump c).loop = s.loop := rfl
@[simp] theorem State_bump_mirror (s : State) (c : Counter) : (s.bump c).mirror = s.mirror := rfl
@[simp] theorem State_bump_poke (s : State) (c : Counter) : (s.bump c).poke = s.poke := rfl
@[simp] theorem State_bump_telemetry (s : State) (c : Counter) : (s.bump c).telemetry = s.telemetry := rfl
@[simp] theorem State_bump_mgmt (s : State) (c : Counter) : (s.bump c).mgmt = s.mgmt := rfl
@[simp] theorem State_bump_events (s : State) (c : Counter) : (s.bump c).events = s.events := rfl

@[simp] theorem State_setPending_pending (s : State) (e : Event) : (s.setPending e).pending = s.pending := rfl
@[simp] theorem State_setPending_nodeNumber (s : State) (e : Event) : (s.setPending e).nodeNumber = s.nodeNumber := rfl
@[simp] theorem State_setPending_safeOut (s : State) (e : Event) : (s.setPending e).safeOut = s.safeOut := rfl
@[simp] theorem State_setPending_counters (s : State) (e : Event) : (s.setPending e).counters = s.counters := rfl
@[simp] theorem State_setPending_params (s : State) (e : Event) : (s.setPending e).params = s.params := rfl
@[simp] theorem State_setPending_ports (s : State) (e : Event) : (s.setPending e).ports = s.ports := rfl
@[simp] theorem State_setPending_engine (s : State) (e : Event) : (s.setPending e).engine = s.engine := rfl
@[simp] theorem State_setPending_frames (s : State) (e : Event) : (s.setPending e).frames = s.frames := rfl
@[simp] theorem State_setPending_bankStore (s : State) (e : Event) : (s.setPending e).bankStore = s.bankStore := rfl
@[simp] theorem State_setPending_dram (s : State) (e : Event) : (s.setPending e).dram = s.dram := rfl
@[simp] theorem State_setPending_arbiter (s : State) (e : Event) : (s.setPending e).arbiter = s.arbiter := rfl
@[simp] theorem State_setPending_trunk (s : State) (e : Event) : (s.setPending e).trunk = s.trunk := rfl
@[simp] theorem State_setPending_lastApplied (s : State) (e : Event) : (s.setPending e).lastApplied = s.lastApplied := rfl
@[simp] theorem State_setPending_tables (s : State) (e : Event) : (s.setPending e).tables = s.tables := rfl
@[simp] theorem State_setPending_loop (s : State) (e : Event) : (s.setPending e).loop = s.loop := rfl
@[simp] theorem State_setPending_mirror (s : State) (e : Event) : (s.setPending e).mirror = s.mirror := rfl
@[simp] theorem State_setPending_poke (s : State) (e : Event) : (s.setPending e).poke = s.poke := rfl
@[simp] theorem State_setPending_telemetry (s : State) (e : Event) : (s.setPending e).telemetry = s.telemetry := rfl
@[simp] theorem State_setPending_mgmt (s : State) (e : Event) : (s.setPending e).mgmt = s.mgmt := rfl

@[simp] theorem State_markBegun_pending (s : State) : s.markBegun.pending = s.pending := rfl
@[simp] theorem State_markBegun_nodeNumber (s : State) : s.markBegun.nodeNumber = s.nodeNumber := rfl
@[simp] theorem State_markBegun_safeOut (s : State) : s.markBegun.safeOut = s.safeOut := rfl
@[simp] theorem State_markBegun_counters (s : State) : s.markBegun.counters = s.counters := rfl
@[simp] theorem State_markBegun_params (s : State) : s.markBegun.params = s.params := rfl
@[simp] theorem State_markBegun_ports (s : State) : s.markBegun.ports = s.ports := rfl
@[simp] theorem State_markBegun_engine (s : State) : s.markBegun.engine = s.engine := rfl
@[simp] theorem State_markBegun_frames (s : State) : s.markBegun.frames = s.frames := rfl
@[simp] theorem State_markBegun_bankStore (s : State) : s.markBegun.bankStore = s.bankStore := rfl
@[simp] theorem State_markBegun_dram (s : State) : s.markBegun.dram = s.dram := rfl
@[simp] theorem State_markBegun_arbiter (s : State) : s.markBegun.arbiter = s.arbiter := rfl
@[simp] theorem State_markBegun_trunk (s : State) : s.markBegun.trunk = s.trunk := rfl
@[simp] theorem State_markBegun_lastApplied (s : State) : s.markBegun.lastApplied = s.lastApplied := rfl
@[simp] theorem State_markBegun_tables (s : State) : s.markBegun.tables = s.tables := rfl
@[simp] theorem State_markBegun_loop (s : State) : s.markBegun.loop = s.loop := rfl
@[simp] theorem State_markBegun_mirror (s : State) : s.markBegun.mirror = s.mirror := rfl
@[simp] theorem State_markBegun_poke (s : State) : s.markBegun.poke = s.poke := rfl
@[simp] theorem State_markBegun_telemetry (s : State) : s.markBegun.telemetry = s.telemetry := rfl
@[simp] theorem State_markBegun_events (s : State) : s.markBegun.events = s.events := rfl

@[simp] theorem State_leaveExecution_pending (s : State) : s.leaveExecution.pending = s.pending := rfl
@[simp] theorem State_leaveExecution_nodeNumber (s : State) : s.leaveExecution.nodeNumber = s.nodeNumber := rfl
@[simp] theorem State_leaveExecution_safeOut (s : State) : s.leaveExecution.safeOut = s.safeOut := rfl
@[simp] theorem State_leaveExecution_counters (s : State) : s.leaveExecution.counters = s.counters := rfl
@[simp] theorem State_leaveExecution_params (s : State) : s.leaveExecution.params = s.params := rfl
@[simp] theorem State_leaveExecution_ports (s : State) : s.leaveExecution.ports = s.ports := rfl
@[simp] theorem State_leaveExecution_engine (s : State) : s.leaveExecution.engine = s.engine := rfl
@[simp] theorem State_leaveExecution_frames (s : State) : s.leaveExecution.frames = s.frames := rfl
@[simp] theorem State_leaveExecution_bankStore (s : State) : s.leaveExecution.bankStore = s.bankStore := rfl
@[simp] theorem State_leaveExecution_dram (s : State) : s.leaveExecution.dram = s.dram := rfl
@[simp] theorem State_leaveExecution_arbiter (s : State) : s.leaveExecution.arbiter = s.arbiter := rfl
@[simp] theorem State_leaveExecution_trunk (s : State) : s.leaveExecution.trunk = s.trunk := rfl
@[simp] theorem State_leaveExecution_lastApplied (s : State) : s.leaveExecution.lastApplied = s.lastApplied := rfl
@[simp] theorem State_leaveExecution_tables (s : State) : s.leaveExecution.tables = s.tables := rfl
@[simp] theorem State_leaveExecution_loop (s : State) : s.leaveExecution.loop = s.loop := rfl
@[simp] theorem State_leaveExecution_mirror (s : State) : s.leaveExecution.mirror = s.mirror := rfl
@[simp] theorem State_leaveExecution_poke (s : State) : s.leaveExecution.poke = s.poke := rfl
@[simp] theorem State_leaveExecution_telemetry (s : State) : s.leaveExecution.telemetry = s.telemetry := rfl
@[simp] theorem State_leaveExecution_events (s : State) : s.leaveExecution.events = s.events := rfl

@[simp] theorem State_dequeue_pending (s : State) : s.dequeue.pending = s.pending := rfl
@[simp] theorem State_dequeue_nodeNumber (s : State) : s.dequeue.nodeNumber = s.nodeNumber := rfl
@[simp] theorem State_dequeue_safeOut (s : State) : s.dequeue.safeOut = s.safeOut := rfl
@[simp] theorem State_dequeue_counters (s : State) : s.dequeue.counters = s.counters := rfl
@[simp] theorem State_dequeue_params (s : State) : s.dequeue.params = s.params := rfl
@[simp] theorem State_dequeue_ports (s : State) : s.dequeue.ports = s.ports := rfl
@[simp] theorem State_dequeue_engine (s : State) : s.dequeue.engine = s.engine := rfl
@[simp] theorem State_dequeue_frames (s : State) : s.dequeue.frames = s.frames := rfl
@[simp] theorem State_dequeue_bankStore (s : State) : s.dequeue.bankStore = s.bankStore := rfl
@[simp] theorem State_dequeue_dram (s : State) : s.dequeue.dram = s.dram := rfl
@[simp] theorem State_dequeue_arbiter (s : State) : s.dequeue.arbiter = s.arbiter := rfl
@[simp] theorem State_dequeue_trunk (s : State) : s.dequeue.trunk = s.trunk := rfl
@[simp] theorem State_dequeue_lastApplied (s : State) : s.dequeue.lastApplied = s.lastApplied := rfl
@[simp] theorem State_dequeue_tables (s : State) : s.dequeue.tables = s.tables := rfl
@[simp] theorem State_dequeue_loop (s : State) : s.dequeue.loop = s.loop := rfl
@[simp] theorem State_dequeue_mirror (s : State) : s.dequeue.mirror = s.mirror := rfl
@[simp] theorem State_dequeue_poke (s : State) : s.dequeue.poke = s.poke := rfl
@[simp] theorem State_dequeue_telemetry (s : State) : s.dequeue.telemetry = s.telemetry := rfl
@[simp] theorem State_dequeue_events (s : State) : s.dequeue.events = s.events := rfl

@[simp] theorem State_strike_pending (s : State) (ks : List Strike) : (s.strike ks).pending = s.pending := rfl
@[simp] theorem State_strike_nodeNumber (s : State) (ks : List Strike) : (s.strike ks).nodeNumber = s.nodeNumber := rfl
@[simp] theorem State_strike_safeOut (s : State) (ks : List Strike) : (s.strike ks).safeOut = s.safeOut := rfl
@[simp] theorem State_strike_counters (s : State) (ks : List Strike) : (s.strike ks).counters = s.counters := rfl
@[simp] theorem State_strike_params (s : State) (ks : List Strike) : (s.strike ks).params = s.params := rfl
@[simp] theorem State_strike_ports (s : State) (ks : List Strike) : (s.strike ks).ports = s.ports := rfl
@[simp] theorem State_strike_engine (s : State) (ks : List Strike) : (s.strike ks).engine = s.engine := rfl
@[simp] theorem State_strike_frames (s : State) (ks : List Strike) : (s.strike ks).frames = s.frames := rfl
@[simp] theorem State_strike_bankStore (s : State) (ks : List Strike) : (s.strike ks).bankStore = s.bankStore := rfl
@[simp] theorem State_strike_arbiter (s : State) (ks : List Strike) : (s.strike ks).arbiter = s.arbiter := rfl
@[simp] theorem State_strike_trunk (s : State) (ks : List Strike) : (s.strike ks).trunk = s.trunk := rfl
@[simp] theorem State_strike_lastApplied (s : State) (ks : List Strike) : (s.strike ks).lastApplied = s.lastApplied := rfl
@[simp] theorem State_strike_tables (s : State) (ks : List Strike) : (s.strike ks).tables = s.tables := rfl
@[simp] theorem State_strike_loop (s : State) (ks : List Strike) : (s.strike ks).loop = s.loop := rfl
@[simp] theorem State_strike_mirror (s : State) (ks : List Strike) : (s.strike ks).mirror = s.mirror := rfl
@[simp] theorem State_strike_poke (s : State) (ks : List Strike) : (s.strike ks).poke = s.poke := rfl
@[simp] theorem State_strike_telemetry (s : State) (ks : List Strike) : (s.strike ks).telemetry = s.telemetry := rfl
@[simp] theorem State_strike_mgmt (s : State) (ks : List Strike) : (s.strike ks).mgmt = s.mgmt := rfl
@[simp] theorem State_strike_events (s : State) (ks : List Strike) : (s.strike ks).events = s.events := rfl

@[simp] theorem State_dramWrite_pending (s : State) (a : Nat) (bytes : List Byte) : (s.dramWrite a bytes).pending = s.pending := rfl
@[simp] theorem State_dramWrite_nodeNumber (s : State) (a : Nat) (bytes : List Byte) : (s.dramWrite a bytes).nodeNumber = s.nodeNumber := rfl
@[simp] theorem State_dramWrite_safeOut (s : State) (a : Nat) (bytes : List Byte) : (s.dramWrite a bytes).safeOut = s.safeOut := rfl
@[simp] theorem State_dramWrite_counters (s : State) (a : Nat) (bytes : List Byte) : (s.dramWrite a bytes).counters = s.counters := rfl
@[simp] theorem State_dramWrite_params (s : State) (a : Nat) (bytes : List Byte) : (s.dramWrite a bytes).params = s.params := rfl
@[simp] theorem State_dramWrite_ports (s : State) (a : Nat) (bytes : List Byte) : (s.dramWrite a bytes).ports = s.ports := rfl
@[simp] theorem State_dramWrite_engine (s : State) (a : Nat) (bytes : List Byte) : (s.dramWrite a bytes).engine = s.engine := rfl
@[simp] theorem State_dramWrite_frames (s : State) (a : Nat) (bytes : List Byte) : (s.dramWrite a bytes).frames = s.frames := rfl
@[simp] theorem State_dramWrite_bankStore (s : State) (a : Nat) (bytes : List Byte) : (s.dramWrite a bytes).bankStore = s.bankStore := rfl
@[simp] theorem State_dramWrite_arbiter (s : State) (a : Nat) (bytes : List Byte) : (s.dramWrite a bytes).arbiter = s.arbiter := rfl
@[simp] theorem State_dramWrite_trunk (s : State) (a : Nat) (bytes : List Byte) : (s.dramWrite a bytes).trunk = s.trunk := rfl
@[simp] theorem State_dramWrite_lastApplied (s : State) (a : Nat) (bytes : List Byte) : (s.dramWrite a bytes).lastApplied = s.lastApplied := rfl
@[simp] theorem State_dramWrite_tables (s : State) (a : Nat) (bytes : List Byte) : (s.dramWrite a bytes).tables = s.tables := rfl
@[simp] theorem State_dramWrite_loop (s : State) (a : Nat) (bytes : List Byte) : (s.dramWrite a bytes).loop = s.loop := rfl
@[simp] theorem State_dramWrite_mirror (s : State) (a : Nat) (bytes : List Byte) : (s.dramWrite a bytes).mirror = s.mirror := rfl
@[simp] theorem State_dramWrite_poke (s : State) (a : Nat) (bytes : List Byte) : (s.dramWrite a bytes).poke = s.poke := rfl
@[simp] theorem State_dramWrite_telemetry (s : State) (a : Nat) (bytes : List Byte) : (s.dramWrite a bytes).telemetry = s.telemetry := rfl
@[simp] theorem State_dramWrite_mgmt (s : State) (a : Nat) (bytes : List Byte) : (s.dramWrite a bytes).mgmt = s.mgmt := rfl
@[simp] theorem State_dramWrite_events (s : State) (a : Nat) (bytes : List Byte) : (s.dramWrite a bytes).events = s.events := rfl

@[simp] theorem State_zeroHold_pending (s : State) : s.zeroHold.pending = s.pending := rfl
@[simp] theorem State_zeroHold_nodeNumber (s : State) : s.zeroHold.nodeNumber = s.nodeNumber := rfl
@[simp] theorem State_zeroHold_safeOut (s : State) : s.zeroHold.safeOut = s.safeOut := rfl
@[simp] theorem State_zeroHold_counters (s : State) : s.zeroHold.counters = s.counters := rfl
@[simp] theorem State_zeroHold_params (s : State) : s.zeroHold.params = s.params := rfl
@[simp] theorem State_zeroHold_ports (s : State) : s.zeroHold.ports = s.ports := rfl
@[simp] theorem State_zeroHold_frames (s : State) : s.zeroHold.frames = s.frames := rfl
@[simp] theorem State_zeroHold_bankStore (s : State) : s.zeroHold.bankStore = s.bankStore := rfl
@[simp] theorem State_zeroHold_dram (s : State) : s.zeroHold.dram = s.dram := rfl
@[simp] theorem State_zeroHold_arbiter (s : State) : s.zeroHold.arbiter = s.arbiter := rfl
@[simp] theorem State_zeroHold_trunk (s : State) : s.zeroHold.trunk = s.trunk := rfl
@[simp] theorem State_zeroHold_lastApplied (s : State) : s.zeroHold.lastApplied = s.lastApplied := rfl
@[simp] theorem State_zeroHold_tables (s : State) : s.zeroHold.tables = s.tables := rfl
@[simp] theorem State_zeroHold_loop (s : State) : s.zeroHold.loop = s.loop := rfl
@[simp] theorem State_zeroHold_mirror (s : State) : s.zeroHold.mirror = s.mirror := rfl
@[simp] theorem State_zeroHold_poke (s : State) : s.zeroHold.poke = s.poke := rfl
@[simp] theorem State_zeroHold_telemetry (s : State) : s.zeroHold.telemetry = s.telemetry := rfl
@[simp] theorem State_zeroHold_mgmt (s : State) : s.zeroHold.mgmt = s.mgmt := rfl
@[simp] theorem State_zeroHold_events (s : State) : s.zeroHold.events = s.events := rfl

@[simp] theorem State_zeroHoldOf_pending (s : State) (p : Ix) : (s.zeroHoldOf p).pending = s.pending := rfl
@[simp] theorem State_zeroHoldOf_nodeNumber (s : State) (p : Ix) : (s.zeroHoldOf p).nodeNumber = s.nodeNumber := rfl
@[simp] theorem State_zeroHoldOf_safeOut (s : State) (p : Ix) : (s.zeroHoldOf p).safeOut = s.safeOut := rfl
@[simp] theorem State_zeroHoldOf_counters (s : State) (p : Ix) : (s.zeroHoldOf p).counters = s.counters := rfl
@[simp] theorem State_zeroHoldOf_params (s : State) (p : Ix) : (s.zeroHoldOf p).params = s.params := rfl
@[simp] theorem State_zeroHoldOf_ports (s : State) (p : Ix) : (s.zeroHoldOf p).ports = s.ports := rfl
@[simp] theorem State_zeroHoldOf_frames (s : State) (p : Ix) : (s.zeroHoldOf p).frames = s.frames := rfl
@[simp] theorem State_zeroHoldOf_bankStore (s : State) (p : Ix) : (s.zeroHoldOf p).bankStore = s.bankStore := rfl
@[simp] theorem State_zeroHoldOf_dram (s : State) (p : Ix) : (s.zeroHoldOf p).dram = s.dram := rfl
@[simp] theorem State_zeroHoldOf_arbiter (s : State) (p : Ix) : (s.zeroHoldOf p).arbiter = s.arbiter := rfl
@[simp] theorem State_zeroHoldOf_trunk (s : State) (p : Ix) : (s.zeroHoldOf p).trunk = s.trunk := rfl
@[simp] theorem State_zeroHoldOf_lastApplied (s : State) (p : Ix) : (s.zeroHoldOf p).lastApplied = s.lastApplied := rfl
@[simp] theorem State_zeroHoldOf_tables (s : State) (p : Ix) : (s.zeroHoldOf p).tables = s.tables := rfl
@[simp] theorem State_zeroHoldOf_loop (s : State) (p : Ix) : (s.zeroHoldOf p).loop = s.loop := rfl
@[simp] theorem State_zeroHoldOf_mirror (s : State) (p : Ix) : (s.zeroHoldOf p).mirror = s.mirror := rfl
@[simp] theorem State_zeroHoldOf_poke (s : State) (p : Ix) : (s.zeroHoldOf p).poke = s.poke := rfl
@[simp] theorem State_zeroHoldOf_telemetry (s : State) (p : Ix) : (s.zeroHoldOf p).telemetry = s.telemetry := rfl
@[simp] theorem State_zeroHoldOf_mgmt (s : State) (p : Ix) : (s.zeroHoldOf p).mgmt = s.mgmt := rfl
@[simp] theorem State_zeroHoldOf_events (s : State) (p : Ix) : (s.zeroHoldOf p).events = s.events := rfl

@[simp] theorem State_recomputeClasses_pending (s : State) : s.recomputeClasses.pending = s.pending := by
  unfold State.recomputeClasses; rfl
@[simp] theorem State_recomputeClasses_nodeNumber (s : State) : s.recomputeClasses.nodeNumber = s.nodeNumber := by
  unfold State.recomputeClasses; rfl
@[simp] theorem State_recomputeClasses_safeOut (s : State) : s.recomputeClasses.safeOut = s.safeOut := by
  unfold State.recomputeClasses; rfl
@[simp] theorem State_recomputeClasses_counters (s : State) : s.recomputeClasses.counters = s.counters := by
  unfold State.recomputeClasses; rfl
@[simp] theorem State_recomputeClasses_params (s : State) : s.recomputeClasses.params = s.params := by
  unfold State.recomputeClasses; rfl
@[simp] theorem State_recomputeClasses_ports (s : State) : s.recomputeClasses.ports = s.ports := by
  unfold State.recomputeClasses; rfl
@[simp] theorem State_recomputeClasses_engine (s : State) : s.recomputeClasses.engine = s.engine := by
  unfold State.recomputeClasses; rfl
@[simp] theorem State_recomputeClasses_frames (s : State) : s.recomputeClasses.frames = s.frames := by
  unfold State.recomputeClasses; rfl
@[simp] theorem State_recomputeClasses_bankStore (s : State) : s.recomputeClasses.bankStore = s.bankStore := by
  unfold State.recomputeClasses; rfl
@[simp] theorem State_recomputeClasses_dram (s : State) : s.recomputeClasses.dram = s.dram := by
  unfold State.recomputeClasses; rfl
@[simp] theorem State_recomputeClasses_arbiter (s : State) : s.recomputeClasses.arbiter = s.arbiter := by
  unfold State.recomputeClasses; rfl
@[simp] theorem State_recomputeClasses_trunk (s : State) : s.recomputeClasses.trunk = s.trunk := by
  unfold State.recomputeClasses; rfl
@[simp] theorem State_recomputeClasses_lastApplied (s : State) : s.recomputeClasses.lastApplied = s.lastApplied := by
  unfold State.recomputeClasses; rfl
@[simp] theorem State_recomputeClasses_loop (s : State) : s.recomputeClasses.loop = s.loop := by
  unfold State.recomputeClasses; rfl
@[simp] theorem State_recomputeClasses_mirror (s : State) : s.recomputeClasses.mirror = s.mirror := by
  unfold State.recomputeClasses; rfl
@[simp] theorem State_recomputeClasses_poke (s : State) : s.recomputeClasses.poke = s.poke := by
  unfold State.recomputeClasses; rfl
@[simp] theorem State_recomputeClasses_telemetry (s : State) : s.recomputeClasses.telemetry = s.telemetry := by
  unfold State.recomputeClasses; rfl
@[simp] theorem State_recomputeClasses_mgmt (s : State) : s.recomputeClasses.mgmt = s.mgmt := by
  unfold State.recomputeClasses; rfl
@[simp] theorem State_recomputeClasses_events (s : State) : s.recomputeClasses.events = s.events := by
  unfold State.recomputeClasses; rfl

@[simp] theorem State_queueJob_pending (s : State) (c : Ix) : (s.queueJob c).pending = s.pending := rfl
@[simp] theorem State_queueJob_nodeNumber (s : State) (c : Ix) : (s.queueJob c).nodeNumber = s.nodeNumber := rfl
@[simp] theorem State_queueJob_safeOut (s : State) (c : Ix) : (s.queueJob c).safeOut = s.safeOut := rfl
@[simp] theorem State_queueJob_counters (s : State) (c : Ix) : (s.queueJob c).counters = s.counters := rfl
@[simp] theorem State_queueJob_params (s : State) (c : Ix) : (s.queueJob c).params = s.params := rfl
@[simp] theorem State_queueJob_ports (s : State) (c : Ix) : (s.queueJob c).ports = s.ports := rfl
@[simp] theorem State_queueJob_engine (s : State) (c : Ix) : (s.queueJob c).engine = s.engine := rfl
@[simp] theorem State_queueJob_bankStore (s : State) (c : Ix) : (s.queueJob c).bankStore = s.bankStore := rfl
@[simp] theorem State_queueJob_dram (s : State) (c : Ix) : (s.queueJob c).dram = s.dram := rfl
@[simp] theorem State_queueJob_arbiter (s : State) (c : Ix) : (s.queueJob c).arbiter = s.arbiter := rfl
@[simp] theorem State_queueJob_trunk (s : State) (c : Ix) : (s.queueJob c).trunk = s.trunk := rfl
@[simp] theorem State_queueJob_lastApplied (s : State) (c : Ix) : (s.queueJob c).lastApplied = s.lastApplied := rfl
@[simp] theorem State_queueJob_tables (s : State) (c : Ix) : (s.queueJob c).tables = s.tables := rfl
@[simp] theorem State_queueJob_loop (s : State) (c : Ix) : (s.queueJob c).loop = s.loop := rfl
@[simp] theorem State_queueJob_mirror (s : State) (c : Ix) : (s.queueJob c).mirror = s.mirror := rfl
@[simp] theorem State_queueJob_poke (s : State) (c : Ix) : (s.queueJob c).poke = s.poke := rfl
@[simp] theorem State_queueJob_telemetry (s : State) (c : Ix) : (s.queueJob c).telemetry = s.telemetry := rfl
@[simp] theorem State_queueJob_mgmt (s : State) (c : Ix) : (s.queueJob c).mgmt = s.mgmt := rfl
@[simp] theorem State_queueJob_events (s : State) (c : Ix) : (s.queueJob c).events = s.events := rfl

@[simp] theorem State_enterRunning_pending (s : State) (l : LoopState) : (s.enterRunning l).pending = s.pending := rfl
@[simp] theorem State_enterRunning_nodeNumber (s : State) (l : LoopState) : (s.enterRunning l).nodeNumber = s.nodeNumber := rfl
@[simp] theorem State_enterRunning_safeOut (s : State) (l : LoopState) : (s.enterRunning l).safeOut = s.safeOut := rfl
@[simp] theorem State_enterRunning_counters (s : State) (l : LoopState) : (s.enterRunning l).counters = s.counters := rfl
@[simp] theorem State_enterRunning_params (s : State) (l : LoopState) : (s.enterRunning l).params = s.params := rfl
@[simp] theorem State_enterRunning_ports (s : State) (l : LoopState) : (s.enterRunning l).ports = s.ports := rfl
@[simp] theorem State_enterRunning_engine (s : State) (l : LoopState) : (s.enterRunning l).engine = s.engine := rfl
@[simp] theorem State_enterRunning_frames (s : State) (l : LoopState) : (s.enterRunning l).frames = s.frames := rfl
@[simp] theorem State_enterRunning_bankStore (s : State) (l : LoopState) : (s.enterRunning l).bankStore = s.bankStore := rfl
@[simp] theorem State_enterRunning_dram (s : State) (l : LoopState) : (s.enterRunning l).dram = s.dram := rfl
@[simp] theorem State_enterRunning_arbiter (s : State) (l : LoopState) : (s.enterRunning l).arbiter = s.arbiter := rfl
@[simp] theorem State_enterRunning_trunk (s : State) (l : LoopState) : (s.enterRunning l).trunk = s.trunk := rfl
@[simp] theorem State_enterRunning_lastApplied (s : State) (l : LoopState) : (s.enterRunning l).lastApplied = s.lastApplied := rfl
@[simp] theorem State_enterRunning_tables (s : State) (l : LoopState) : (s.enterRunning l).tables = s.tables := rfl
@[simp] theorem State_enterRunning_mirror (s : State) (l : LoopState) : (s.enterRunning l).mirror = s.mirror := rfl
@[simp] theorem State_enterRunning_poke (s : State) (l : LoopState) : (s.enterRunning l).poke = s.poke := rfl
@[simp] theorem State_enterRunning_telemetry (s : State) (l : LoopState) : (s.enterRunning l).telemetry = s.telemetry := rfl
@[simp] theorem State_enterRunning_mgmt (s : State) (l : LoopState) : (s.enterRunning l).mgmt = s.mgmt := rfl
@[simp] theorem State_enterRunning_events (s : State) (l : LoopState) : (s.enterRunning l).events = s.events := rfl

@[simp] theorem State_clearDetectors_pending (s : State) : s.clearDetectors.pending = s.pending := rfl
@[simp] theorem State_clearDetectors_nodeNumber (s : State) : s.clearDetectors.nodeNumber = s.nodeNumber := rfl
@[simp] theorem State_clearDetectors_safeOut (s : State) : s.clearDetectors.safeOut = s.safeOut := rfl
@[simp] theorem State_clearDetectors_counters (s : State) : s.clearDetectors.counters = s.counters := rfl
@[simp] theorem State_clearDetectors_params (s : State) : s.clearDetectors.params = s.params := rfl
@[simp] theorem State_clearDetectors_ports (s : State) : s.clearDetectors.ports = s.ports := rfl
@[simp] theorem State_clearDetectors_engine (s : State) : s.clearDetectors.engine = s.engine := rfl
@[simp] theorem State_clearDetectors_frames (s : State) : s.clearDetectors.frames = s.frames := rfl
@[simp] theorem State_clearDetectors_bankStore (s : State) : s.clearDetectors.bankStore = s.bankStore := rfl
@[simp] theorem State_clearDetectors_dram (s : State) : s.clearDetectors.dram = s.dram := rfl
@[simp] theorem State_clearDetectors_arbiter (s : State) : s.clearDetectors.arbiter = s.arbiter := rfl
@[simp] theorem State_clearDetectors_trunk (s : State) : s.clearDetectors.trunk = s.trunk := rfl
@[simp] theorem State_clearDetectors_lastApplied (s : State) : s.clearDetectors.lastApplied = s.lastApplied := rfl
@[simp] theorem State_clearDetectors_tables (s : State) : s.clearDetectors.tables = s.tables := rfl
@[simp] theorem State_clearDetectors_mirror (s : State) : s.clearDetectors.mirror = s.mirror := rfl
@[simp] theorem State_clearDetectors_poke (s : State) : s.clearDetectors.poke = s.poke := rfl
@[simp] theorem State_clearDetectors_telemetry (s : State) : s.clearDetectors.telemetry = s.telemetry := rfl
@[simp] theorem State_clearDetectors_mgmt (s : State) : s.clearDetectors.mgmt = s.mgmt := rfl
@[simp] theorem State_clearDetectors_events (s : State) : s.clearDetectors.events = s.events := rfl

@[simp] theorem State_clearLatches_pending (s : State) : s.clearLatches.pending = s.pending := rfl
@[simp] theorem State_clearLatches_nodeNumber (s : State) : s.clearLatches.nodeNumber = s.nodeNumber := rfl
@[simp] theorem State_clearLatches_safeOut (s : State) : s.clearLatches.safeOut = s.safeOut := rfl
@[simp] theorem State_clearLatches_counters (s : State) : s.clearLatches.counters = s.counters := rfl
@[simp] theorem State_clearLatches_params (s : State) : s.clearLatches.params = s.params := rfl
@[simp] theorem State_clearLatches_ports (s : State) : s.clearLatches.ports = s.ports := rfl
@[simp] theorem State_clearLatches_engine (s : State) : s.clearLatches.engine = s.engine := rfl
@[simp] theorem State_clearLatches_frames (s : State) : s.clearLatches.frames = s.frames := rfl
@[simp] theorem State_clearLatches_bankStore (s : State) : s.clearLatches.bankStore = s.bankStore := rfl
@[simp] theorem State_clearLatches_dram (s : State) : s.clearLatches.dram = s.dram := rfl
@[simp] theorem State_clearLatches_arbiter (s : State) : s.clearLatches.arbiter = s.arbiter := rfl
@[simp] theorem State_clearLatches_trunk (s : State) : s.clearLatches.trunk = s.trunk := rfl
@[simp] theorem State_clearLatches_lastApplied (s : State) : s.clearLatches.lastApplied = s.lastApplied := rfl
@[simp] theorem State_clearLatches_tables (s : State) : s.clearLatches.tables = s.tables := rfl
@[simp] theorem State_clearLatches_loop (s : State) : s.clearLatches.loop = s.loop := rfl
@[simp] theorem State_clearLatches_mirror (s : State) : s.clearLatches.mirror = s.mirror := rfl
@[simp] theorem State_clearLatches_poke (s : State) : s.clearLatches.poke = s.poke := rfl
@[simp] theorem State_clearLatches_telemetry (s : State) : s.clearLatches.telemetry = s.telemetry := rfl
@[simp] theorem State_clearLatches_mgmt (s : State) : s.clearLatches.mgmt = s.mgmt := rfl

@[simp] theorem State_endPass_pending (s : State) : s.endPass.pending = s.pending := rfl
@[simp] theorem State_endPass_nodeNumber (s : State) : s.endPass.nodeNumber = s.nodeNumber := rfl
@[simp] theorem State_endPass_safeOut (s : State) : s.endPass.safeOut = s.safeOut := rfl
@[simp] theorem State_endPass_counters (s : State) : s.endPass.counters = s.counters := rfl
@[simp] theorem State_endPass_params (s : State) : s.endPass.params = s.params := rfl
@[simp] theorem State_endPass_ports (s : State) : s.endPass.ports = s.ports := rfl
@[simp] theorem State_endPass_frames (s : State) : s.endPass.frames = s.frames := rfl
@[simp] theorem State_endPass_bankStore (s : State) : s.endPass.bankStore = s.bankStore := rfl
@[simp] theorem State_endPass_dram (s : State) : s.endPass.dram = s.dram := rfl
@[simp] theorem State_endPass_arbiter (s : State) : s.endPass.arbiter = s.arbiter := rfl
@[simp] theorem State_endPass_trunk (s : State) : s.endPass.trunk = s.trunk := rfl
@[simp] theorem State_endPass_lastApplied (s : State) : s.endPass.lastApplied = s.lastApplied := rfl
@[simp] theorem State_endPass_tables (s : State) : s.endPass.tables = s.tables := rfl
@[simp] theorem State_endPass_loop (s : State) : s.endPass.loop = s.loop := rfl
@[simp] theorem State_endPass_mirror (s : State) : s.endPass.mirror = s.mirror := rfl
@[simp] theorem State_endPass_poke (s : State) : s.endPass.poke = s.poke := rfl
@[simp] theorem State_endPass_telemetry (s : State) : s.endPass.telemetry = s.telemetry := rfl
@[simp] theorem State_endPass_mgmt (s : State) : s.endPass.mgmt = s.mgmt := rfl
@[simp] theorem State_endPass_events (s : State) : s.endPass.events = s.events := rfl

@[simp] theorem State_resetDue_pending (s : State) : s.resetDue.pending = s.pending := rfl
@[simp] theorem State_resetDue_nodeNumber (s : State) : s.resetDue.nodeNumber = s.nodeNumber := rfl
@[simp] theorem State_resetDue_safeOut (s : State) : s.resetDue.safeOut = s.safeOut := rfl
@[simp] theorem State_resetDue_counters (s : State) : s.resetDue.counters = s.counters := rfl
@[simp] theorem State_resetDue_params (s : State) : s.resetDue.params = s.params := rfl
@[simp] theorem State_resetDue_ports (s : State) : s.resetDue.ports = s.ports := rfl
@[simp] theorem State_resetDue_engine (s : State) : s.resetDue.engine = s.engine := rfl
@[simp] theorem State_resetDue_frames (s : State) : s.resetDue.frames = s.frames := rfl
@[simp] theorem State_resetDue_bankStore (s : State) : s.resetDue.bankStore = s.bankStore := rfl
@[simp] theorem State_resetDue_dram (s : State) : s.resetDue.dram = s.dram := rfl
@[simp] theorem State_resetDue_arbiter (s : State) : s.resetDue.arbiter = s.arbiter := rfl
@[simp] theorem State_resetDue_trunk (s : State) : s.resetDue.trunk = s.trunk := rfl
@[simp] theorem State_resetDue_lastApplied (s : State) : s.resetDue.lastApplied = s.lastApplied := rfl
@[simp] theorem State_resetDue_tables (s : State) : s.resetDue.tables = s.tables := rfl
@[simp] theorem State_resetDue_loop (s : State) : s.resetDue.loop = s.loop := rfl
@[simp] theorem State_resetDue_mirror (s : State) : s.resetDue.mirror = s.mirror := rfl
@[simp] theorem State_resetDue_poke (s : State) : s.resetDue.poke = s.poke := rfl
@[simp] theorem State_resetDue_telemetry (s : State) : s.resetDue.telemetry = s.telemetry := rfl
@[simp] theorem State_resetDue_events (s : State) : s.resetDue.events = s.events := rfl

@[simp] theorem State_promoteWaiting_pending (s : State) : s.promoteWaiting.pending = s.pending := rfl
@[simp] theorem State_promoteWaiting_nodeNumber (s : State) : s.promoteWaiting.nodeNumber = s.nodeNumber := rfl
@[simp] theorem State_promoteWaiting_safeOut (s : State) : s.promoteWaiting.safeOut = s.safeOut := rfl
@[simp] theorem State_promoteWaiting_counters (s : State) : s.promoteWaiting.counters = s.counters := rfl
@[simp] theorem State_promoteWaiting_params (s : State) : s.promoteWaiting.params = s.params := rfl
@[simp] theorem State_promoteWaiting_ports (s : State) : s.promoteWaiting.ports = s.ports := rfl
@[simp] theorem State_promoteWaiting_engine (s : State) : s.promoteWaiting.engine = s.engine := rfl
@[simp] theorem State_promoteWaiting_frames (s : State) : s.promoteWaiting.frames = s.frames := rfl
@[simp] theorem State_promoteWaiting_bankStore (s : State) : s.promoteWaiting.bankStore = s.bankStore := rfl
@[simp] theorem State_promoteWaiting_dram (s : State) : s.promoteWaiting.dram = s.dram := rfl
@[simp] theorem State_promoteWaiting_arbiter (s : State) : s.promoteWaiting.arbiter = s.arbiter := rfl
@[simp] theorem State_promoteWaiting_trunk (s : State) : s.promoteWaiting.trunk = s.trunk := rfl
@[simp] theorem State_promoteWaiting_lastApplied (s : State) : s.promoteWaiting.lastApplied = s.lastApplied := rfl
@[simp] theorem State_promoteWaiting_tables (s : State) : s.promoteWaiting.tables = s.tables := rfl
@[simp] theorem State_promoteWaiting_loop (s : State) : s.promoteWaiting.loop = s.loop := rfl
@[simp] theorem State_promoteWaiting_poke (s : State) : s.promoteWaiting.poke = s.poke := rfl
@[simp] theorem State_promoteWaiting_telemetry (s : State) : s.promoteWaiting.telemetry = s.telemetry := rfl
@[simp] theorem State_promoteWaiting_mgmt (s : State) : s.promoteWaiting.mgmt = s.mgmt := rfl
@[simp] theorem State_promoteWaiting_events (s : State) : s.promoteWaiting.events = s.events := rfl

@[simp] theorem State_noteFinish_pending (s : State) (c : Ix) (k : FrameClass) : (s.noteFinish c k).pending = s.pending := rfl
@[simp] theorem State_noteFinish_nodeNumber (s : State) (c : Ix) (k : FrameClass) : (s.noteFinish c k).nodeNumber = s.nodeNumber := rfl
@[simp] theorem State_noteFinish_safeOut (s : State) (c : Ix) (k : FrameClass) : (s.noteFinish c k).safeOut = s.safeOut := rfl
@[simp] theorem State_noteFinish_counters (s : State) (c : Ix) (k : FrameClass) : (s.noteFinish c k).counters = s.counters := rfl
@[simp] theorem State_noteFinish_params (s : State) (c : Ix) (k : FrameClass) : (s.noteFinish c k).params = s.params := rfl
@[simp] theorem State_noteFinish_ports (s : State) (c : Ix) (k : FrameClass) : (s.noteFinish c k).ports = s.ports := rfl
@[simp] theorem State_noteFinish_engine (s : State) (c : Ix) (k : FrameClass) : (s.noteFinish c k).engine = s.engine := rfl
@[simp] theorem State_noteFinish_bankStore (s : State) (c : Ix) (k : FrameClass) : (s.noteFinish c k).bankStore = s.bankStore := rfl
@[simp] theorem State_noteFinish_dram (s : State) (c : Ix) (k : FrameClass) : (s.noteFinish c k).dram = s.dram := rfl
@[simp] theorem State_noteFinish_arbiter (s : State) (c : Ix) (k : FrameClass) : (s.noteFinish c k).arbiter = s.arbiter := rfl
@[simp] theorem State_noteFinish_trunk (s : State) (c : Ix) (k : FrameClass) : (s.noteFinish c k).trunk = s.trunk := rfl
@[simp] theorem State_noteFinish_lastApplied (s : State) (c : Ix) (k : FrameClass) : (s.noteFinish c k).lastApplied = s.lastApplied := rfl
@[simp] theorem State_noteFinish_tables (s : State) (c : Ix) (k : FrameClass) : (s.noteFinish c k).tables = s.tables := rfl
@[simp] theorem State_noteFinish_loop (s : State) (c : Ix) (k : FrameClass) : (s.noteFinish c k).loop = s.loop := rfl
@[simp] theorem State_noteFinish_mirror (s : State) (c : Ix) (k : FrameClass) : (s.noteFinish c k).mirror = s.mirror := rfl
@[simp] theorem State_noteFinish_poke (s : State) (c : Ix) (k : FrameClass) : (s.noteFinish c k).poke = s.poke := rfl
@[simp] theorem State_noteFinish_telemetry (s : State) (c : Ix) (k : FrameClass) : (s.noteFinish c k).telemetry = s.telemetry := rfl
@[simp] theorem State_noteFinish_mgmt (s : State) (c : Ix) (k : FrameClass) : (s.noteFinish c k).mgmt = s.mgmt := rfl
@[simp] theorem State_noteFinish_events (s : State) (c : Ix) (k : FrameClass) : (s.noteFinish c k).events = s.events := rfl

@[simp] theorem State_clearCounters_pending (s : State) (first count : Nat) : (s.clearCounters first count).pending = s.pending := rfl
@[simp] theorem State_clearCounters_nodeNumber (s : State) (first count : Nat) : (s.clearCounters first count).nodeNumber = s.nodeNumber := rfl
@[simp] theorem State_clearCounters_safeOut (s : State) (first count : Nat) : (s.clearCounters first count).safeOut = s.safeOut := rfl
@[simp] theorem State_clearCounters_params (s : State) (first count : Nat) : (s.clearCounters first count).params = s.params := rfl
@[simp] theorem State_clearCounters_ports (s : State) (first count : Nat) : (s.clearCounters first count).ports = s.ports := rfl
@[simp] theorem State_clearCounters_engine (s : State) (first count : Nat) : (s.clearCounters first count).engine = s.engine := rfl
@[simp] theorem State_clearCounters_frames (s : State) (first count : Nat) : (s.clearCounters first count).frames = s.frames := rfl
@[simp] theorem State_clearCounters_bankStore (s : State) (first count : Nat) : (s.clearCounters first count).bankStore = s.bankStore := rfl
@[simp] theorem State_clearCounters_dram (s : State) (first count : Nat) : (s.clearCounters first count).dram = s.dram := rfl
@[simp] theorem State_clearCounters_arbiter (s : State) (first count : Nat) : (s.clearCounters first count).arbiter = s.arbiter := rfl
@[simp] theorem State_clearCounters_trunk (s : State) (first count : Nat) : (s.clearCounters first count).trunk = s.trunk := rfl
@[simp] theorem State_clearCounters_lastApplied (s : State) (first count : Nat) : (s.clearCounters first count).lastApplied = s.lastApplied := rfl
@[simp] theorem State_clearCounters_tables (s : State) (first count : Nat) : (s.clearCounters first count).tables = s.tables := rfl
@[simp] theorem State_clearCounters_loop (s : State) (first count : Nat) : (s.clearCounters first count).loop = s.loop := rfl
@[simp] theorem State_clearCounters_mirror (s : State) (first count : Nat) : (s.clearCounters first count).mirror = s.mirror := rfl
@[simp] theorem State_clearCounters_poke (s : State) (first count : Nat) : (s.clearCounters first count).poke = s.poke := rfl
@[simp] theorem State_clearCounters_telemetry (s : State) (first count : Nat) : (s.clearCounters first count).telemetry = s.telemetry := rfl
@[simp] theorem State_clearCounters_mgmt (s : State) (first count : Nat) : (s.clearCounters first count).mgmt = s.mgmt := rfl
@[simp] theorem State_clearCounters_events (s : State) (first count : Nat) : (s.clearCounters first count).events = s.events := rfl

/-! ## Loads of the tables -/

@[simp] theorem Tables_parkIntegrators_gains (t : Tables) : t.parkIntegrators.gains = t.gains := by
  unfold Tables.parkIntegrators Tables.loadIntegrators; rfl
@[simp] theorem Tables_parkIntegrators_openShape (t : Tables) : t.parkIntegrators.openShape = t.openShape := by
  unfold Tables.parkIntegrators Tables.loadIntegrators; rfl
@[simp] theorem Tables_parkIntegrators_actuators (t : Tables) : t.parkIntegrators.actuators = t.actuators := by
  unfold Tables.parkIntegrators Tables.loadIntegrators; rfl
@[simp] theorem Tables_parkIntegrators_overrides (t : Tables) : t.parkIntegrators.overrides = t.overrides := by
  unfold Tables.parkIntegrators Tables.loadIntegrators; rfl
@[simp] theorem Tables_parkIntegrators_effective (t : Tables) : t.parkIntegrators.effective = t.effective := by
  unfold Tables.parkIntegrators Tables.loadIntegrators; rfl
@[simp] theorem Tables_parkIntegrators_slaves (t : Tables) : t.parkIntegrators.slaves = t.slaves := by
  unfold Tables.parkIntegrators Tables.loadIntegrators; rfl
@[simp] theorem Tables_parkIntegrators_pairs (t : Tables) : t.parkIntegrators.pairs = t.pairs := by
  unfold Tables.parkIntegrators Tables.loadIntegrators; rfl
@[simp] theorem Tables_parkIntegrators_pairCount (t : Tables) : t.parkIntegrators.pairCount = t.pairCount := by
  unfold Tables.parkIntegrators Tables.loadIntegrators; rfl
@[simp] theorem Tables_parkIntegrators_lastOutputs (t : Tables) : t.parkIntegrators.lastOutputs = t.lastOutputs := by
  unfold Tables.parkIntegrators Tables.loadIntegrators; rfl

@[simp] theorem Tables_bumpless_gains (t : Tables) : t.bumpless.gains = t.gains := by
  unfold Tables.bumpless Tables.loadIntegrators; rfl
@[simp] theorem Tables_bumpless_openShape (t : Tables) : t.bumpless.openShape = t.openShape := by
  unfold Tables.bumpless Tables.loadIntegrators; rfl
@[simp] theorem Tables_bumpless_actuators (t : Tables) : t.bumpless.actuators = t.actuators := by
  unfold Tables.bumpless Tables.loadIntegrators; rfl
@[simp] theorem Tables_bumpless_overrides (t : Tables) : t.bumpless.overrides = t.overrides := by
  unfold Tables.bumpless Tables.loadIntegrators; rfl
@[simp] theorem Tables_bumpless_effective (t : Tables) : t.bumpless.effective = t.effective := by
  unfold Tables.bumpless Tables.loadIntegrators; rfl
@[simp] theorem Tables_bumpless_slaves (t : Tables) : t.bumpless.slaves = t.slaves := by
  unfold Tables.bumpless Tables.loadIntegrators; rfl
@[simp] theorem Tables_bumpless_pairs (t : Tables) : t.bumpless.pairs = t.pairs := by
  unfold Tables.bumpless Tables.loadIntegrators; rfl
@[simp] theorem Tables_bumpless_pairCount (t : Tables) : t.bumpless.pairCount = t.pairCount := by
  unfold Tables.bumpless Tables.loadIntegrators; rfl
@[simp] theorem Tables_bumpless_lastOutputs (t : Tables) : t.bumpless.lastOutputs = t.lastOutputs := by
  unfold Tables.bumpless Tables.loadIntegrators; rfl

@[simp] theorem Tables_parkOutputs_gains (t : Tables) : t.parkOutputs.gains = t.gains := by
  unfold Tables.parkOutputs; rfl
@[simp] theorem Tables_parkOutputs_openShape (t : Tables) : t.parkOutputs.openShape = t.openShape := by
  unfold Tables.parkOutputs; rfl
@[simp] theorem Tables_parkOutputs_actuators (t : Tables) : t.parkOutputs.actuators = t.actuators := by
  unfold Tables.parkOutputs; rfl
@[simp] theorem Tables_parkOutputs_overrides (t : Tables) : t.parkOutputs.overrides = t.overrides := by
  unfold Tables.parkOutputs; rfl
@[simp] theorem Tables_parkOutputs_effective (t : Tables) : t.parkOutputs.effective = t.effective := by
  unfold Tables.parkOutputs; rfl
@[simp] theorem Tables_parkOutputs_slaves (t : Tables) : t.parkOutputs.slaves = t.slaves := by
  unfold Tables.parkOutputs; rfl
@[simp] theorem Tables_parkOutputs_pairs (t : Tables) : t.parkOutputs.pairs = t.pairs := by
  unfold Tables.parkOutputs; rfl
@[simp] theorem Tables_parkOutputs_pairCount (t : Tables) : t.parkOutputs.pairCount = t.pairCount := by
  unfold Tables.parkOutputs; rfl
@[simp] theorem Tables_parkOutputs_integrators (t : Tables) : t.parkOutputs.integrators = t.integrators := by
  unfold Tables.parkOutputs; rfl

end Sys2Proof.Machine
end

