-- ==== Sys2Proof/Laws/Tables.lean ====
section
/-! SUPPORT. The laws of tables and of the memory: what is read after a write, and that the canonical form is kept. -/

-- One theorem after the other, so that checking the whole package keeps to few threads.
set_option Elab.async false

namespace Sys2Proof.Machine

/-! ## Entries -/

theorem lookupEntry_insertEntry {α : Type} (k n : Nat) (v : α) (es : List (Nat × α)) :
    lookupEntry (insertEntry k v es) n = if n = k then some v else lookupEntry es n := by
  induction es with
  | nil => simp [insertEntry, lookupEntry]
  | cons e es ih =>
    obtain ⟨k', v'⟩ := e
    unfold insertEntry
    split
    · simp [lookupEntry]
    · split
      · subst_vars; by_cases h : n = k' <;> simp [lookupEntry, h]
      · by_cases h : n = k'
        · subst h; simp [lookupEntry]; intro h; omega
        · simp [lookupEntry, h, ih]

theorem lookupEntry_filter {α : Type} (p : Nat → Bool) (n : Nat) (es : List (Nat × α)) :
    lookupEntry (es.filter (fun e => p e.1)) n = if p n then lookupEntry es n else none := by
  induction es with
  | nil => simp [lookupEntry]
  | cons e es ih =>
    obtain ⟨k, v⟩ := e
    by_cases hk : p k <;> by_cases hn : n = k <;> simp_all [lookupEntry]

theorem lookupEntry_eraseEntry {α : Type} (k n : Nat) (es : List (Nat × α)) :
    lookupEntry (eraseEntry k es) n = if n = k then none else lookupEntry es n := by
  have h := lookupEntry_filter (fun m => decide (m ≠ k)) n es
  simp only [eraseEntry]
  rw [h]
  by_cases hn : n = k <;> simp [hn]

/-! ## The canonical form -/

theorem keysRise_weaken {α : Type} {es : List (Nat × α)} {b : Nat} (h : keysRise (some b) es = true) :
    keysRise none es = true := by
  cases es with
  | nil => rfl
  | cons e es => simp [keysRise] at h ⊢; exact h.2

theorem keysRise_mono {α : Type} {es : List (Nat × α)} {b c : Nat} (hc : c ≤ b) (h : keysRise (some b) es = true) :
    keysRise (some c) es = true := by
  cases es with
  | nil => rfl
  | cons e es => simp [keysRise] at h ⊢; exact ⟨by omega, h.2⟩

theorem keysRise_insertEntry {α : Type} (k : Nat) (v : α) (es : List (Nat × α)) (b : Option Nat)
    (hb : ∀ n, b = some n → n < k) (h : keysRise b es = true) : keysRise b (insertEntry k v es) = true := by
  induction es generalizing b with
  | nil => cases b <;> simp_all [insertEntry, keysRise]
  | cons e es ih =>
    obtain ⟨k', v'⟩ := e
    have h' : keysRise (some k') es = true := by cases b <;> simp_all [keysRise]
    unfold insertEntry
    split
    · rename_i hlt
      cases b <;> simp_all [keysRise]
    · split
      · subst_vars; cases b <;> simp_all [keysRise]
      · have := ih (some k') (by rintro n ⟨⟩; omega) h'
        cases b <;> simp_all [keysRise]

/-! ## Tables -/

theorem Table_get_set {α : Type} [DecidableEq α] {d : α} (t : Table d) (k n : Nat) (v : α) :
    (t.set k v).get n = if n = k then v else t.get n := by
  by_cases hv : v = d
  · by_cases hn : n = k <;> simp [Table.set, Table.get, hv, lookupEntry_eraseEntry, hn]
  · by_cases hn : n = k <;> simp [Table.set, Table.get, hv, lookupEntry_insertEntry, hn]

@[simp] theorem Table_get_set_same {α : Type} [DecidableEq α] {d : α} (t : Table d) (k : Nat) (v : α) :
    (t.set k v).get k = v := by simp [Table_get_set]

theorem Table_get_set_ne {α : Type} [DecidableEq α] {d : α} (t : Table d) {k n : Nat} (h : n ≠ k) (v : α) :
    (t.set k v).get n = t.get n := by simp [Table_get_set, h]

@[simp] theorem Table_get_blank {α : Type} {d : α} (n : Nat) : (Table.blank : Table d).get n = d := rfl

theorem Table_get_setRun {α : Type} [DecidableEq α] {d : α} (t : Table d) (k n : Nat) (vs : List α) :
    (t.setRun k vs).get n = if h : k ≤ n ∧ n < k + vs.length then vs[n - k] else t.get n := by
  induction vs generalizing t k with
  | nil => simp [Table.setRun]
  | cons v vs ih =>
    simp only [Table.setRun, ih, Table_get_set, List.length_cons]
    by_cases h : n = k
    · subst h; simp
    · by_cases h2 : k + 1 ≤ n ∧ n < k + 1 + vs.length
      · have h3 : k ≤ n ∧ n < k + (vs.length + 1) := by omega
        rw [dif_pos h2, dif_pos h3]
        have : n - k = (n - (k + 1)) + 1 := by omega
        simp [this]
      · have h3 : ¬ (k ≤ n ∧ n < k + (vs.length + 1)) := by omega
        rw [dif_neg h2, dif_neg h3]
        simp [h]

theorem lookupEntry_map {α : Type} (ks : List Nat) (f : Nat → α) (n : Nat) :
    lookupEntry (ks.map (fun k => (k, f k))) n = if n ∈ ks then some (f n) else none := by
  induction ks with
  | nil => simp [lookupEntry]
  | cons k ks ih =>
    by_cases h : n = k
    · subst h; simp [lookupEntry]
    · simp [lookupEntry, h, ih]

theorem Table_get_build {α : Type} [DecidableEq α] {d : α} (m : Nat) (f : Nat → α) (n : Nat) :
    (Table.build (d := d) m f).get n = if n < m then f n else d := by
  simp only [Table.get, Table.build, lookupEntry_map]
  by_cases h : n < m <;> by_cases hd : f n = d <;> simp [h, hd]

theorem Table_get_clearWhere {α : Type} {d : α} (t : Table d) (p : Nat → Bool) (n : Nat) :
    (t.clearWhere p).get n = if p n then d else t.get n := by
  have h := lookupEntry_filter (fun m => !p m) n t.entries
  simp only [Table.get, Table.clearWhere]
  rw [h]
  cases p n <;> simp

/-! ## The memory -/

theorem Memory_read_write (m : Memory) (a n : Nat) (b : Byte) :
    (m.write a b).read? n = if n = a then some b else m.read? n := by
  simp [Memory.read?, Memory.write, lookupEntry_insertEntry]

theorem Memory_read_writeRun (m : Memory) (a n : Nat) (bs : List Byte) :
    (m.writeRun a bs).read? n = if h : a ≤ n ∧ n < a + bs.length then some bs[n - a] else m.read? n := by
  induction bs generalizing m a with
  | nil => simp [Memory.writeRun]
  | cons b bs ih =>
    simp only [Memory.writeRun, ih, Memory_read_write, List.length_cons]
    by_cases h : n = a
    · subst h; simp
    · by_cases h2 : a + 1 ≤ n ∧ n < a + 1 + bs.length
      · have h3 : a ≤ n ∧ n < a + (bs.length + 1) := by omega
        rw [dif_pos h2, dif_pos h3]
        have : n - a = (n - (a + 1)) + 1 := by omega
        simp [this]
      · have h3 : ¬ (a ≤ n ∧ n < a + (bs.length + 1)) := by omega
        rw [dif_neg h2, dif_neg h3]
        simp [h]

theorem Memory_wf_write (m : Memory) (a : Nat) (b : Byte) (h : m.wf = true) : (m.write a b).wf = true :=
  keysRise_insertEntry a b m.cells none (by simp) h

theorem Memory_wf_writeRun (m : Memory) (a : Nat) (bs : List Byte) (h : m.wf = true) : (m.writeRun a bs).wf = true := by
  induction bs generalizing m a with
  | nil => exact h
  | cons b bs ih => exact ih _ _ (Memory_wf_write m a b h)

theorem Memory_wf_blank : Memory.blank.wf = true := rfl

end Sys2Proof.Machine
end

