-- ==== Sys2Proof/Laws/Fields.lean ====
section
/-! SUPPORT. What the shared operations leave as it was, field by field, what they count exactly, what raising an event
leaves, and what writes of override ranges and of node parameters leave: the lemmas by which a statement about a command is read off without unfolding the operations. -/

-- One theorem after the other, so that checking the whole package keeps to few threads.
set_option Elab.async false

namespace Sys2Proof.Machine

/-! ## Fields -/

@[simp] theorem State_grantTo_pending (s : State) : (s.grantTo).pending = s.pending := by unfold State.grantTo; repeat (first | rfl | split)
@[simp] theorem State_grantTo_nodeNumber (s : State) : (s.grantTo).nodeNumber = s.nodeNumber := by unfold State.grantTo; repeat (first | rfl | split)
@[simp] theorem State_grantTo_safeOut (s : State) : (s.grantTo).safeOut = s.safeOut := by unfold State.grantTo; repeat (first | rfl | split)
@[simp] theorem State_grantTo_counters (s : State) : (s.grantTo).counters = s.counters := by unfold State.grantTo; repeat (first | rfl | split)
@[simp] theorem State_grantTo_params (s : State) : (s.grantTo).params = s.params := by unfold State.grantTo; repeat (first | rfl | split)
@[simp] theorem State_grantTo_ports (s : State) : (s.grantTo).ports = s.ports := by unfold State.grantTo; repeat (first | rfl | split)
@[simp] theorem State_grantTo_engine (s : State) : (s.grantTo).engine = s.engine := by unfold State.grantTo; repeat (first | rfl | split)
@[simp] theorem State_grantTo_frames (s : State) : (s.grantTo).frames = s.frames := by unfold State.grantTo; repeat (first | rfl | split)
@[simp] theorem State_grantTo_bankStore (s : State) : (s.grantTo).bankStore = s.bankStore := by unfold State.grantTo; repeat (first | rfl | split)
@[simp] theorem State_grantTo_dram (s : State) : (s.grantTo).dram = s.dram := by unfold State.grantTo; repeat (first | rfl | split)
@[simp] theorem State_grantTo_arbiter (s : State) : (s.grantTo).arbiter = s.arbiter := by unfold State.grantTo; repeat (first | rfl | split)
@[simp] theorem State_grantTo_lastApplied (s : State) : (s.grantTo).lastApplied = s.lastApplied := by unfold State.grantTo; repeat (first | rfl | split)
@[simp] theorem State_grantTo_tables (s : State) : (s.grantTo).tables = s.tables := by unfold State.grantTo; repeat (first | rfl | split)
@[simp] theorem State_grantTo_loop (s : State) : (s.grantTo).loop = s.loop := by unfold State.grantTo; repeat (first | rfl | split)
@[simp] theorem State_grantTo_mirror (s : State) : (s.grantTo).mirror = s.mirror := by unfold State.grantTo; repeat (first | rfl | split)
@[simp] theorem State_grantTo_poke (s : State) : (s.grantTo).poke = s.poke := by unfold State.grantTo; repeat (first | rfl | split)
@[simp] theorem State_grantTo_telemetry (s : State) : (s.grantTo).telemetry = s.telemetry := by unfold State.grantTo; repeat (first | rfl | split)
@[simp] theorem State_grantTo_mgmt (s : State) : (s.grantTo).mgmt = s.mgmt := by unfold State.grantTo; repeat (first | rfl | split)
@[simp] theorem State_grantTo_events (s : State) : (s.grantTo).events = s.events := by unfold State.grantTo; repeat (first | rfl | split)

@[simp] theorem State_bumpIf_pending (s : State) (b : Bool) (c : Counter) : (s.bumpIf b c).pending = s.pending := by unfold State.bumpIf; split <;> rfl
@[simp] theorem State_bumpIf_nodeNumber (s : State) (b : Bool) (c : Counter) : (s.bumpIf b c).nodeNumber = s.nodeNumber := by unfold State.bumpIf; split <;> rfl
@[simp] theorem State_bumpIf_safeOut (s : State) (b : Bool) (c : Counter) : (s.bumpIf b c).safeOut = s.safeOut := by unfold State.bumpIf; split <;> rfl
@[simp] theorem State_bumpIf_params (s : State) (b : Bool) (c : Counter) : (s.bumpIf b c).params = s.params := by unfold State.bumpIf; split <;> rfl
@[simp] theorem State_bumpIf_ports (s : State) (b : Bool) (c : Counter) : (s.bumpIf b c).ports = s.ports := by unfold State.bumpIf; split <;> rfl
@[simp] theorem State_bumpIf_engine (s : State) (b : Bool) (c : Counter) : (s.bumpIf b c).engine = s.engine := by unfold State.bumpIf; split <;> rfl
@[simp] theorem State_bumpIf_frames (s : State) (b : Bool) (c : Counter) : (s.bumpIf b c).frames = s.frames := by unfold State.bumpIf; split <;> rfl
@[simp] theorem State_bumpIf_bankStore (s : State) (b : Bool) (c : Counter) : (s.bumpIf b c).bankStore = s.bankStore := by unfold State.bumpIf; split <;> rfl
@[simp] theorem State_bumpIf_dram (s : State) (b : Bool) (c : Counter) : (s.bumpIf b c).dram = s.dram := by unfold State.bumpIf; split <;> rfl
@[simp] theorem State_bumpIf_arbiter (s : State) (b : Bool) (c : Counter) : (s.bumpIf b c).arbiter = s.arbiter := by unfold State.bumpIf; split <;> rfl
@[simp] theorem State_bumpIf_trunk (s : State) (b : Bool) (c : Counter) : (s.bumpIf b c).trunk = s.trunk := by unfold State.bumpIf; split <;> rfl
@[simp] theorem State_bumpIf_lastApplied (s : State) (b : Bool) (c : Counter) : (s.bumpIf b c).lastApplied = s.lastApplied := by unfold State.bumpIf; split <;> rfl
@[simp] theorem State_bumpIf_tables (s : State) (b : Bool) (c : Counter) : (s.bumpIf b c).tables = s.tables := by unfold State.bumpIf; split <;> rfl
@[simp] theorem State_bumpIf_loop (s : State) (b : Bool) (c : Counter) : (s.bumpIf b c).loop = s.loop := by unfold State.bumpIf; split <;> rfl
@[simp] theorem State_bumpIf_mirror (s : State) (b : Bool) (c : Counter) : (s.bumpIf b c).mirror = s.mirror := by unfold State.bumpIf; split <;> rfl
@[simp] theorem State_bumpIf_poke (s : State) (b : Bool) (c : Counter) : (s.bumpIf b c).poke = s.poke := by unfold State.bumpIf; split <;> rfl
@[simp] theorem State_bumpIf_telemetry (s : State) (b : Bool) (c : Counter) : (s.bumpIf b c).telemetry = s.telemetry := by unfold State.bumpIf; split <;> rfl
@[simp] theorem State_bumpIf_mgmt (s : State) (b : Bool) (c : Counter) : (s.bumpIf b c).mgmt = s.mgmt := by unfold State.bumpIf; split <;> rfl
@[simp] theorem State_bumpIf_events (s : State) (b : Bool) (c : Counter) : (s.bumpIf b c).events = s.events := by unfold State.bumpIf; split <;> rfl

@[simp] theorem State_placeControl_pending (s : State) (f : ToFrame) : (s.placeControl f).pending = s.pending := by unfold State.placeControl; split <;> simp
@[simp] theorem State_placeControl_nodeNumber (s : State) (f : ToFrame) : (s.placeControl f).nodeNumber = s.nodeNumber := by unfold State.placeControl; split <;> simp
@[simp] theorem State_placeControl_safeOut (s : State) (f : ToFrame) : (s.placeControl f).safeOut = s.safeOut := by unfold State.placeControl; split <;> simp
@[simp] theorem State_placeControl_params (s : State) (f : ToFrame) : (s.placeControl f).params = s.params := by unfold State.placeControl; split <;> simp
@[simp] theorem State_placeControl_ports (s : State) (f : ToFrame) : (s.placeControl f).ports = s.ports := by unfold State.placeControl; split <;> simp
@[simp] theorem State_placeControl_engine (s : State) (f : ToFrame) : (s.placeControl f).engine = s.engine := by unfold State.placeControl; split <;> simp
@[simp] theorem State_placeControl_frames (s : State) (f : ToFrame) : (s.placeControl f).frames = s.frames := by unfold State.placeControl; split <;> simp
@[simp] theorem State_placeControl_bankStore (s : State) (f : ToFrame) : (s.placeControl f).bankStore = s.bankStore := by unfold State.placeControl; split <;> simp
@[simp] theorem State_placeControl_dram (s : State) (f : ToFrame) : (s.placeControl f).dram = s.dram := by unfold State.placeControl; split <;> simp
@[simp] theorem State_placeControl_arbiter (s : State) (f : ToFrame) : (s.placeControl f).arbiter = s.arbiter := by unfold State.placeControl; split <;> simp
@[simp] theorem State_placeControl_lastApplied (s : State) (f : ToFrame) : (s.placeControl f).lastApplied = s.lastApplied := by unfold State.placeControl; split <;> simp
@[simp] theorem State_placeControl_tables (s : State) (f : ToFrame) : (s.placeControl f).tables = s.tables := by unfold State.placeControl; split <;> simp
@[simp] theorem State_placeControl_loop (s : State) (f : ToFrame) : (s.placeControl f).loop = s.loop := by unfold State.placeControl; split <;> simp
@[simp] theorem State_placeControl_mirror (s : State) (f : ToFrame) : (s.placeControl f).mirror = s.mirror := by unfold State.placeControl; split <;> simp
@[simp] theorem State_placeControl_poke (s : State) (f : ToFrame) : (s.placeControl f).poke = s.poke := by unfold State.placeControl; split <;> simp
@[simp] theorem State_placeControl_telemetry (s : State) (f : ToFrame) : (s.placeControl f).telemetry = s.telemetry := by unfold State.placeControl; split <;> simp
@[simp] theorem State_placeControl_mgmt (s : State) (f : ToFrame) : (s.placeControl f).mgmt = s.mgmt := by unfold State.placeControl; split <;> simp
@[simp] theorem State_placeControl_events (s : State) (f : ToFrame) : (s.placeControl f).events = s.events := by unfold State.placeControl; split <;> simp

@[simp] theorem State_placeRealtime_pending (s : State) (b : List Byte) : (s.placeRealtime b).pending = s.pending := by simp [State.placeRealtime]
@[simp] theorem State_placeRealtime_nodeNumber (s : State) (b : List Byte) : (s.placeRealtime b).nodeNumber = s.nodeNumber := by simp [State.placeRealtime]
@[simp] theorem State_placeRealtime_safeOut (s : State) (b : List Byte) : (s.placeRealtime b).safeOut = s.safeOut := by simp [State.placeRealtime]
@[simp] theorem State_placeRealtime_params (s : State) (b : List Byte) : (s.placeRealtime b).params = s.params := by simp [State.placeRealtime]
@[simp] theorem State_placeRealtime_ports (s : State) (b : List Byte) : (s.placeRealtime b).ports = s.ports := by simp [State.placeRealtime]
@[simp] theorem State_placeRealtime_engine (s : State) (b : List Byte) : (s.placeRealtime b).engine = s.engine := by simp [State.placeRealtime]
@[simp] theorem State_placeRealtime_frames (s : State) (b : List Byte) : (s.placeRealtime b).frames = s.frames := by simp [State.placeRealtime]
@[simp] theorem State_placeRealtime_bankStore (s : State) (b : List Byte) : (s.placeRealtime b).bankStore = s.bankStore := by simp [State.placeRealtime]
@[simp] theorem State_placeRealtime_dram (s : State) (b : List Byte) : (s.placeRealtime b).dram = s.dram := by simp [State.placeRealtime]
@[simp] theorem State_placeRealtime_arbiter (s : State) (b : List Byte) : (s.placeRealtime b).arbiter = s.arbiter := by simp [State.placeRealtime]
@[simp] theorem State_placeRealtime_lastApplied (s : State) (b : List Byte) : (s.placeRealtime b).lastApplied = s.lastApplied := by simp [State.placeRealtime]
@[simp] theorem State_placeRealtime_tables (s : State) (b : List Byte) : (s.placeRealtime b).tables = s.tables := by simp [State.placeRealtime]
@[simp] theorem State_placeRealtime_loop (s : State) (b : List Byte) : (s.placeRealtime b).loop = s.loop := by simp [State.placeRealtime]
@[simp] theorem State_placeRealtime_mirror (s : State) (b : List Byte) : (s.placeRealtime b).mirror = s.mirror := by simp [State.placeRealtime]
@[simp] theorem State_placeRealtime_poke (s : State) (b : List Byte) : (s.placeRealtime b).poke = s.poke := by simp [State.placeRealtime]
@[simp] theorem State_placeRealtime_telemetry (s : State) (b : List Byte) : (s.placeRealtime b).telemetry = s.telemetry := by simp [State.placeRealtime]
@[simp] theorem State_placeRealtime_mgmt (s : State) (b : List Byte) : (s.placeRealtime b).mgmt = s.mgmt := by simp [State.placeRealtime]
@[simp] theorem State_placeRealtime_events (s : State) (b : List Byte) : (s.placeRealtime b).events = s.events := by simp [State.placeRealtime]

@[simp] theorem State_respond_pending (s : State) (r : Request) (st : Status) (e : Option Tag) (b : List Byte) : (s.respond r st e b).pending = s.pending := by simp [State.respond]
@[simp] theorem State_respond_nodeNumber (s : State) (r : Request) (st : Status) (e : Option Tag) (b : List Byte) : (s.respond r st e b).nodeNumber = s.nodeNumber := by simp [State.respond]
@[simp] theorem State_respond_safeOut (s : State) (r : Request) (st : Status) (e : Option Tag) (b : List Byte) : (s.respond r st e b).safeOut = s.safeOut := by simp [State.respond]
@[simp] theorem State_respond_params (s : State) (r : Request) (st : Status) (e : Option Tag) (b : List Byte) : (s.respond r st e b).params = s.params := by simp [State.respond]
@[simp] theorem State_respond_ports (s : State) (r : Request) (st : Status) (e : Option Tag) (b : List Byte) : (s.respond r st e b).ports = s.ports := by simp [State.respond]
@[simp] theorem State_respond_engine (s : State) (r : Request) (st : Status) (e : Option Tag) (b : List Byte) : (s.respond r st e b).engine = s.engine := by simp [State.respond]
@[simp] theorem State_respond_frames (s : State) (r : Request) (st : Status) (e : Option Tag) (b : List Byte) : (s.respond r st e b).frames = s.frames := by simp [State.respond]
@[simp] theorem State_respond_bankStore (s : State) (r : Request) (st : Status) (e : Option Tag) (b : List Byte) : (s.respond r st e b).bankStore = s.bankStore := by simp [State.respond]
@[simp] theorem State_respond_dram (s : State) (r : Request) (st : Status) (e : Option Tag) (b : List Byte) : (s.respond r st e b).dram = s.dram := by simp [State.respond]
@[simp] theorem State_respond_arbiter (s : State) (r : Request) (st : Status) (e : Option Tag) (b : List Byte) : (s.respond r st e b).arbiter = s.arbiter := by simp [State.respond]
@[simp] theorem State_respond_lastApplied (s : State) (r : Request) (st : Status) (e : Option Tag) (b : List Byte) : (s.respond r st e b).lastApplied = s.lastApplied := by simp [State.respond]
@[simp] theorem State_respond_tables (s : State) (r : Request) (st : Status) (e : Option Tag) (b : List Byte) : (s.respond r st e b).tables = s.tables := by simp [State.respond]
@[simp] theorem State_respond_loop (s : State) (r : Request) (st : Status) (e : Option Tag) (b : List Byte) : (s.respond r st e b).loop = s.loop := by simp [State.respond]
@[simp] theorem State_respond_mirror (s : State) (r : Request) (st : Status) (e : Option Tag) (b : List Byte) : (s.respond r st e b).mirror = s.mirror := by simp [State.respond]
@[simp] theorem State_respond_poke (s : State) (r : Request) (st : Status) (e : Option Tag) (b : List Byte) : (s.respond r st e b).poke = s.poke := by simp [State.respond]
@[simp] theorem State_respond_telemetry (s : State) (r : Request) (st : Status) (e : Option Tag) (b : List Byte) : (s.respond r st e b).telemetry = s.telemetry := by simp [State.respond]
@[simp] theorem State_respond_mgmt (s : State) (r : Request) (st : Status) (e : Option Tag) (b : List Byte) : (s.respond r st e b).mgmt = s.mgmt := by simp [State.respond]
@[simp] theorem State_respond_events (s : State) (r : Request) (st : Status) (e : Option Tag) (b : List Byte) : (s.respond r st e b).events = s.events := by simp [State.respond]

@[simp] theorem State_placeEvent_pending (s : State) : (s.placeEvent).pending = s.pending := by simp [State.placeEvent]
@[simp] theorem State_placeEvent_nodeNumber (s : State) : (s.placeEvent).nodeNumber = s.nodeNumber := by simp [State.placeEvent]
@[simp] theorem State_placeEvent_safeOut (s : State) : (s.placeEvent).safeOut = s.safeOut := by simp [State.placeEvent]
@[simp] theorem State_placeEvent_params (s : State) : (s.placeEvent).params = s.params := by simp [State.placeEvent]
@[simp] theorem State_placeEvent_ports (s : State) : (s.placeEvent).ports = s.ports := by simp [State.placeEvent]
@[simp] theorem State_placeEvent_engine (s : State) : (s.placeEvent).engine = s.engine := by simp [State.placeEvent]
@[simp] theorem State_placeEvent_frames (s : State) : (s.placeEvent).frames = s.frames := by simp [State.placeEvent]
@[simp] theorem State_placeEvent_bankStore (s : State) : (s.placeEvent).bankStore = s.bankStore := by simp [State.placeEvent]
@[simp] theorem State_placeEvent_dram (s : State) : (s.placeEvent).dram = s.dram := by simp [State.placeEvent]
@[simp] theorem State_placeEvent_arbiter (s : State) : (s.placeEvent).arbiter = s.arbiter := by simp [State.placeEvent]
@[simp] theorem State_placeEvent_lastApplied (s : State) : (s.placeEvent).lastApplied = s.lastApplied := by simp [State.placeEvent]
@[simp] theorem State_placeEvent_tables (s : State) : (s.placeEvent).tables = s.tables := by simp [State.placeEvent]
@[simp] theorem State_placeEvent_loop (s : State) : (s.placeEvent).loop = s.loop := by simp [State.placeEvent]
@[simp] theorem State_placeEvent_mirror (s : State) : (s.placeEvent).mirror = s.mirror := by simp [State.placeEvent]
@[simp] theorem State_placeEvent_poke (s : State) : (s.placeEvent).poke = s.poke := by simp [State.placeEvent]
@[simp] theorem State_placeEvent_telemetry (s : State) : (s.placeEvent).telemetry = s.telemetry := by simp [State.placeEvent]
@[simp] theorem State_placeEvent_mgmt (s : State) : (s.placeEvent).mgmt = s.mgmt := by simp [State.placeEvent]

@[simp] theorem State_reportTest_pending (s : State) : (s.reportTest).pending = s.pending := by unfold State.reportTest; split <;> simp
@[simp] theorem State_reportTest_nodeNumber (s : State) : (s.reportTest).nodeNumber = s.nodeNumber := by unfold State.reportTest; split <;> simp
@[simp] theorem State_reportTest_safeOut (s : State) : (s.reportTest).safeOut = s.safeOut := by unfold State.reportTest; split <;> simp
@[simp] theorem State_reportTest_params (s : State) : (s.reportTest).params = s.params := by unfold State.reportTest; split <;> simp
@[simp] theorem State_reportTest_ports (s : State) : (s.reportTest).ports = s.ports := by unfold State.reportTest; split <;> simp
@[simp] theorem State_reportTest_engine (s : State) : (s.reportTest).engine = s.engine := by unfold State.reportTest; split <;> simp
@[simp] theorem State_reportTest_frames (s : State) : (s.reportTest).frames = s.frames := by unfold State.reportTest; split <;> simp
@[simp] theorem State_reportTest_bankStore (s : State) : (s.reportTest).bankStore = s.bankStore := by unfold State.reportTest; split <;> simp
@[simp] theorem State_reportTest_dram (s : State) : (s.reportTest).dram = s.dram := by unfold State.reportTest; split <;> simp
@[simp] theorem State_reportTest_arbiter (s : State) : (s.reportTest).arbiter = s.arbiter := by unfold State.reportTest; split <;> simp
@[simp] theorem State_reportTest_lastApplied (s : State) : (s.reportTest).lastApplied = s.lastApplied := by unfold State.reportTest; split <;> simp
@[simp] theorem State_reportTest_tables (s : State) : (s.reportTest).tables = s.tables := by unfold State.reportTest; split <;> simp
@[simp] theorem State_reportTest_loop (s : State) : (s.reportTest).loop = s.loop := by unfold State.reportTest; split <;> simp
@[simp] theorem State_reportTest_mirror (s : State) : (s.reportTest).mirror = s.mirror := by unfold State.reportTest; split <;> simp
@[simp] theorem State_reportTest_poke (s : State) : (s.reportTest).poke = s.poke := by unfold State.reportTest; split <;> simp
@[simp] theorem State_reportTest_telemetry (s : State) : (s.reportTest).telemetry = s.telemetry := by unfold State.reportTest; split <;> simp
@[simp] theorem State_reportTest_mgmt (s : State) : (s.reportTest).mgmt = s.mgmt := by unfold State.reportTest; split <;> simp

@[simp] theorem State_joinLaterCauses_pending (s : State) (e : Event) : (s.joinLaterCauses e).pending = s.pending := by unfold State.joinLaterCauses; split <;> rfl
@[simp] theorem State_joinLaterCauses_nodeNumber (s : State) (e : Event) : (s.joinLaterCauses e).nodeNumber = s.nodeNumber := by unfold State.joinLaterCauses; split <;> rfl
@[simp] theorem State_joinLaterCauses_safeOut (s : State) (e : Event) : (s.joinLaterCauses e).safeOut = s.safeOut := by unfold State.joinLaterCauses; split <;> rfl
@[simp] theorem State_joinLaterCauses_counters (s : State) (e : Event) : (s.joinLaterCauses e).counters = s.counters := by unfold State.joinLaterCauses; split <;> rfl
@[simp] theorem State_joinLaterCauses_params (s : State) (e : Event) : (s.joinLaterCauses e).params = s.params := by unfold State.joinLaterCauses; split <;> rfl
@[simp] theorem State_joinLaterCauses_ports (s : State) (e : Event) : (s.joinLaterCauses e).ports = s.ports := by unfold State.joinLaterCauses; split <;> rfl
@[simp] theorem State_joinLaterCauses_engine (s : State) (e : Event) : (s.joinLaterCauses e).engine = s.engine := by unfold State.joinLaterCauses; split <;> rfl
@[simp] theorem State_joinLaterCauses_frames (s : State) (e : Event) : (s.joinLaterCauses e).frames = s.frames := by unfold State.joinLaterCauses; split <;> rfl
@[simp] theorem State_joinLaterCauses_bankStore (s : State) (e : Event) : (s.joinLaterCauses e).bankStore = s.bankStore := by unfold State.joinLaterCauses; split <;> rfl
@[simp] theorem State_joinLaterCauses_dram (s : State) (e : Event) : (s.joinLaterCauses e).dram = s.dram := by unfold State.joinLaterCauses; split <;> rfl
@[simp] theorem State_joinLaterCauses_arbiter (s : State) (e : Event) : (s.joinLaterCauses e).arbiter = s.arbiter := by unfold State.joinLaterCauses; split <;> rfl
@[simp] theorem State_joinLaterCauses_trunk (s : State) (e : Event) : (s.joinLaterCauses e).trunk = s.trunk := by unfold State.joinLaterCauses; split <;> rfl
@[simp] theorem State_joinLaterCauses_lastApplied (s : State) (e : Event) : (s.joinLaterCauses e).lastApplied = s.lastApplied := by unfold State.joinLaterCauses; split <;> rfl
@[simp] theorem State_joinLaterCauses_tables (s : State) (e : Event) : (s.joinLaterCauses e).tables = s.tables := by unfold State.joinLaterCauses; split <;> rfl
@[simp] theorem State_joinLaterCauses_mirror (s : State) (e : Event) : (s.joinLaterCauses e).mirror = s.mirror := by unfold State.joinLaterCauses; split <;> rfl
@[simp] theorem State_joinLaterCauses_poke (s : State) (e : Event) : (s.joinLaterCauses e).poke = s.poke := by unfold State.joinLaterCauses; split <;> rfl
@[simp] theorem State_joinLaterCauses_telemetry (s : State) (e : Event) : (s.joinLaterCauses e).telemetry = s.telemetry := by unfold State.joinLaterCauses; split <;> rfl
@[simp] theorem State_joinLaterCauses_mgmt (s : State) (e : Event) : (s.joinLaterCauses e).mgmt = s.mgmt := by unfold State.joinLaterCauses; split <;> rfl
@[simp] theorem State_joinLaterCauses_events (s : State) (e : Event) : (s.joinLaterCauses e).events = s.events := by unfold State.joinLaterCauses; split <;> rfl

@[simp] theorem State_triggerCapture_pending (s : State) (e : Event) : (s.triggerCapture e).pending = s.pending := by unfold State.triggerCapture; repeat (first | rfl | split)
@[simp] theorem State_triggerCapture_nodeNumber (s : State) (e : Event) : (s.triggerCapture e).nodeNumber = s.nodeNumber := by unfold State.triggerCapture; repeat (first | rfl | split)
@[simp] theorem State_triggerCapture_safeOut (s : State) (e : Event) : (s.triggerCapture e).safeOut = s.safeOut := by unfold State.triggerCapture; repeat (first | rfl | split)
@[simp] theorem State_triggerCapture_params (s : State) (e : Event) : (s.triggerCapture e).params = s.params := by unfold State.triggerCapture; repeat (first | rfl | split)
@[simp] theorem State_triggerCapture_ports (s : State) (e : Event) : (s.triggerCapture e).ports = s.ports := by unfold State.triggerCapture; repeat (first | rfl | split)
@[simp] theorem State_triggerCapture_engine (s : State) (e : Event) : (s.triggerCapture e).engine = s.engine := by unfold State.triggerCapture; repeat (first | rfl | split)
@[simp] theorem State_triggerCapture_frames (s : State) (e : Event) : (s.triggerCapture e).frames = s.frames := by unfold State.triggerCapture; repeat (first | rfl | split)
@[simp] theorem State_triggerCapture_bankStore (s : State) (e : Event) : (s.triggerCapture e).bankStore = s.bankStore := by unfold State.triggerCapture; repeat (first | rfl | split)
@[simp] theorem State_triggerCapture_dram (s : State) (e : Event) : (s.triggerCapture e).dram = s.dram := by unfold State.triggerCapture; repeat (first | rfl | split)
@[simp] theorem State_triggerCapture_arbiter (s : State) (e : Event) : (s.triggerCapture e).arbiter = s.arbiter := by unfold State.triggerCapture; repeat (first | rfl | split)
@[simp] theorem State_triggerCapture_trunk (s : State) (e : Event) : (s.triggerCapture e).trunk = s.trunk := by unfold State.triggerCapture; repeat (first | rfl | split)
@[simp] theorem State_triggerCapture_lastApplied (s : State) (e : Event) : (s.triggerCapture e).lastApplied = s.lastApplied := by unfold State.triggerCapture; repeat (first | rfl | split)
@[simp] theorem State_triggerCapture_tables (s : State) (e : Event) : (s.triggerCapture e).tables = s.tables := by unfold State.triggerCapture; repeat (first | rfl | split)
@[simp] theorem State_triggerCapture_loop (s : State) (e : Event) : (s.triggerCapture e).loop = s.loop := by unfold State.triggerCapture; repeat (first | rfl | split)
@[simp] theorem State_triggerCapture_mirror (s : State) (e : Event) : (s.triggerCapture e).mirror = s.mirror := by unfold State.triggerCapture; repeat (first | rfl | split)
@[simp] theorem State_triggerCapture_poke (s : State) (e : Event) : (s.triggerCapture e).poke = s.poke := by unfold State.triggerCapture; repeat (first | rfl | split)
@[simp] theorem State_triggerCapture_mgmt (s : State) (e : Event) : (s.triggerCapture e).mgmt = s.mgmt := by unfold State.triggerCapture; repeat (first | rfl | split)

@[simp] theorem State_raise_pending (s : State) (e : Event) : (s.raise e).pending = s.pending := by unfold State.raise; dsimp only; split <;> simp
@[simp] theorem State_raise_nodeNumber (s : State) (e : Event) : (s.raise e).nodeNumber = s.nodeNumber := by unfold State.raise; dsimp only; split <;> simp
@[simp] theorem State_raise_safeOut (s : State) (e : Event) : (s.raise e).safeOut = s.safeOut := by unfold State.raise; dsimp only; split <;> simp
@[simp] theorem State_raise_params (s : State) (e : Event) : (s.raise e).params = s.params := by unfold State.raise; dsimp only; split <;> simp
@[simp] theorem State_raise_ports (s : State) (e : Event) : (s.raise e).ports = s.ports := by unfold State.raise; dsimp only; split <;> simp
@[simp] theorem State_raise_engine (s : State) (e : Event) : (s.raise e).engine = s.engine := by unfold State.raise; dsimp only; split <;> simp
@[simp] theorem State_raise_frames (s : State) (e : Event) : (s.raise e).frames = s.frames := by unfold State.raise; dsimp only; split <;> simp
@[simp] theorem State_raise_bankStore (s : State) (e : Event) : (s.raise e).bankStore = s.bankStore := by unfold State.raise; dsimp only; split <;> simp
@[simp] theorem State_raise_dram (s : State) (e : Event) : (s.raise e).dram = s.dram := by unfold State.raise; dsimp only; split <;> simp
@[simp] theorem State_raise_arbiter (s : State) (e : Event) : (s.raise e).arbiter = s.arbiter := by unfold State.raise; dsimp only; split <;> simp
@[simp] theorem State_raise_lastApplied (s : State) (e : Event) : (s.raise e).lastApplied = s.lastApplied := by unfold State.raise; dsimp only; split <;> simp
@[simp] theorem State_raise_tables (s : State) (e : Event) : (s.raise e).tables = s.tables := by unfold State.raise; dsimp only; split <;> simp
@[simp] theorem State_raise_mirror (s : State) (e : Event) : (s.raise e).mirror = s.mirror := by unfold State.raise; dsimp only; split <;> simp
@[simp] theorem State_raise_poke (s : State) (e : Event) : (s.raise e).poke = s.poke := by unfold State.raise; dsimp only; split <;> simp
@[simp] theorem State_raise_mgmt (s : State) (e : Event) : (s.raise e).mgmt = s.mgmt := by unfold State.raise; dsimp only; split <;> simp

@[simp] theorem State_beginLoad_pending (s : State) : (s.beginLoad).pending = s.pending := by unfold State.beginLoad; repeat (first | rfl | split)
@[simp] theorem State_beginLoad_nodeNumber (s : State) : (s.beginLoad).nodeNumber = s.nodeNumber := by unfold State.beginLoad; repeat (first | rfl | split)
@[simp] theorem State_beginLoad_safeOut (s : State) : (s.beginLoad).safeOut = s.safeOut := by unfold State.beginLoad; repeat (first | rfl | split)
@[simp] theorem State_beginLoad_counters (s : State) : (s.beginLoad).counters = s.counters := by unfold State.beginLoad; repeat (first | rfl | split)
@[simp] theorem State_beginLoad_params (s : State) : (s.beginLoad).params = s.params := by unfold State.beginLoad; repeat (first | rfl | split)
@[simp] theorem State_beginLoad_ports (s : State) : (s.beginLoad).ports = s.ports := by unfold State.beginLoad; repeat (first | rfl | split)
@[simp] theorem State_beginLoad_engine (s : State) : (s.beginLoad).engine = s.engine := by unfold State.beginLoad; repeat (first | rfl | split)
@[simp] theorem State_beginLoad_frames (s : State) : (s.beginLoad).frames = s.frames := by unfold State.beginLoad; repeat (first | rfl | split)
@[simp] theorem State_beginLoad_dram (s : State) : (s.beginLoad).dram = s.dram := by unfold State.beginLoad; repeat (first | rfl | split)
@[simp] theorem State_beginLoad_arbiter (s : State) : (s.beginLoad).arbiter = s.arbiter := by unfold State.beginLoad; repeat (first | rfl | split)
@[simp] theorem State_beginLoad_trunk (s : State) : (s.beginLoad).trunk = s.trunk := by unfold State.beginLoad; repeat (first | rfl | split)
@[simp] theorem State_beginLoad_lastApplied (s : State) : (s.beginLoad).lastApplied = s.lastApplied := by unfold State.beginLoad; repeat (first | rfl | split)
@[simp] theorem State_beginLoad_tables (s : State) : (s.beginLoad).tables = s.tables := by unfold State.beginLoad; repeat (first | rfl | split)
@[simp] theorem State_beginLoad_loop (s : State) : (s.beginLoad).loop = s.loop := by unfold State.beginLoad; repeat (first | rfl | split)
@[simp] theorem State_beginLoad_mirror (s : State) : (s.beginLoad).mirror = s.mirror := by unfold State.beginLoad; repeat (first | rfl | split)
@[simp] theorem State_beginLoad_poke (s : State) : (s.beginLoad).poke = s.poke := by unfold State.beginLoad; repeat (first | rfl | split)
@[simp] theorem State_beginLoad_telemetry (s : State) : (s.beginLoad).telemetry = s.telemetry := by unfold State.beginLoad; repeat (first | rfl | split)
@[simp] theorem State_beginLoad_mgmt (s : State) : (s.beginLoad).mgmt = s.mgmt := by unfold State.beginLoad; repeat (first | rfl | split)
@[simp] theorem State_beginLoad_events (s : State) : (s.beginLoad).events = s.events := by unfold State.beginLoad; repeat (first | rfl | split)

@[simp] theorem State_beginBurst_pending (s : State) (j : BurstJob) : (s.beginBurst j).pending = s.pending := by unfold State.beginBurst; split <;> simp
@[simp] theorem State_beginBurst_nodeNumber (s : State) (j : BurstJob) : (s.beginBurst j).nodeNumber = s.nodeNumber := by unfold State.beginBurst; split <;> simp
@[simp] theorem State_beginBurst_safeOut (s : State) (j : BurstJob) : (s.beginBurst j).safeOut = s.safeOut := by unfold State.beginBurst; split <;> simp
@[simp] theorem State_beginBurst_counters (s : State) (j : BurstJob) : (s.beginBurst j).counters = s.counters := by unfold State.beginBurst; split <;> simp
@[simp] theorem State_beginBurst_params (s : State) (j : BurstJob) : (s.beginBurst j).params = s.params := by unfold State.beginBurst; split <;> simp
@[simp] theorem State_beginBurst_ports (s : State) (j : BurstJob) : (s.beginBurst j).ports = s.ports := by unfold State.beginBurst; split <;> simp
@[simp] theorem State_beginBurst_engine (s : State) (j : BurstJob) : (s.beginBurst j).engine = s.engine := by unfold State.beginBurst; split <;> simp
@[simp] theorem State_beginBurst_frames (s : State) (j : BurstJob) : (s.beginBurst j).frames = s.frames := by unfold State.beginBurst; split <;> simp
@[simp] theorem State_beginBurst_dram (s : State) (j : BurstJob) : (s.beginBurst j).dram = s.dram := by unfold State.beginBurst; split <;> simp
@[simp] theorem State_beginBurst_arbiter (s : State) (j : BurstJob) : (s.beginBurst j).arbiter = s.arbiter := by unfold State.beginBurst; split <;> simp
@[simp] theorem State_beginBurst_trunk (s : State) (j : BurstJob) : (s.beginBurst j).trunk = s.trunk := by unfold State.beginBurst; split <;> simp
@[simp] theorem State_beginBurst_lastApplied (s : State) (j : BurstJob) : (s.beginBurst j).lastApplied = s.lastApplied := by unfold State.beginBurst; split <;> simp
@[simp] theorem State_beginBurst_tables (s : State) (j : BurstJob) : (s.beginBurst j).tables = s.tables := by unfold State.beginBurst; split <;> simp
@[simp] theorem State_beginBurst_loop (s : State) (j : BurstJob) : (s.beginBurst j).loop = s.loop := by unfold State.beginBurst; split <;> simp
@[simp] theorem State_beginBurst_mirror (s : State) (j : BurstJob) : (s.beginBurst j).mirror = s.mirror := by unfold State.beginBurst; split <;> simp
@[simp] theorem State_beginBurst_poke (s : State) (j : BurstJob) : (s.beginBurst j).poke = s.poke := by unfold State.beginBurst; split <;> simp
@[simp] theorem State_beginBurst_telemetry (s : State) (j : BurstJob) : (s.beginBurst j).telemetry = s.telemetry := by unfold State.beginBurst; split <;> simp
@[simp] theorem State_beginBurst_events (s : State) (j : BurstJob) : (s.beginBurst j).events = s.events := by unfold State.beginBurst; split <;> simp

@[simp] theorem State_grantDram_pending (s : State) : (s.grantDram).pending = s.pending := by unfold State.grantDram; split <;> (try split) <;> simp
@[simp] theorem State_grantDram_nodeNumber (s : State) : (s.grantDram).nodeNumber = s.nodeNumber := by unfold State.grantDram; split <;> (try split) <;> simp
@[simp] theorem State_grantDram_safeOut (s : State) : (s.grantDram).safeOut = s.safeOut := by unfold State.grantDram; split <;> (try split) <;> simp
@[simp] theorem State_grantDram_counters (s : State) : (s.grantDram).counters = s.counters := by unfold State.grantDram; split <;> (try split) <;> simp
@[simp] theorem State_grantDram_params (s : State) : (s.grantDram).params = s.params := by unfold State.grantDram; split <;> (try split) <;> simp
@[simp] theorem State_grantDram_ports (s : State) : (s.grantDram).ports = s.ports := by unfold State.grantDram; split <;> (try split) <;> simp
@[simp] theorem State_grantDram_engine (s : State) : (s.grantDram).engine = s.engine := by unfold State.grantDram; split <;> (try split) <;> simp
@[simp] theorem State_grantDram_frames (s : State) : (s.grantDram).frames = s.frames := by unfold State.grantDram; split <;> (try split) <;> simp
@[simp] theorem State_grantDram_dram (s : State) : (s.grantDram).dram = s.dram := by unfold State.grantDram; split <;> (try split) <;> simp
@[simp] theorem State_grantDram_trunk (s : State) : (s.grantDram).trunk = s.trunk := by unfold State.grantDram; split <;> (try split) <;> simp
@[simp] theorem State_grantDram_lastApplied (s : State) : (s.grantDram).lastApplied = s.lastApplied := by unfold State.grantDram; split <;> (try split) <;> simp
@[simp] theorem State_grantDram_tables (s : State) : (s.grantDram).tables = s.tables := by unfold State.grantDram; split <;> (try split) <;> simp
@[simp] theorem State_grantDram_loop (s : State) : (s.grantDram).loop = s.loop := by unfold State.grantDram; split <;> (try split) <;> simp
@[simp] theorem State_grantDram_mirror (s : State) : (s.grantDram).mirror = s.mirror := by unfold State.grantDram; split <;> (try split) <;> simp
@[simp] theorem State_grantDram_poke (s : State) : (s.grantDram).poke = s.poke := by unfold State.grantDram; split <;> (try split) <;> simp
@[simp] theorem State_grantDram_telemetry (s : State) : (s.grantDram).telemetry = s.telemetry := by unfold State.grantDram; split <;> (try split) <;> simp
@[simp] theorem State_grantDram_events (s : State) : (s.grantDram).events = s.events := by unfold State.grantDram; split <;> (try split) <;> simp

@[simp] theorem State_queueBursts_pending (s : State) (bs : List Burst) : (s.queueBursts bs).pending = s.pending := by simp [State.queueBursts]
@[simp] theorem State_queueBursts_nodeNumber (s : State) (bs : List Burst) : (s.queueBursts bs).nodeNumber = s.nodeNumber := by simp [State.queueBursts]
@[simp] theorem State_queueBursts_safeOut (s : State) (bs : List Burst) : (s.queueBursts bs).safeOut = s.safeOut := by simp [State.queueBursts]
@[simp] theorem State_queueBursts_counters (s : State) (bs : List Burst) : (s.queueBursts bs).counters = s.counters := by simp [State.queueBursts]
@[simp] theorem State_queueBursts_params (s : State) (bs : List Burst) : (s.queueBursts bs).params = s.params := by simp [State.queueBursts]
@[simp] theorem State_queueBursts_ports (s : State) (bs : List Burst) : (s.queueBursts bs).ports = s.ports := by simp [State.queueBursts]
@[simp] theorem State_queueBursts_engine (s : State) (bs : List Burst) : (s.queueBursts bs).engine = s.engine := by simp [State.queueBursts]
@[simp] theorem State_queueBursts_frames (s : State) (bs : List Burst) : (s.queueBursts bs).frames = s.frames := by simp [State.queueBursts]
@[simp] theorem State_queueBursts_dram (s : State) (bs : List Burst) : (s.queueBursts bs).dram = s.dram := by simp [State.queueBursts]
@[simp] theorem State_queueBursts_trunk (s : State) (bs : List Burst) : (s.queueBursts bs).trunk = s.trunk := by simp [State.queueBursts]
@[simp] theorem State_queueBursts_lastApplied (s : State) (bs : List Burst) : (s.queueBursts bs).lastApplied = s.lastApplied := by simp [State.queueBursts]
@[simp] theorem State_queueBursts_tables (s : State) (bs : List Burst) : (s.queueBursts bs).tables = s.tables := by simp [State.queueBursts]
@[simp] theorem State_queueBursts_loop (s : State) (bs : List Burst) : (s.queueBursts bs).loop = s.loop := by simp [State.queueBursts]
@[simp] theorem State_queueBursts_mirror (s : State) (bs : List Burst) : (s.queueBursts bs).mirror = s.mirror := by simp [State.queueBursts]
@[simp] theorem State_queueBursts_poke (s : State) (bs : List Burst) : (s.queueBursts bs).poke = s.poke := by simp [State.queueBursts]
@[simp] theorem State_queueBursts_telemetry (s : State) (bs : List Burst) : (s.queueBursts bs).telemetry = s.telemetry := by simp [State.queueBursts]
@[simp] theorem State_queueBursts_events (s : State) (bs : List Burst) : (s.queueBursts bs).events = s.events := by simp [State.queueBursts]

@[simp] theorem State_correct_pending (s : State) (c : Counter) (n : Nat) : (s.correct c n).pending = s.pending := by induction n generalizing s with | zero => rfl | succ n ih => simp [State.correct, ih]
@[simp] theorem State_correct_nodeNumber (s : State) (c : Counter) (n : Nat) : (s.correct c n).nodeNumber = s.nodeNumber := by induction n generalizing s with | zero => rfl | succ n ih => simp [State.correct, ih]
@[simp] theorem State_correct_safeOut (s : State) (c : Counter) (n : Nat) : (s.correct c n).safeOut = s.safeOut := by induction n generalizing s with | zero => rfl | succ n ih => simp [State.correct, ih]
@[simp] theorem State_correct_params (s : State) (c : Counter) (n : Nat) : (s.correct c n).params = s.params := by induction n generalizing s with | zero => rfl | succ n ih => simp [State.correct, ih]
@[simp] theorem State_correct_ports (s : State) (c : Counter) (n : Nat) : (s.correct c n).ports = s.ports := by induction n generalizing s with | zero => rfl | succ n ih => simp [State.correct, ih]
@[simp] theorem State_correct_engine (s : State) (c : Counter) (n : Nat) : (s.correct c n).engine = s.engine := by induction n generalizing s with | zero => rfl | succ n ih => simp [State.correct, ih]
@[simp] theorem State_correct_frames (s : State) (c : Counter) (n : Nat) : (s.correct c n).frames = s.frames := by induction n generalizing s with | zero => rfl | succ n ih => simp [State.correct, ih]
@[simp] theorem State_correct_bankStore (s : State) (c : Counter) (n : Nat) : (s.correct c n).bankStore = s.bankStore := by induction n generalizing s with | zero => rfl | succ n ih => simp [State.correct, ih]
@[simp] theorem State_correct_dram (s : State) (c : Counter) (n : Nat) : (s.correct c n).dram = s.dram := by induction n generalizing s with | zero => rfl | succ n ih => simp [State.correct, ih]
@[simp] theorem State_correct_arbiter (s : State) (c : Counter) (n : Nat) : (s.correct c n).arbiter = s.arbiter := by induction n generalizing s with | zero => rfl | succ n ih => simp [State.correct, ih]
@[simp] theorem State_correct_lastApplied (s : State) (c : Counter) (n : Nat) : (s.correct c n).lastApplied = s.lastApplied := by induction n generalizing s with | zero => rfl | succ n ih => simp [State.correct, ih]
@[simp] theorem State_correct_tables (s : State) (c : Counter) (n : Nat) : (s.correct c n).tables = s.tables := by induction n generalizing s with | zero => rfl | succ n ih => simp [State.correct, ih]
@[simp] theorem State_correct_mirror (s : State) (c : Counter) (n : Nat) : (s.correct c n).mirror = s.mirror := by induction n generalizing s with | zero => rfl | succ n ih => simp [State.correct, ih]
@[simp] theorem State_correct_poke (s : State) (c : Counter) (n : Nat) : (s.correct c n).poke = s.poke := by induction n generalizing s with | zero => rfl | succ n ih => simp [State.correct, ih]
@[simp] theorem State_correct_mgmt (s : State) (c : Counter) (n : Nat) : (s.correct c n).mgmt = s.mgmt := by induction n generalizing s with | zero => rfl | succ n ih => simp [State.correct, ih]

@[simp] theorem State_noteUncorrectable_pending (s : State) (b : Burst) : (s.noteUncorrectable b).pending = s.pending := by unfold State.noteUncorrectable; dsimp only; split <;> rfl
@[simp] theorem State_noteUncorrectable_nodeNumber (s : State) (b : Burst) : (s.noteUncorrectable b).nodeNumber = s.nodeNumber := by unfold State.noteUncorrectable; dsimp only; split <;> rfl
@[simp] theorem State_noteUncorrectable_safeOut (s : State) (b : Burst) : (s.noteUncorrectable b).safeOut = s.safeOut := by unfold State.noteUncorrectable; dsimp only; split <;> rfl
@[simp] theorem State_noteUncorrectable_params (s : State) (b : Burst) : (s.noteUncorrectable b).params = s.params := by unfold State.noteUncorrectable; dsimp only; split <;> rfl
@[simp] theorem State_noteUncorrectable_ports (s : State) (b : Burst) : (s.noteUncorrectable b).ports = s.ports := by unfold State.noteUncorrectable; dsimp only; split <;> rfl
@[simp] theorem State_noteUncorrectable_engine (s : State) (b : Burst) : (s.noteUncorrectable b).engine = s.engine := by unfold State.noteUncorrectable; dsimp only; split <;> rfl
@[simp] theorem State_noteUncorrectable_frames (s : State) (b : Burst) : (s.noteUncorrectable b).frames = s.frames := by unfold State.noteUncorrectable; dsimp only; split <;> rfl
@[simp] theorem State_noteUncorrectable_dram (s : State) (b : Burst) : (s.noteUncorrectable b).dram = s.dram := by unfold State.noteUncorrectable; dsimp only; split <;> rfl
@[simp] theorem State_noteUncorrectable_arbiter (s : State) (b : Burst) : (s.noteUncorrectable b).arbiter = s.arbiter := by unfold State.noteUncorrectable; dsimp only; split <;> rfl
@[simp] theorem State_noteUncorrectable_trunk (s : State) (b : Burst) : (s.noteUncorrectable b).trunk = s.trunk := by unfold State.noteUncorrectable; dsimp only; split <;> rfl
@[simp] theorem State_noteUncorrectable_lastApplied (s : State) (b : Burst) : (s.noteUncorrectable b).lastApplied = s.lastApplied := by unfold State.noteUncorrectable; dsimp only; split <;> rfl
@[simp] theorem State_noteUncorrectable_tables (s : State) (b : Burst) : (s.noteUncorrectable b).tables = s.tables := by unfold State.noteUncorrectable; dsimp only; split <;> rfl
@[simp] theorem State_noteUncorrectable_loop (s : State) (b : Burst) : (s.noteUncorrectable b).loop = s.loop := by unfold State.noteUncorrectable; dsimp only; split <;> rfl
@[simp] theorem State_noteUncorrectable_mirror (s : State) (b : Burst) : (s.noteUncorrectable b).mirror = s.mirror := by unfold State.noteUncorrectable; dsimp only; split <;> rfl
@[simp] theorem State_noteUncorrectable_poke (s : State) (b : Burst) : (s.noteUncorrectable b).poke = s.poke := by unfold State.noteUncorrectable; dsimp only; split <;> rfl
@[simp] theorem State_noteUncorrectable_telemetry (s : State) (b : Burst) : (s.noteUncorrectable b).telemetry = s.telemetry := by unfold State.noteUncorrectable; dsimp only; split <;> rfl
@[simp] theorem State_noteUncorrectable_mgmt (s : State) (b : Burst) : (s.noteUncorrectable b).mgmt = s.mgmt := by unfold State.noteUncorrectable; dsimp only; split <;> rfl
@[simp] theorem State_noteUncorrectable_events (s : State) (b : Burst) : (s.noteUncorrectable b).events = s.events := by unfold State.noteUncorrectable; dsimp only; split <;> rfl

@[simp] theorem State_checkRead_pending (s : State) (b : Burst) : (s.checkRead b).pending = s.pending := by unfold State.checkRead; dsimp only; split <;> simp
@[simp] theorem State_checkRead_nodeNumber (s : State) (b : Burst) : (s.checkRead b).nodeNumber = s.nodeNumber := by unfold State.checkRead; dsimp only; split <;> simp
@[simp] theorem State_checkRead_safeOut (s : State) (b : Burst) : (s.checkRead b).safeOut = s.safeOut := by unfold State.checkRead; dsimp only; split <;> simp
@[simp] theorem State_checkRead_params (s : State) (b : Burst) : (s.checkRead b).params = s.params := by unfold State.checkRead; dsimp only; split <;> simp
@[simp] theorem State_checkRead_ports (s : State) (b : Burst) : (s.checkRead b).ports = s.ports := by unfold State.checkRead; dsimp only; split <;> simp
@[simp] theorem State_checkRead_engine (s : State) (b : Burst) : (s.checkRead b).engine = s.engine := by unfold State.checkRead; dsimp only; split <;> simp
@[simp] theorem State_checkRead_frames (s : State) (b : Burst) : (s.checkRead b).frames = s.frames := by unfold State.checkRead; dsimp only; split <;> simp
@[simp] theorem State_checkRead_dram (s : State) (b : Burst) : (s.checkRead b).dram = s.dram := by unfold State.checkRead; dsimp only; split <;> simp
@[simp] theorem State_checkRead_arbiter (s : State) (b : Burst) : (s.checkRead b).arbiter = s.arbiter := by unfold State.checkRead; dsimp only; split <;> simp
@[simp] theorem State_checkRead_lastApplied (s : State) (b : Burst) : (s.checkRead b).lastApplied = s.lastApplied := by unfold State.checkRead; dsimp only; split <;> simp
@[simp] theorem State_checkRead_tables (s : State) (b : Burst) : (s.checkRead b).tables = s.tables := by unfold State.checkRead; dsimp only; split <;> simp
@[simp] theorem State_checkRead_mirror (s : State) (b : Burst) : (s.checkRead b).mirror = s.mirror := by unfold State.checkRead; dsimp only; split <;> simp
@[simp] theorem State_checkRead_poke (s : State) (b : Burst) : (s.checkRead b).poke = s.poke := by unfold State.checkRead; dsimp only; split <;> simp
@[simp] theorem State_checkRead_mgmt (s : State) (b : Burst) : (s.checkRead b).mgmt = s.mgmt := by unfold State.checkRead; dsimp only; split <;> simp

@[simp] theorem State_storeBurst_pending (s : State) (b : Burst) : (s.storeBurst b).pending = s.pending := by unfold State.storeBurst; split <;> simp
@[simp] theorem State_storeBurst_nodeNumber (s : State) (b : Burst) : (s.storeBurst b).nodeNumber = s.nodeNumber := by unfold State.storeBurst; split <;> simp
@[simp] theorem State_storeBurst_safeOut (s : State) (b : Burst) : (s.storeBurst b).safeOut = s.safeOut := by unfold State.storeBurst; split <;> simp
@[simp] theorem State_storeBurst_counters (s : State) (b : Burst) : (s.storeBurst b).counters = s.counters := by unfold State.storeBurst; split <;> simp
@[simp] theorem State_storeBurst_params (s : State) (b : Burst) : (s.storeBurst b).params = s.params := by unfold State.storeBurst; split <;> simp
@[simp] theorem State_storeBurst_ports (s : State) (b : Burst) : (s.storeBurst b).ports = s.ports := by unfold State.storeBurst; split <;> simp
@[simp] theorem State_storeBurst_engine (s : State) (b : Burst) : (s.storeBurst b).engine = s.engine := by unfold State.storeBurst; split <;> simp
@[simp] theorem State_storeBurst_frames (s : State) (b : Burst) : (s.storeBurst b).frames = s.frames := by unfold State.storeBurst; split <;> simp
@[simp] theorem State_storeBurst_bankStore (s : State) (b : Burst) : (s.storeBurst b).bankStore = s.bankStore := by unfold State.storeBurst; split <;> simp
@[simp] theorem State_storeBurst_arbiter (s : State) (b : Burst) : (s.storeBurst b).arbiter = s.arbiter := by unfold State.storeBurst; split <;> simp
@[simp] theorem State_storeBurst_trunk (s : State) (b : Burst) : (s.storeBurst b).trunk = s.trunk := by unfold State.storeBurst; split <;> simp
@[simp] theorem State_storeBurst_lastApplied (s : State) (b : Burst) : (s.storeBurst b).lastApplied = s.lastApplied := by unfold State.storeBurst; split <;> simp
@[simp] theorem State_storeBurst_tables (s : State) (b : Burst) : (s.storeBurst b).tables = s.tables := by unfold State.storeBurst; split <;> simp
@[simp] theorem State_storeBurst_loop (s : State) (b : Burst) : (s.storeBurst b).loop = s.loop := by unfold State.storeBurst; split <;> simp
@[simp] theorem State_storeBurst_mirror (s : State) (b : Burst) : (s.storeBurst b).mirror = s.mirror := by unfold State.storeBurst; split <;> simp
@[simp] theorem State_storeBurst_poke (s : State) (b : Burst) : (s.storeBurst b).poke = s.poke := by unfold State.storeBurst; split <;> simp
@[simp] theorem State_storeBurst_telemetry (s : State) (b : Burst) : (s.storeBurst b).telemetry = s.telemetry := by unfold State.storeBurst; split <;> simp
@[simp] theorem State_storeBurst_mgmt (s : State) (b : Burst) : (s.storeBurst b).mgmt = s.mgmt := by unfold State.storeBurst; split <;> simp
@[simp] theorem State_storeBurst_events (s : State) (b : Burst) : (s.storeBurst b).events = s.events := by unfold State.storeBurst; split <;> simp

@[simp] theorem State_completionTest_pending (s : State) (c : Ix) : (s.completionTest c).pending = s.pending := by unfold State.completionTest; dsimp only; split <;> simp
@[simp] theorem State_completionTest_nodeNumber (s : State) (c : Ix) : (s.completionTest c).nodeNumber = s.nodeNumber := by unfold State.completionTest; dsimp only; split <;> simp
@[simp] theorem State_completionTest_safeOut (s : State) (c : Ix) : (s.completionTest c).safeOut = s.safeOut := by unfold State.completionTest; dsimp only; split <;> simp
@[simp] theorem State_completionTest_params (s : State) (c : Ix) : (s.completionTest c).params = s.params := by unfold State.completionTest; dsimp only; split <;> simp
@[simp] theorem State_completionTest_ports (s : State) (c : Ix) : (s.completionTest c).ports = s.ports := by unfold State.completionTest; dsimp only; split <;> simp
@[simp] theorem State_completionTest_engine (s : State) (c : Ix) : (s.completionTest c).engine = s.engine := by unfold State.completionTest; dsimp only; split <;> simp
@[simp] theorem State_completionTest_bankStore (s : State) (c : Ix) : (s.completionTest c).bankStore = s.bankStore := by unfold State.completionTest; dsimp only; split <;> simp
@[simp] theorem State_completionTest_dram (s : State) (c : Ix) : (s.completionTest c).dram = s.dram := by unfold State.completionTest; dsimp only; split <;> simp
@[simp] theorem State_completionTest_arbiter (s : State) (c : Ix) : (s.completionTest c).arbiter = s.arbiter := by unfold State.completionTest; dsimp only; split <;> simp
@[simp] theorem State_completionTest_trunk (s : State) (c : Ix) : (s.completionTest c).trunk = s.trunk := by unfold State.completionTest; dsimp only; split <;> simp
@[simp] theorem State_completionTest_lastApplied (s : State) (c : Ix) : (s.completionTest c).lastApplied = s.lastApplied := by unfold State.completionTest; dsimp only; split <;> simp
@[simp] theorem State_completionTest_tables (s : State) (c : Ix) : (s.completionTest c).tables = s.tables := by unfold State.completionTest; dsimp only; split <;> simp
@[simp] theorem State_completionTest_loop (s : State) (c : Ix) : (s.completionTest c).loop = s.loop := by unfold State.completionTest; dsimp only; split <;> simp
@[simp] theorem State_completionTest_mirror (s : State) (c : Ix) : (s.completionTest c).mirror = s.mirror := by unfold State.completionTest; dsimp only; split <;> simp
@[simp] theorem State_completionTest_poke (s : State) (c : Ix) : (s.completionTest c).poke = s.poke := by unfold State.completionTest; dsimp only; split <;> simp
@[simp] theorem State_completionTest_telemetry (s : State) (c : Ix) : (s.completionTest c).telemetry = s.telemetry := by unfold State.completionTest; dsimp only; split <;> simp
@[simp] theorem State_completionTest_mgmt (s : State) (c : Ix) : (s.completionTest c).mgmt = s.mgmt := by unfold State.completionTest; dsimp only; split <;> simp
@[simp] theorem State_completionTest_events (s : State) (c : Ix) : (s.completionTest c).events = s.events := by unfold State.completionTest; dsimp only; split <;> simp

@[simp] theorem State_handToMirror_pending (s : State) (f : MlFrame) : (s.handToMirror f).pending = s.pending := by unfold State.handToMirror; split <;> (try split) <;> simp
@[simp] theorem State_handToMirror_nodeNumber (s : State) (f : MlFrame) : (s.handToMirror f).nodeNumber = s.nodeNumber := by unfold State.handToMirror; split <;> (try split) <;> simp
@[simp] theorem State_handToMirror_safeOut (s : State) (f : MlFrame) : (s.handToMirror f).safeOut = s.safeOut := by unfold State.handToMirror; split <;> (try split) <;> simp
@[simp] theorem State_handToMirror_params (s : State) (f : MlFrame) : (s.handToMirror f).params = s.params := by unfold State.handToMirror; split <;> (try split) <;> simp
@[simp] theorem State_handToMirror_ports (s : State) (f : MlFrame) : (s.handToMirror f).ports = s.ports := by unfold State.handToMirror; split <;> (try split) <;> simp
@[simp] theorem State_handToMirror_engine (s : State) (f : MlFrame) : (s.handToMirror f).engine = s.engine := by unfold State.handToMirror; split <;> (try split) <;> simp
@[simp] theorem State_handToMirror_frames (s : State) (f : MlFrame) : (s.handToMirror f).frames = s.frames := by unfold State.handToMirror; split <;> (try split) <;> simp
@[simp] theorem State_handToMirror_bankStore (s : State) (f : MlFrame) : (s.handToMirror f).bankStore = s.bankStore := by unfold State.handToMirror; split <;> (try split) <;> simp
@[simp] theorem State_handToMirror_dram (s : State) (f : MlFrame) : (s.handToMirror f).dram = s.dram := by unfold State.handToMirror; split <;> (try split) <;> simp
@[simp] theorem State_handToMirror_arbiter (s : State) (f : MlFrame) : (s.handToMirror f).arbiter = s.arbiter := by unfold State.handToMirror; split <;> (try split) <;> simp
@[simp] theorem State_handToMirror_trunk (s : State) (f : MlFrame) : (s.handToMirror f).trunk = s.trunk := by unfold State.handToMirror; split <;> (try split) <;> simp
@[simp] theorem State_handToMirror_lastApplied (s : State) (f : MlFrame) : (s.handToMirror f).lastApplied = s.lastApplied := by unfold State.handToMirror; split <;> (try split) <;> simp
@[simp] theorem State_handToMirror_tables (s : State) (f : MlFrame) : (s.handToMirror f).tables = s.tables := by unfold State.handToMirror; split <;> (try split) <;> simp
@[simp] theorem State_handToMirror_loop (s : State) (f : MlFrame) : (s.handToMirror f).loop = s.loop := by unfold State.handToMirror; split <;> (try split) <;> simp
@[simp] theorem State_handToMirror_poke (s : State) (f : MlFrame) : (s.handToMirror f).poke = s.poke := by unfold State.handToMirror; split <;> (try split) <;> simp
@[simp] theorem State_handToMirror_telemetry (s : State) (f : MlFrame) : (s.handToMirror f).telemetry = s.telemetry := by unfold State.handToMirror; split <;> (try split) <;> simp
@[simp] theorem State_handToMirror_mgmt (s : State) (f : MlFrame) : (s.handToMirror f).mgmt = s.mgmt := by unfold State.handToMirror; split <;> (try split) <;> simp
@[simp] theorem State_handToMirror_events (s : State) (f : MlFrame) : (s.handToMirror f).events = s.events := by unfold State.handToMirror; split <;> (try split) <;> simp

@[simp] theorem State_buildShape_pending (s : State) : (s.buildShape).pending = s.pending := by simp [State.buildShape]
@[simp] theorem State_buildShape_nodeNumber (s : State) : (s.buildShape).nodeNumber = s.nodeNumber := by simp [State.buildShape]
@[simp] theorem State_buildShape_safeOut (s : State) : (s.buildShape).safeOut = s.safeOut := by simp [State.buildShape]
@[simp] theorem State_buildShape_params (s : State) : (s.buildShape).params = s.params := by simp [State.buildShape]
@[simp] theorem State_buildShape_ports (s : State) : (s.buildShape).ports = s.ports := by simp [State.buildShape]
@[simp] theorem State_buildShape_engine (s : State) : (s.buildShape).engine = s.engine := by simp [State.buildShape]
@[simp] theorem State_buildShape_frames (s : State) : (s.buildShape).frames = s.frames := by simp [State.buildShape]
@[simp] theorem State_buildShape_bankStore (s : State) : (s.buildShape).bankStore = s.bankStore := by simp [State.buildShape]
@[simp] theorem State_buildShape_dram (s : State) : (s.buildShape).dram = s.dram := by simp [State.buildShape]
@[simp] theorem State_buildShape_arbiter (s : State) : (s.buildShape).arbiter = s.arbiter := by simp [State.buildShape]
@[simp] theorem State_buildShape_trunk (s : State) : (s.buildShape).trunk = s.trunk := by simp [State.buildShape]
@[simp] theorem State_buildShape_lastApplied (s : State) : (s.buildShape).lastApplied = s.lastApplied := by simp [State.buildShape]
@[simp] theorem State_buildShape_loop (s : State) : (s.buildShape).loop = s.loop := by simp [State.buildShape]
@[simp] theorem State_buildShape_poke (s : State) : (s.buildShape).poke = s.poke := by simp [State.buildShape]
@[simp] theorem State_buildShape_telemetry (s : State) : (s.buildShape).telemetry = s.telemetry := by simp [State.buildShape]
@[simp] theorem State_buildShape_mgmt (s : State) : (s.buildShape).mgmt = s.mgmt := by simp [State.buildShape]
@[simp] theorem State_buildShape_events (s : State) : (s.buildShape).events = s.events := by simp [State.buildShape]

@[simp] theorem State_release_pending (s : State) (c : Ix) : (s.release c).pending = s.pending := by unfold State.release; dsimp only; split <;> simp
@[simp] theorem State_release_nodeNumber (s : State) (c : Ix) : (s.release c).nodeNumber = s.nodeNumber := by unfold State.release; dsimp only; split <;> simp
@[simp] theorem State_release_safeOut (s : State) (c : Ix) : (s.release c).safeOut = s.safeOut := by unfold State.release; dsimp only; split <;> simp
@[simp] theorem State_release_counters (s : State) (c : Ix) : (s.release c).counters = s.counters := by unfold State.release; dsimp only; split <;> simp
@[simp] theorem State_release_params (s : State) (c : Ix) : (s.release c).params = s.params := by unfold State.release; dsimp only; split <;> simp
@[simp] theorem State_release_ports (s : State) (c : Ix) : (s.release c).ports = s.ports := by unfold State.release; dsimp only; split <;> simp
@[simp] theorem State_release_engine (s : State) (c : Ix) : (s.release c).engine = s.engine := by unfold State.release; dsimp only; split <;> simp
@[simp] theorem State_release_dram (s : State) (c : Ix) : (s.release c).dram = s.dram := by unfold State.release; dsimp only; split <;> simp
@[simp] theorem State_release_arbiter (s : State) (c : Ix) : (s.release c).arbiter = s.arbiter := by unfold State.release; dsimp only; split <;> simp
@[simp] theorem State_release_trunk (s : State) (c : Ix) : (s.release c).trunk = s.trunk := by unfold State.release; dsimp only; split <;> simp
@[simp] theorem State_release_lastApplied (s : State) (c : Ix) : (s.release c).lastApplied = s.lastApplied := by unfold State.release; dsimp only; split <;> simp
@[simp] theorem State_release_tables (s : State) (c : Ix) : (s.release c).tables = s.tables := by unfold State.release; dsimp only; split <;> simp
@[simp] theorem State_release_loop (s : State) (c : Ix) : (s.release c).loop = s.loop := by unfold State.release; dsimp only; split <;> simp
@[simp] theorem State_release_mirror (s : State) (c : Ix) : (s.release c).mirror = s.mirror := by unfold State.release; dsimp only; split <;> simp
@[simp] theorem State_release_poke (s : State) (c : Ix) : (s.release c).poke = s.poke := by unfold State.release; dsimp only; split <;> simp
@[simp] theorem State_release_telemetry (s : State) (c : Ix) : (s.release c).telemetry = s.telemetry := by unfold State.release; dsimp only; split <;> simp
@[simp] theorem State_release_mgmt (s : State) (c : Ix) : (s.release c).mgmt = s.mgmt := by unfold State.release; dsimp only; split <;> simp
@[simp] theorem State_release_events (s : State) (c : Ix) : (s.release c).events = s.events := by unfold State.release; dsimp only; split <;> simp

@[simp] theorem State_loop_state_raise (s : State) (e : Event) : (s.raise e).loop.state = s.loop.state := by
  unfold State.raise State.joinLaterCauses; dsimp only; split <;> (try split) <;> simp

/-! ## Fields within a part -/

@[simp] theorem State_grantTo_trunk_tiUp (s : State) : (s.grantTo).trunk.tiUp = s.trunk.tiUp := by unfold State.grantTo; repeat (first | rfl | split)
@[simp] theorem State_grantTo_trunk_toUp (s : State) : (s.grantTo).trunk.toUp = s.trunk.toUp := by unfold State.grantTo; repeat (first | rfl | split)

@[simp] theorem State_placeControl_trunk_tiUp (s : State) (f : ToFrame) : (s.placeControl f).trunk.tiUp = s.trunk.tiUp := by unfold State.placeControl; split <;> simp
@[simp] theorem State_placeControl_trunk_toUp (s : State) (f : ToFrame) : (s.placeControl f).trunk.toUp = s.trunk.toUp := by unfold State.placeControl; split <;> simp

@[simp] theorem State_placeRealtime_trunk_tiUp (s : State) (b : List Byte) : (s.placeRealtime b).trunk.tiUp = s.trunk.tiUp := by simp [State.placeRealtime]
@[simp] theorem State_placeRealtime_trunk_toUp (s : State) (b : List Byte) : (s.placeRealtime b).trunk.toUp = s.trunk.toUp := by simp [State.placeRealtime]

@[simp] theorem State_respond_trunk_tiUp (s : State) (r : Request) (st : Status) (e : Option Tag) (b : List Byte) : (s.respond r st e b).trunk.tiUp = s.trunk.tiUp := by simp [State.respond]
@[simp] theorem State_respond_trunk_toUp (s : State) (r : Request) (st : Status) (e : Option Tag) (b : List Byte) : (s.respond r st e b).trunk.toUp = s.trunk.toUp := by simp [State.respond]

@[simp] theorem State_placeEvent_trunk_tiUp (s : State) : (s.placeEvent).trunk.tiUp = s.trunk.tiUp := by simp [State.placeEvent]
@[simp] theorem State_placeEvent_trunk_toUp (s : State) : (s.placeEvent).trunk.toUp = s.trunk.toUp := by simp [State.placeEvent]

@[simp] theorem State_reportTest_trunk_tiUp (s : State) : (s.reportTest).trunk.tiUp = s.trunk.tiUp := by unfold State.reportTest; split <;> simp
@[simp] theorem State_reportTest_trunk_toUp (s : State) : (s.reportTest).trunk.toUp = s.trunk.toUp := by unfold State.reportTest; split <;> simp

@[simp] theorem State_raise_trunk_tiUp (s : State) (e : Event) : (s.raise e).trunk.tiUp = s.trunk.tiUp := by unfold State.raise; dsimp only; split <;> simp
@[simp] theorem State_raise_trunk_toUp (s : State) (e : Event) : (s.raise e).trunk.toUp = s.trunk.toUp := by unfold State.raise; dsimp only; split <;> simp

@[simp] theorem State_placeEvent_events_enabled (s : State) : (s.placeEvent).events.enabled = s.events.enabled := by simp [State.placeEvent]
@[simp] theorem State_placeEvent_events_critical (s : State) : (s.placeEvent).events.critical = s.events.critical := by simp [State.placeEvent]
@[simp] theorem State_placeEvent_events_reportEnable (s : State) : (s.placeEvent).events.reportEnable = s.events.reportEnable := by simp [State.placeEvent]

@[simp] theorem State_reportTest_events_enabled (s : State) : (s.reportTest).events.enabled = s.events.enabled := by unfold State.reportTest; split <;> simp
@[simp] theorem State_reportTest_events_critical (s : State) : (s.reportTest).events.critical = s.events.critical := by unfold State.reportTest; split <;> simp
@[simp] theorem State_reportTest_events_reportEnable (s : State) : (s.reportTest).events.reportEnable = s.events.reportEnable := by unfold State.reportTest; split <;> simp

@[simp] theorem State_triggerCapture_events_enabled (s : State) (e : Event) : (s.triggerCapture e).events.enabled = s.events.enabled := by unfold State.triggerCapture; split <;> (try dsimp only) <;> (try split) <;> simp [State.setPending]
@[simp] theorem State_triggerCapture_events_critical (s : State) (e : Event) : (s.triggerCapture e).events.critical = s.events.critical := by unfold State.triggerCapture; split <;> (try dsimp only) <;> (try split) <;> simp [State.setPending]
@[simp] theorem State_triggerCapture_events_reportEnable (s : State) (e : Event) : (s.triggerCapture e).events.reportEnable = s.events.reportEnable := by unfold State.triggerCapture; split <;> (try dsimp only) <;> (try split) <;> simp [State.setPending]

@[simp] theorem State_raise_events_enabled (s : State) (e : Event) : (s.raise e).events.enabled = s.events.enabled := by unfold State.raise; dsimp only; split <;> simp [State.setPending]
@[simp] theorem State_raise_events_critical (s : State) (e : Event) : (s.raise e).events.critical = s.events.critical := by unfold State.raise; dsimp only; split <;> simp [State.setPending]
@[simp] theorem State_raise_events_reportEnable (s : State) (e : Event) : (s.raise e).events.reportEnable = s.events.reportEnable := by unfold State.raise; dsimp only; split <;> simp [State.setPending]

@[simp] theorem State_joinLaterCauses_loop_badFrames (s : State) (e : Event) : (s.joinLaterCauses e).loop.badFrames = s.loop.badFrames := by unfold State.joinLaterCauses; split <;> rfl
@[simp] theorem State_joinLaterCauses_loop_satRun (s : State) (e : Event) : (s.joinLaterCauses e).loop.satRun = s.loop.satRun := by unfold State.joinLaterCauses; split <;> rfl
@[simp] theorem State_joinLaterCauses_loop_lastClampCount (s : State) (e : Event) : (s.joinLaterCauses e).loop.lastClampCount = s.loop.lastClampCount := by unfold State.joinLaterCauses; split <;> rfl
@[simp] theorem State_joinLaterCauses_loop_lastFinish (s : State) (e : Event) : (s.joinLaterCauses e).loop.lastFinish = s.loop.lastFinish := by unfold State.joinLaterCauses; split <;> rfl
@[simp] theorem State_joinLaterCauses_loop_starvation (s : State) (e : Event) : (s.joinLaterCauses e).loop.starvation = s.loop.starvation := by unfold State.joinLaterCauses; split <;> rfl
@[simp] theorem State_joinLaterCauses_loop_parkRefresh (s : State) (e : Event) : (s.joinLaterCauses e).loop.parkRefresh = s.loop.parkRefresh := by unfold State.joinLaterCauses; split <;> rfl
@[simp] theorem State_joinLaterCauses_loop_snapshotState (s : State) (e : Event) : (s.joinLaterCauses e).loop.snapshotState = s.loop.snapshotState := by unfold State.joinLaterCauses; split <;> rfl

@[simp] theorem State_raise_loop_badFrames (s : State) (e : Event) : (s.raise e).loop.badFrames = s.loop.badFrames := by unfold State.raise; dsimp only; split <;> simp
@[simp] theorem State_raise_loop_satRun (s : State) (e : Event) : (s.raise e).loop.satRun = s.loop.satRun := by unfold State.raise; dsimp only; split <;> simp
@[simp] theorem State_raise_loop_lastClampCount (s : State) (e : Event) : (s.raise e).loop.lastClampCount = s.loop.lastClampCount := by unfold State.raise; dsimp only; split <;> simp
@[simp] theorem State_raise_loop_lastFinish (s : State) (e : Event) : (s.raise e).loop.lastFinish = s.loop.lastFinish := by unfold State.raise; dsimp only; split <;> simp
@[simp] theorem State_raise_loop_starvation (s : State) (e : Event) : (s.raise e).loop.starvation = s.loop.starvation := by unfold State.raise; dsimp only; split <;> simp
@[simp] theorem State_raise_loop_parkRefresh (s : State) (e : Event) : (s.raise e).loop.parkRefresh = s.loop.parkRefresh := by unfold State.raise; dsimp only; split <;> simp
@[simp] theorem State_raise_loop_snapshotState (s : State) (e : Event) : (s.raise e).loop.snapshotState = s.loop.snapshotState := by unfold State.raise; dsimp only; split <;> simp

@[simp] theorem State_triggerCapture_telemetry_config (s : State) (e : Event) : (s.triggerCapture e).telemetry.config = s.telemetry.config := by unfold State.triggerCapture; split <;> (try dsimp only) <;> (try split) <;> simp [State.setPending]

@[simp] theorem State_raise_telemetry_config (s : State) (e : Event) : (s.raise e).telemetry.config = s.telemetry.config := by unfold State.raise; dsimp only; split <;> simp


/-! ## Counters -/

/-- The counters of a port in the order of their places. -/
def portCounters : List PortCounter :=
  [
    .accepted, .headerErrors, .notRunning, .rangeErrors, .droppedFull, .stoppedDiscard, .lateAtArrival,
    .noMatrix, .payloadErrors, .truncated, .lateAtConsumption, .duplicates, .clamped, .missing, .substituted,
    .lost, .linkDown]

/-- The counters of the blocks from the Frame Context Unit to the Controller Unit, in the order of their numbers. -/
def blockCounters1 : List Counter :=
  [
    .contextsOpened, .assembled, .assemblyDeadlines, .lateAccumulations, .deliveryDeadlines, .abandoned,
    .forcedByDisplacement, .lateSegments, .outOfOrderDeliveries, .swaps, .swapsCancelled, .loadsWritten,
    .loadsTimedOut, .readbacks, .correctedBank, .correctedTelemetry, .correctedPoke, .uncorrectableColumn,
    .uncorrectablePoke, .uncorrectableTelemetry, .uncorrectableReadback, .receivedPartial, .receivedRequest,
    .receivedResponse, .receivedEvent, .lengthErrors, .crcErrors, .unknownKind, .truncatedTi,
    .partialDiscarded, .consumedRequests, .forwarded, .realtimeSent, .controlSent, .realtimeOverflow,
    .controlOverflow, .transmitAborted, .tiLinkDown, .toLinkDown, .malformedSegments, .mismatchedSegments,
    .passedThrough, .storedSegments, .duplicateSegments, .contributingMerges, .ownBitPresent, .mixedSegments,
    .forcedSegments, .goodFrames, .lateFrames, .lateByDeadline, .lateByDisplacement, .lateByTag,
    .incompleteFrames]

/-- The counters of the other blocks, in the order of their numbers. -/
def blockCounters2 : List Counter :=
  [
    .residualsComputed, .residualSaturatedFrames, .closedUpdates, .antiWindupClamps, .bumplessLoads,
    .integratorResets, .limitClamps, .unslaved, .slaveParked, .pokeIgnored, .pairsOutOfRange, .deadPairs,
    .limitedPairs, .unresolvedPairs, .outputClamps, .commandsBuilt, .safeEntries, .starvationHolds,
    .commandSent, .shapeSent, .superseded, .unsent, .mlTransmitAborted, .mlLinkDown, .missedEchoes, .echoesOk,
    .echoErrors, .unknownEchoes, .driverFaults, .mirrorLinkLost, .sequencesStarted, .sequencesDone,
    .sequencesStopped, .sequencesAborted, .pokeFaults, .illFormedRecords, .recordsCompleted, .withheldFrames,
    .recordReadbackErrors, .recordsWritten, .telemetryDropped, .overwritten, .refusedFull, .triggers,
    .recordsRead, .mediaDiscarded, .requestsAccepted, .requestsRefused, .busy, .stagedFull, .stagedPlaced,
    .stagedDrained, .timedOut, .eventFrames]

/-- All counters in the order of their numbers. -/
def allCounters : List Counter :=
  portCounters.map (.port .zero) ++ portCounters.map (.port .one) ++ (blockCounters1 ++ blockCounters2)

theorem allCounters_number (c : Counter) : allCounters[c.number]? = some c := by
  cases c with
  | port p x => cases p <;> cases x <;> rfl
  | _ => rfl

/-- Counters with the same number are the same. -/
theorem Counter_number_inj {c d : Counter} (h : c.number = d.number) : c = d := by
  have := allCounters_number c
  rw [h, allCounters_number d] at this
  exact (Option.some.inj this).symm

theorem counter_bumpBy (s : State) (c d : Counter) (n : Nat) :
    (s.bumpBy c n).counter d = if d = c then min (s.counter c + n) Config.counterMax else s.counter d := by
  unfold State.counter State.bumpBy
  by_cases h : d = c
  · subst h; simp
  · rw [if_neg h]; exact Table_get_set_ne _ (fun e => h (Counter_number_inj e)) _

theorem counter_bump (s : State) (c d : Counter) :
    (s.bump c).counter d = if d = c then min (s.counter c + 1) Config.counterMax else s.counter d := counter_bumpBy s c d 1

theorem counter_bumpIf (s : State) (b : Bool) (c d : Counter) :
    (s.bumpIf b c).counter d = if d = c ∧ b = true then min (s.counter c + 1) Config.counterMax else s.counter d := by
  cases b
  · simp [State.bumpIf]
  · simp [State.bumpIf, counter_bump]

/-- Two states with the same counter table have the same counters. -/
theorem counter_congr {s t : State} (h : s.counters = t.counters) (c : Counter) : s.counter c = t.counter c := by
  unfold State.counter; rw [h]

theorem counter_placeControl (s : State) (f : ToFrame) {d : Counter} (h : d ≠ .controlOverflow) :
    (s.placeControl f).counter d = s.counter d := by
  unfold State.placeControl; split
  · rw [counter_bump, if_neg h]
  · exact counter_congr (by simp) d

theorem counter_respond (s : State) (r : Request) (st : Status) (e : Option Tag) (b : List Byte) {d : Counter}
    (h : d ≠ .controlOverflow) : (s.respond r st e b).counter d = s.counter d := counter_placeControl s _ h

theorem counter_placeRealtime (s : State) (b : List Byte) {d : Counter} (h : d ≠ .realtimeOverflow) :
    (s.placeRealtime b).counter d = s.counter d := by
  unfold State.placeRealtime
  dsimp only
  rw [counter_congr (State_grantTo_counters _), counter_bumpIf, if_neg (by simp [h])]
  rfl

theorem counter_reportTest (s : State) {d : Counter} (h : d ≠ .controlOverflow) (k : d ≠ .eventFrames) :
    s.reportTest.counter d = s.counter d := by
  unfold State.reportTest; split
  · unfold State.placeEvent; dsimp only
    rw [counter_bump, if_neg k]
    exact counter_placeControl s _ h
  · rfl

theorem counter_raise (s : State) (e : Event) {d : Counter} (h : d ≠ .controlOverflow) (k : d ≠ .eventFrames)
    (l : d ≠ .triggers) : (s.raise e).counter d = s.counter d := by
  unfold State.raise; dsimp only
  rw [counter_reportTest _ h k]
  split
  · rfl
  · rw [show ∀ t : State, (t.triggerCapture e).counter d = t.counter d from fun t => by
      unfold State.triggerCapture
      split
      · dsimp only; split
        · exact (counter_bump t .triggers d).trans (if_neg l)
        · exact (counter_bump t .triggers d).trans (if_neg l)
      · rfl]
    exact counter_congr (by simp [State.setPending]) d

/-! ## Requests and responses -/

theorem serve_eq {s : State} {i : Instr} {r : Request} (f : State → Request → State) (h : s.oldest? i = some r) :
    s.serve i f = f s.dequeue r := by unfold State.serve; rw [h]

/-- What a response leaves in the trunk depends on the trunk and the node number alone. -/
theorem respond_trunk_congr {s t : State} (r : Request) (st : Status) (e : Option Tag) (b : List Byte)
    (h : t.trunk = s.trunk) (k : t.nodeNumber = s.nodeNumber) : (t.respond r st e b).trunk = (s.respond r st e b).trunk := by
  unfold State.respond State.responseFrame
  rw [k]
  unfold State.placeControl
  rw [h]
  split
  · exact h
  · unfold State.grantTo
    simp only [h]
    split
    · split <;> simp
    · rfl

theorem answered_of {s t u : State} {r : Request} {st : Status} {e : Option Tag} {b : List Byte}
    (hq : u.mgmt.queue = s.mgmt.queue.drop 1) (hu : u.trunk = (t.respond r st e b).trunk) (ht : t.trunk = s.trunk)
    (hn : t.nodeNumber = s.nodeNumber) : s.answered u r st e b := ⟨hq, hu.trans (respond_trunk_congr r st e b ht hn)⟩

/-! ## Events -/

theorem hasEvent_single (e f : Event) : hasEvent e.single f = (f == e) := by cases e <;> cases f <;> decide

theorem hasEvent_or (a b : EventSet) (e : Event) : hasEvent (a ||| b) e = (hasEvent a e || hasEvent b e) := by
  simp [hasEvent]

theorem hasEvent_fatal_or_transient (e : Event) : hasEvent transientSet e = !hasEvent fatalSet e := by
  cases e <;> decide

/-- Placing an EVENT frame takes only transient events out of pending, and counts. -/
theorem isPending_reportTest (s : State) (e : Event) :
    s.reportTest.isPending e = s.isPending e ∨
      (hasEvent fatalSet e = false ∧ s.reportTest.counter .eventFrames = min (s.counter .eventFrames + 1) Config.counterMax) := by
  unfold State.reportTest; split
  · cases hf : hasEvent fatalSet e with
    | false =>
      right
      refine ⟨rfl, ?_⟩
      unfold State.placeEvent; dsimp only
      rw [counter_bump, if_pos rfl]
      exact congrArg (fun n => min (n + 1) Config.counterMax) (counter_placeControl s _ (by decide))
    | true =>
      left
      have ht : hasEvent transientSet e = false := by rw [hasEvent_fatal_or_transient, hf]; rfl
      simp only [State.isPending, State.placeEvent, State_bump_events, State_placeControl_events]
      simp only [hasEvent] at ht ⊢
      have he : e.bit < 32 := by cases e <;> decide
      simp only [BitVec.getLsbD_and, BitVec.getLsbD_not, ht, Bool.and_false, Bool.not_false,
        Bool.and_true, he, decide_true]
  · left; rfl

theorem isPending_triggerCapture (s : State) (e f : Event) (h : s.isPending f = true) :
    (s.triggerCapture e).isPending f = true := by
  unfold State.triggerCapture
  split
  · dsimp only; split
    · simp only [State.isPending, State.setPending, State_bump_events, hasEvent_or] at *
      simp [h]
    · exact h
  · exact h

theorem counter_triggerCapture (s : State) (e : Event) {d : Counter} (l : d ≠ .triggers) :
    (s.triggerCapture e).counter d = s.counter d := by
  unfold State.triggerCapture
  split
  · dsimp only; split
    · exact (counter_bump s .triggers d).trans (if_neg l)
    · exact (counter_bump s .triggers d).trans (if_neg l)
  · rfl

theorem frameNumber_triggerCapture (s : State) (e : Event) :
    (s.triggerCapture e).events.frameNumber = s.events.frameNumber := by
  unfold State.triggerCapture; split
  · dsimp only; split <;> rfl
  · rfl

/-- What raising an event leaves: it is pending, or an EVENT frame has been placed; a fatal one is latched. -/
theorem raise_raised (s : State) (e : Event) :
    s.raised (s.raise e) e ∧ (hasEvent fatalSet e = true → (s.raise e).isPending e = true) := by
  have hp : (s.setPending e).isPending e = true := by
    simp [State.isPending, State.setPending, hasEvent_or, hasEvent_single]
  have key : ∀ t : State, t.isPending e = true → t.counter .eventFrames = s.counter .eventFrames →
      s.raised t.reportTest e ∧ (hasEvent fatalSet e = true → t.reportTest.isPending e = true) := by
    intro t h1 h2
    rcases isPending_reportTest t e with h | ⟨hf, hn⟩
    · exact ⟨.inl (h.trans h1), fun _ => h.trans h1⟩
    · exact ⟨.inr (by rw [hn, h2]), fun h => by simp [hf] at h⟩
  unfold State.raise; dsimp only
  split
  · exact key _ hp rfl
  · refine key _ (isPending_triggerCapture _ _ _ ?_) ?_
    · simpa [State.isPending] using hp
    · rw [counter_triggerCapture _ _ (by decide)]
      exact counter_congr (by simp [State.setPending]) _

/-! ## Override ranges -/

@[simp] theorem Tables_rewrittenRanges_length (t : Tables) (k : Nat) (rs : List OverrideRange) :
    (t.rewrittenRanges k rs).length = rs.length := by simp [Tables.rewrittenRanges]

/-- What a write of override ranges leaves: the ranges it names rewritten, every other as it was (R115, R118). -/
theorem overrides_applyActuator (s : State) (k i : Nat) (rs : List OverrideRange) :
    (s.applyActuator (.overrideRanges k rs)).tables.overrides.get i =
      if k ≤ i ∧ i < k + rs.length then (s.tables.overrides.get i).rewritten (rs.getD (i - k) .powerOn)
      else s.tables.overrides.get i := by
  simp only [State.applyActuator, Table_get_setRun, Tables_rewrittenRanges_length]
  split
  · next h =>
    have hi : i - k < rs.length := by omega
    simp [Tables.rewrittenRanges, hi, Nat.add_sub_cancel' h.1]
  · rfl

/-! ## Node parameters -/

/-- An item in range gives its parameter the value, and leaves every other (R186). -/
theorem Params.setItem_values (p : Params) (i v k : Nat) (h : paramInRange i v = true) :
    (p.setItem (i, v)).values.getD k 0 = if k = i then v else p.values.getD k 0 := by
  match i, h with
  | 0, h =>
    simp only [paramInRange, decide_eq_true_eq] at h
    have hv : ((Role.ofCode? v).getD p.role).code = v := by
      match v, h with
      | 0, _ => rfl | 1, _ => rfl | 2, _ => rfl | 3, _ => rfl
    match k with
    | 0 => simpa [Params.setItem, Params.values] using hv
    | k + 1 => simp [Params.setItem, Params.values]
  | 4, h =>
    simp only [paramInRange, Bool.and_eq_true, decide_eq_true_eq] at h
    have hv : v % 256 = v := Nat.mod_eq_of_lt (by omega)
    match k with
    | 0 | 1 | 2 | 3 | 4 => simp [Params.setItem, Params.values, hv]
    | k + 5 => simp [Params.setItem, Params.values]
  | 1, _ | 2, _ | 3, _ | 5, _ | 6, _ | 7, _ | 8, _ | 9, _ | 10, _ | 11, _ | 12, _ | 13, _ =>
    match k with
    | 0 | 1 | 2 | 3 | 4 | 5 | 6 | 7 | 8 | 9 | 10 | 11 | 12 | 13 => simp [Params.setItem, Params.values]
    | k + 14 => simp [Params.setItem, Params.values]
  | _ + 14, h => simp [paramInRange] at h

/-- What a run of items in range leaves: a parameter has the last value given to it, or the one it had (R186). -/
theorem Params.setItems_values (p : Params) (is : List (Nat × Nat)) (k : Nat)
    (h : is.all (fun i => paramInRange i.1 i.2) = true) :
    (p.setItems is).values.getD k 0 = (lastItem is k).getD (p.values.getD k 0) := by
  induction is using List.reverseRecOn with
  | nil => rfl
  | append_singleton is i ih =>
    simp only [List.all_append, List.all_cons, List.all_nil, Bool.and_true, Bool.and_eq_true] at h
    have := Params.setItem_values (p.setItems is) i.1 i.2 k h.2
    simp only [Params.setItems, List.foldl_append, List.foldl_cons, List.foldl_nil] at this ih ⊢
    rw [this, ih h.1]
    by_cases hk : k = i.1
    · simp [lastItem, hk]
    · have : (i.1 == k) = false := by simp; omega
      simp [lastItem, List.filter_append, this, hk]

end Sys2Proof.Machine
end

