-- ==== Sys2Proof/Laws/Moves.lean ====
section
/-! SUPPORT. What each shared operation can do: the parts of the state that it may change, that it keeps the laws of
`State.Inv`, and that no counter falls. A command's own lemma chains those of the operations it is made of. -/

-- One theorem after the other, so that checking the whole package keeps to few threads.
set_option Elab.async false

namespace Sys2Proof.Machine

/-! ## The relation -/

theorem Part_same_refl (p : Part) (s : State) : p.same s s := by cases p <;> rfl

theorem Part_same_trans {p : Part} {s t u : State} (h : p.same s t) (k : p.same t u) : p.same s u := by
  cases p <;> exact Eq.trans h k

/-- `t` comes from `s` by changes of the parts `ps`, by which no law is lost and no counter falls. -/
structure Moves (ps : List Part) (s t : State) : Prop where
  frame : ∀ p, p ∉ ps → p.same s t
  inv : s.Inv → t.Inv
  rise : s.Inv → ∀ k, s.counters.get k ≤ t.counters.get k

/-- One list of parts lies within another. -/
def within (qs ps : List Part) : Bool := qs.all (fun q => decide (q ∈ ps))

theorem Moves.refl (ps : List Part) (s : State) : Moves ps s s :=
  ⟨fun p _ => Part_same_refl p s, id, fun _ _ => Nat.le_refl _⟩

theorem Moves.widen {qs ps : List Part} {s t : State} (h : Moves qs s t) (hw : within qs ps = true := by rfl) :
    Moves ps s t :=
  ⟨fun p hp => h.frame p (fun hq => hp (by simpa using List.all_eq_true.mp hw p hq)), h.inv, h.rise⟩

theorem Moves.then {qs ps : List Part} {s t u : State} (h : Moves ps s t) (k : Moves qs t u)
    (hw : within qs ps = true := by rfl) : Moves ps s u :=
  ⟨fun p hp => Part_same_trans (h.frame p hp) ((k.widen hw).frame p hp), fun hi => k.inv (h.inv hi),
    fun hi n => Nat.le_trans (h.rise hi n) (k.rise (h.inv hi) n)⟩

theorem Moves.trans {ps : List Part} {s t u : State} (h : Moves ps s t) (k : Moves ps t u) : Moves ps s u :=
  h.then k (by simp [within])

/-- The last move of a chain, taken first. -/
theorem Moves.after {qs ps : List Part} {s t u : State} (k : Moves qs t u) (h : Moves ps s t)
    (hw : within qs ps = true := by rfl) : Moves ps s u := h.then k hw

theorem Moves.ite {ps : List Part} {s t u : State} {c : Prop} [Decidable c] (ht : c → Moves ps s t) (hu : ¬c → Moves ps s u) :
    Moves ps s (if c then t else u) := by split <;> simp_all

/-- Where the laws of the first state give more than the frame needs. -/
theorem Moves.of_inv {ps : List Part} {s t : State} (hf : ∀ p, p ∉ ps → p.same s t) (h : s.Inv → Moves ps s t) :
    Moves ps s t := ⟨hf, fun i => (h i).inv i, fun i => (h i).rise i⟩

/-- The parts that no law of `State.Inv` reads. -/
def Part.lawless : Part → Bool
  | .queues | .requests | .slopeQueue | .actuatorQueue | .mirror | .loop | .counters | .memory | .banks | .events | .actuators
  | .ports | .portConfigs | .params => false
  | _ => true

/-- A change of parts that no law reads keeps every law. -/
theorem Moves.of_frame {ps : List Part} {s t : State} (hp : ps.all Part.lawless = true) (h : ∀ p, p ∉ ps → p.same s t) :
    Moves ps s t := by
  have lawful : ∀ p : Part, p.lawless = false → p.same s t := fun p hl =>
    h p (fun hm => by simp [List.all_eq_true.mp hp p hm] at hl)
  have hc : s.counters = t.counters := lawful .counters rfl
  refine ⟨h, fun i => ?_, fun _ k => by rw [hc]⟩
  have hq := lawful .queues rfl; have hr := lawful .requests rfl
  have h1 := lawful .slopeQueue rfl; have h2 := lawful .actuatorQueue rfl; have h3 := lawful .mirror rfl
  have h4 := lawful .loop rfl; have h5 := lawful .memory rfl; have h6 := lawful .banks rfl; have h7 := lawful .events rfl
  have h8 := lawful .actuators rfl; have h9 := lawful .ports rfl; have ha := lawful .portConfigs rfl
  have hb := lawful .params rfl
  simp only [Part.same, Prod.mk.injEq, Loop.mk.injEq, Events.mk.injEq, Port.mk.injEq, and_true, true_and]
    at hq hr h1 h2 h3 h4 h5 h6 h7 h8 h9 ha hb
  refine ⟨by rw [← hq.1]; exact i.realtime, by rw [← hq.2.1]; exact i.control, by
      have := i.requests; simp only [State.requestsHeld, hr.1, hr.2] at this; exact this,
    by rw [← h1]; exact i.slopeQueue, by rw [← h2]; exact i.actuatorQueue, by rw [← h3]; exact i.echoes,
    by have := i.echoesAtTail; simp only [State.isTail, hb, h3] at this; exact this,
    by rw [← h3]; exact i.misses, by rw [← h4.2.2.1]; exact i.badFrames, by rw [← h4.2.2.2.1]; exact i.satRun,
    by rw [← h4.1, ← h4.2.1]; exact i.safeOut, by rw [← hc]; exact i.counters, by rw [← h5]; exact i.memory,
    ?_, ?_, by rw [← h7.1]; exact i.events, ?_, ?_, by rw [← h2]; exact i.staged, ?_, ?_,
    by rw [← hb]; exact i.actuators, by rw [← hb]; exact i.deadlines⟩
  · simp only [State.bank, ← h6]; exact i.oneLive
  · simp only [State.bank, ← h6]; exact i.oneSwap
  · simp only [State.actuator, ← h8.1]; exact i.entries
  · simp only [State.actuator, ← h8.1, ← h8.2]; exact i.integrators
  · intro p
    have := i.rings p
    cases p <;> simp_all [Port.positionsHold]
  · intro p
    have := i.slopeCounts p
    cases p <;> simp_all

/-! ## Counters -/

theorem bumpBy_moves (s : State) (c : Counter) (n : Nat) : Moves [.counters] s (s.bumpBy c n) where
  frame p hp := by cases p <;> first | exact absurd (by decide) hp | rfl
  inv h := { h with
    counters := fun k => by
      have := h.counters k
      simp only [State.bumpBy, Table_get_set]
      split <;> omega }
  rise h k := by
    have := h.counters k
    simp only [State.bumpBy, Table_get_set]
    split
    · subst_vars; omega
    · exact Nat.le_refl _

theorem bump_moves (s : State) (c : Counter) : Moves [.counters] s (s.bump c) := bumpBy_moves s c 1

theorem bumpIf_moves (s : State) (b : Bool) (c : Counter) : Moves [.counters] s (s.bumpIf b c) := by
  cases b
  · exact .refl _ _
  · exact bump_moves s c

end Sys2Proof.Machine
end

