-- ==== Sys2Proof/Laws/MovesOps.lean ====
section
/-! SUPPORT. What the operations of Machine/Ops.lean can do (see Laws/Moves.lean). -/

-- One theorem after the other, so that checking the whole package keeps to few threads.
set_option Elab.async false

namespace Sys2Proof.Machine

/-! ## Replaced parts -/

theorem setCtx_moves (s : State) (c : Ix) (x : Context) : Moves [.contexts] s (s.setCtx c x) :=
  .of_frame rfl (fun p hp => by cases p <;> first | exact absurd (by decide) hp | rfl)

theorem setArbiter_moves (s : State) (a : Arbiter) : Moves [.arbiter] s (s.setArbiter a) :=
  .of_frame rfl (fun p hp => by cases p <;> first | exact absurd (by decide) hp | rfl)

/-- A port replaced with its configuration kept and its positions in the ring. -/
theorem setPort_moves (s : State) (p : Ix) (x : Port) (hc : x.config = (s.port p).config)
    (hx : s.Inv → x.positionsHold) : Moves [.ports] s (s.setPort p x) where
  frame q hq := by
    cases p <;> cases q <;> first | exact absurd (by decide) hq | rfl | exact congrArg (·, _) hc.symm | exact congrArg (_, ·) hc.symm
  inv h := { h with
    rings := fun q => by
      have := h.rings q; have := hx h
      cases p <;> cases q <;> assumption
    slopeCounts := fun q => by
      have h1 := h.slopeCounts q; have h2 := h.slopeCounts p
      rw [← hc] at h2
      cases p <;> cases q <;> assumption }
  rise _ _ := Nat.le_refl _

/-- A bank replaced that becomes neither LIVE nor the target of a swap. -/
theorem setBank_moves (s : State) (b : Ix) (x : Bank) (hl : x.state = .live → (s.bank b).state = .live)
    (hm : x.swapMark.isSome = true → (s.bank b).swapMark.isSome = true) : Moves [.banks] s (s.setBank b x) where
  frame q hq := by cases q <;> first | exact absurd (by decide) hq | rfl
  inv h := { h with
    oneLive := by
      have := h.oneLive
      cases b <;> (simp_all [State.setBank, State.bank, Pair.get, Pair.set]; try tauto)
    oneSwap := by
      have := h.oneSwap
      cases b
      · intro hs; exact this (hm hs)
      · intro hs
        have h0 : (s.bank .one).swapMark = none := this hs
        cases hx : x.swapMark with
        | none => exact hx
        | some t => rw [hx, h0] at hm; exact absurd (hm rfl) (by decide) }
  rise _ _ := Nat.le_refl _

/-! ## The TO queues -/

theorem grantTo_moves (s : State) : Moves [.queues] s s.grantTo where
  frame q hq := by
    unfold State.grantTo
    split
    · split <;> cases q <;> first | exact absurd (by decide) hq | rfl
    · exact Part_same_refl _ _
  inv h := by
    unfold State.grantTo
    split
    · split
      · rename_i heq
        exact { h with realtime := by have := h.realtime; rw [heq] at this; simp at this; simp; omega }
      · rename_i heq
        exact { h with control := by have := h.control; rw [heq] at this; simp at this; simp; omega }
      · exact h
    · exact h
  rise _ k := by
    unfold State.grantTo
    split
    · split <;> exact Nat.le_refl _
    · exact Nat.le_refl _

theorem placeControl_moves (s : State) (f : ToFrame) : Moves [.queues, .counters] s (s.placeControl f) := by
  unfold State.placeControl
  split
  · exact (bump_moves _ _).widen
  · rename_i hlen
    refine Moves.then (t := { s with trunk := { s.trunk with control := s.trunk.control ++ [f] } }) ?_ (grantTo_moves _)
    exact
      { frame := fun q hq => by cases q <;> first | exact absurd (by decide) hq | rfl
        inv := fun h => { h with control := by simp; omega }
        rise := fun _ _ => Nat.le_refl _ }

theorem placeRealtime_moves (s : State) (bytes : List Byte) : Moves [.queues, .counters] s (s.placeRealtime bytes) := by
  unfold State.placeRealtime
  refine ((Moves.then (qs := [.queues]) (.refl _ s) ?_).then (bumpIf_moves _ _ _)).then (grantTo_moves _)
  exact
    { frame := fun q hq => by cases q <;> first | exact absurd (by decide) hq | rfl
      inv := fun h => { h with
        realtime := by
          have h1 := h.realtime
          simp only [List.length_append, List.length_singleton]
          by_cases hf : Config.realtimeCapacity ≤ s.trunk.realtime.length
          · simp only [hf, if_true, List.length_drop]
            unfold Config.realtimeCapacity at *; omega
          · simp only [hf]
            simp; omega }
      rise := fun _ _ => Nat.le_refl _ }

theorem respond_moves (s : State) (r : Request) (st : Status) (e : Option Tag) (b : List Byte) :
    Moves [.queues, .counters] s (s.respond r st e b) := placeControl_moves _ _

/-! ## Events -/

theorem knownEvents_and (a m : EventSet) (h : knownEvents a = true) : knownEvents (a &&& m) = true := by
  simp only [knownEvents, beq_iff_eq] at h ⊢
  rw [BitVec.and_assoc, BitVec.and_comm m, ← BitVec.and_assoc, h, BitVec.zero_and]

theorem knownEvents_single (a : EventSet) (e : Event) (h : knownEvents a = true) : knownEvents (a ||| e.single) = true := by
  simp only [knownEvents, beq_iff_eq] at h ⊢
  have : e.single &&& ~~~(transientSet ||| fatalSet) = 0#32 := by cases e <;> decide
  rw [BitVec.and_comm, BitVec.and_or_distrib_left, BitVec.and_comm _ a, BitVec.and_comm _ e.single, h, this]
  rfl

theorem setPending_moves (s : State) (e : Event) : Moves [.events] s (s.setPending e) where
  frame q hq := by cases q <;> first | exact absurd (by decide) hq | rfl
  inv h := { h with events := knownEvents_single _ _ h.events }
  rise _ _ := Nat.le_refl _

theorem placeEvent_moves (s : State) : Moves [.queues, .counters, .events] s s.placeEvent := by
  unfold State.placeEvent
  refine (((Moves.refl _ s).then (placeControl_moves s ⟨s.eventFrame s.reportable, false⟩)).then (qs := [.events]) ?_).then
    (bump_moves _ .eventFrames)
  exact
    { frame := fun q hq => by cases q <;> first | exact absurd (by decide) hq | rfl
      inv := fun h => { h with events := knownEvents_and _ _ h.events }
      rise := fun _ _ => Nat.le_refl _ }

theorem reportTest_moves (s : State) : Moves [.queues, .counters, .events] s s.reportTest := by
  unfold State.reportTest
  exact Moves.ite (fun _ => placeEvent_moves s) (fun _ => .refl _ _)

theorem joinLaterCauses_moves (s : State) (e : Event) : Moves [.snapshot] s (s.joinLaterCauses e) := by
  unfold State.joinLaterCauses
  exact Moves.ite
    (fun _ => .of_frame rfl (fun p hp => by cases p <;> first | exact absurd (by decide) hp | rfl)) (fun _ => .refl _ _)

theorem triggerCapture_moves (s : State) (e : Event) : Moves [.counters, .events, .capture] s (s.triggerCapture e) := by
  unfold State.triggerCapture
  refine Moves.ite (fun _ => ?_) (fun _ => .refl _ _)
  refine ((Moves.refl _ s).then (bump_moves s .triggers)).then (qs := [.events, .capture]) ?_
  refine Moves.ite (fun _ => ?_) (fun _ => ?_)
  · refine Moves.then (ps := [.events, .capture]) (qs := [.events])
      (t := { s.bump .triggers with telemetry := { (s.bump .triggers).telemetry with state := .frozen, remaining := 0 } })
      ?_ (setPending_moves _ _)
    exact (Moves.of_frame (ps := [.capture]) rfl
      (fun p hp => by cases p <;> first | exact absurd (by decide) hp | rfl)).widen
  · exact (Moves.of_frame (ps := [.capture]) rfl
      (fun p hp => by cases p <;> first | exact absurd (by decide) hp | rfl)).widen

/-- The parts that raising an event may change. -/
abbrev raiseParts : List Part := [.queues, .counters, .events, .snapshot, .capture]

theorem raise_moves (s : State) (e : Event) : Moves raiseParts s (s.raise e) := by
  unfold State.raise
  refine ((((Moves.refl _ s).then (setPending_moves s e)).then (qs := [.snapshot, .counters, .events, .capture]) ?_).then
    (reportTest_moves _))
  split
  · exact .refl _ _
  · exact ((Moves.refl _ _).then (joinLaterCauses_moves _ e)).then (triggerCapture_moves _ e)

/-! ## The Memory Arbiter and the DRAM -/

theorem withdraw_moves (s : State) (p : BurstJob → Bool) : Moves [.arbiter] s (s.withdraw p) := setArbiter_moves _ _

theorem markBegun_moves (s : State) : Moves [.requests] s s.markBegun where
  frame q hq := by cases q <;> first | exact absurd (by decide) hq | rfl
  inv h := { h with
    requests := by
      have := h.requests
      cases hx : s.mgmt.executing <;> simp_all [State.requestsHeld, State.markBegun] }
  rise _ _ := Nat.le_refl _

theorem beginLoad_moves (s : State) : Moves [.banks] s s.beginLoad := by
  unfold State.beginLoad
  split
  · refine Moves.ite (fun _ => setBank_moves _ _ _ (by simp) id) (fun _ => .refl _ _)
  · exact .refl _ _

theorem beginBurst_moves (s : State) (j : BurstJob) : Moves [.requests, .banks] s (s.beginBurst j) := by
  cases j
  all_goals first
    | exact .refl _ _
    | exact (markBegun_moves s).widen
    | exact ((Moves.refl _ s).then (markBegun_moves s)).then (beginLoad_moves _)

/-- The parts that a grant of the Memory Arbiter may change. -/
abbrev grantParts : List Part := [.arbiter, .requests, .banks]

theorem grantDram_moves (s : State) : Moves grantParts s s.grantDram := by
  unfold State.grantDram
  split
  · exact .refl _ _
  · split
    · exact .refl _ _
    · exact ((Moves.refl _ s).then (setArbiter_moves s _)).then (beginBurst_moves _ _)

/-- A grant keeps a request in execution in execution. -/
@[simp] theorem State_grantDram_executing_isSome (s : State) :
    (s.grantDram).mgmt.executing.isSome = s.mgmt.executing.isSome := by
  unfold State.grantDram State.beginBurst State.beginLoad State.markBegun
  repeat (first | rfl | split)
  all_goals simp [State.setArbiter, State.setBank]

theorem queueBursts_moves (s : State) (bs : List Burst) : Moves grantParts s (s.queueBursts bs) :=
  ((Moves.refl _ s).then (setArbiter_moves s _)).then (grantDram_moves _)

theorem takeBurst_moves (s : State) (p : Burst → Bool) {b : Burst} {t : State} (h : s.takeBurst p = some (b, t)) :
    Moves [.arbiter] s t := by
  unfold State.takeBurst at h
  split at h
  · split at h
    · cases h; exact setArbiter_moves _ _
    · cases h
  · cases h

theorem strike_moves (s : State) (ks : List Strike) : Moves [.errors] s (s.strike ks) :=
  .of_frame rfl (fun p hp => by cases p <;> first | exact absurd (by decide) hp | rfl)

theorem dramWrite_moves (s : State) (a : Nat) (bs : List Byte) : Moves [.memory, .errors] s (s.dramWrite a bs) where
  frame q hq := by cases q <;> first | exact absurd (by decide) hq | rfl
  inv h := { h with memory := Memory_wf_writeRun _ _ _ h.memory }
  rise _ _ := Nat.le_refl _

theorem correct_moves (s : State) (c : Counter) (n : Nat) : Moves raiseParts s (s.correct c n) := by
  induction n generalizing s with
  | zero => exact .refl _ _
  | succ n ih => exact (((Moves.refl _ s).then (bump_moves s c)).then (raise_moves _ _)).then (ih _)

theorem noteUncorrectable_moves (s : State) (b : Burst) : Moves [.counters, .lastBad] s (s.noteUncorrectable b) := by
  unfold State.noteUncorrectable
  refine Moves.then (ps := [.counters, .lastBad]) (qs := [.lastBad]) (t := match b.job.uncorrectableCounter? with
    | some c => s.bump c
    | none => s) ?_ (.of_frame rfl (fun p hp => by cases p <;> first | exact absurd (by decide) hp | rfl))
  split
  · exact (bump_moves _ _).widen
  · exact .refl _ _

/-- The parts that the check of a read burst may change. -/
abbrev readParts : List Part := [.queues, .counters, .events, .snapshot, .capture, .lastBad]

theorem checkRead_moves (s : State) (b : Burst) : Moves readParts s (s.checkRead b) := by
  unfold State.checkRead
  refine ((Moves.refl _ s).then (correct_moves s (placeOf b.address).correctedCounter
    ((codewordsOf b.address b.length).countP (fun k => s.dram.errors.get k == .single)))).then (qs := [.counters, .lastBad]) ?_
  exact Moves.ite (fun _ => noteUncorrectable_moves _ _) (fun _ => .refl _ _)

theorem storeBurst_moves (s : State) (b : Burst) : Moves [.memory, .errors] s (s.storeBurst b) := by
  unfold State.storeBurst
  exact Moves.ite (fun _ => .refl _ _) (fun _ => dramWrite_moves _ _ _)

end Sys2Proof.Machine
end

