-- ==== Sys2Proof/Laws/MovesCapture.lean ====
section
/-! SUPPORT. What the operations of Machine/Capture.lean, Machine/Staging.lean and Machine/Poke.lean can do (see
Laws/Moves.lean). -/

-- One theorem after the other, so that checking the whole package keeps to few threads.
set_option Elab.async false

namespace Sys2Proof.Machine

/-! ## Capture -/

theorem release_moves (s : State) (c : Ix) : Moves [.banks, .contexts] s (s.release c) := by
  unfold State.release
  dsimp only
  refine Moves.ite (fun _ => .refl _ _) (fun _ => ?_)
  refine (setCtx_moves _ _ _).after ?_
  exact (setBank_moves s _ _ (by exact id) (by exact id)).widen

/-- The Telemetry Unit replaced with its configuration kept. -/
theorem capture_moves (s : State) (t : Telemetry) (h : t.config = s.telemetry.config) :
    Moves [.capture] s { s with telemetry := t } :=
  .of_frame rfl (fun p hp => by cases p <;> first | exact absurd (by decide) hp | rfl | exact h.symm)

theorem leaveExecution_moves (s : State) : Moves [.requests] s s.leaveExecution where
  frame q hq := by cases q <;> first | exact absurd (by decide) hq | rfl
  inv h := { h with requests := Nat.le_trans (Nat.add_le_add_left (Nat.zero_le _) _) h.requests }
  rise _ _ := Nat.le_refl _

/-- The request in execution replaced, where one is in execution or the queue has room for one. -/
theorem executing_moves (s : State) (e : Execution)
    (hr : s.mgmt.executing.isSome = true ∨ s.mgmt.queue.length < Config.requestCapacity) :
    Moves [.requests] s { s with mgmt := { s.mgmt with executing := some e } } where
  frame q hq := by cases q <;> first | exact absurd (by decide) hq | rfl
  inv h := { h with
    requests := by
      have := h.requests
      cases hx : s.mgmt.executing <;> simp_all [State.requestsHeld] }
  rise _ _ := Nat.le_refl _

theorem forgetChosen_moves (s : State) (u : Nat) :
    Moves [.arbiter, .requests, .queues, .counters] s (s.forgetChosen u) := by
  unfold State.forgetChosen
  split
  · rename_i hx
    split
    · refine ((Moves.refl _ s).then (withdraw_moves s (fun j => j == .telemetryRead u))).then
        (qs := [.requests, .queues, .counters]) ?_
      exact Moves.ite
        (fun _ => ((Moves.refl _ _).then (leaveExecution_moves _)).then (respond_moves _ _ _ _ _))
        (fun _ => (executing_moves _ _ (.inl (by simp [hx]))).widen)
    · exact .refl _ _
  · exact .refl _ _

/-- The parts that a discard of held records may change. -/
abbrev discardParts : List Part := [.arbiter, .requests, .queues, .counters, .capture]

theorem discardOldest_moves (s : State) : Moves discardParts s s.discardOldest :=
  (((Moves.refl _ s).then (capture_moves s (s.telemetry.dropOldest 1) rfl)).then (bump_moves _ _)).then
    (forgetChosen_moves _ _)

theorem makeRoom_moves (s : State) (n : Nat) : Moves discardParts s (s.makeRoom n) := by
  induction n generalizing s with
  | zero => exact .refl _ _
  | succ n ih => exact Moves.ite (fun _ => (discardOldest_moves s).then (ih _)) (fun _ => .refl _ _)

/-- The parts that giving up a record write may change. -/
abbrev withdrawParts : List Part := [.arbiter, .capture, .banks, .contexts]

theorem withdrawRecord_moves (s : State) : Moves withdrawParts s s.withdrawRecord := by
  unfold State.withdrawRecord
  split
  · exact .refl _ _
  · refine (((Moves.refl _ s).then (withdraw_moves s BurstJob.isTelemetryWrite)).then (qs := [.capture]) ?_).then
      (release_moves _ _)
    exact capture_moves _ _ rfl

theorem dropRecord_moves (s : State) : Moves (.counters :: withdrawParts) s s.dropRecord := by
  unfold State.dropRecord
  exact Moves.ite (fun _ => ((Moves.refl _ s).then (withdrawRecord_moves s)).then (bump_moves _ _)) (fun _ => .refl _ _)

/-- The parts that the offer, the commit and the dropping of a record may change. -/
abbrev recordParts : List Part :=
  [.queues, .counters, .events, .snapshot, .capture, .contexts, .banks, .arbiter, .requests]

theorem beginRecord_moves (s : State) (c : Ix) (n : BitVec 32) : Moves recordParts s (s.beginRecord c n) := by
  unfold State.beginRecord
  refine Moves.ite (fun _ => ?_) (fun _ => ?_)
  · refine (release_moves _ _).after ((bump_moves _ _).after ((raise_moves _ _).after ?_))
    exact (capture_moves s _ (by rfl)).widen
  · refine (queueBursts_moves _ _).after ?_
    exact (capture_moves s _ (by rfl)).widen

theorem offer_moves (s : State) (c : Ix) : Moves recordParts s (s.offer c) := by
  unfold State.offer
  refine Moves.ite (fun _ => ?_) (fun _ => (release_moves s c).widen)
  refine Moves.ite (fun _ => ?_) (fun _ => ?_)
  · refine (beginRecord_moves _ _ _).after ((dropRecord_moves _).after ?_)
    exact (capture_moves s _ (by rfl)).widen
  · refine (release_moves _ _).after ?_
    exact (capture_moves s _ (by rfl)).widen

theorem countPostTrigger_moves (s : State) : Moves raiseParts s s.countPostTrigger := by
  unfold State.countPostTrigger
  refine Moves.ite (fun _ => Moves.ite (fun _ => ?_) (fun _ => ?_)) (fun _ => .refl _ _)
  · refine (raise_moves _ _).after ?_
    exact (capture_moves s _ (by rfl)).widen
  · exact (capture_moves s _ (by rfl)).widen

theorem commitRecord_moves (s : State) (w : RecordWrite) : Moves recordParts s (s.commitRecord w) := by
  unfold State.commitRecord
  refine (release_moves _ _).after ?_
  refine Moves.after (qs := discardParts) (Moves.ite (fun _ => makeRoom_moves _ _) (fun _ => .refl _ _)) ?_
  refine (countPostTrigger_moves _).after ((bump_moves _ _).after ?_)
  exact (capture_moves s _ (by rfl)).widen

theorem releaseEarly_moves (s : State) (c : Ix) : Moves recordParts s (s.releaseEarly c) := by
  unfold State.releaseEarly
  split
  · exact Moves.ite (fun _ => ((Moves.refl _ s).then (dropRecord_moves s)).then (release_moves _ _))
      (fun _ => (release_moves _ _).widen)
  · exact (release_moves _ _).widen

theorem newestDelivered_moves (s : State) (t : Option Tag) :
    Moves [.newestDelivered] s { s with frames := { s.frames with newestDelivered := t } } :=
  .of_frame rfl (fun p hp => by cases p <;> first | exact absurd (by decide) hp | rfl)

/-- The parts that a context's becoming DONE may change. -/
abbrev doneParts : List Part :=
  [.queues, .counters, .events, .snapshot, .capture, .contexts, .banks, .arbiter, .requests, .newestDelivered]

theorem contextDone_moves (s : State) (c : Ix) : Moves doneParts s (s.contextDone c) := by
  unfold State.contextDone
  refine (((Moves.refl _ s).then (setCtx_moves s c
    { s.ctx c with state := .done, asmRunning := false, delRunning := false, finishTime := s.now })).then
    (qs := [.newestDelivered, .counters]) ?_).then (offer_moves _ _)
  exact Moves.ite (fun _ => (newestDelivered_moves _ _).widen) (fun _ => (bump_moves _ _).widen)

/-! ## Staged writes taking effect -/

theorem zeroHold_moves (s : State) : Moves [.hold] s s.zeroHold :=
  .of_frame rfl (fun p hp => by cases p <;> first | exact absurd (by decide) hp | rfl)

theorem zeroHoldOf_moves (s : State) (p : Ix) : Moves [.hold] s (s.zeroHoldOf p) :=
  .of_frame rfl (fun p hp => by cases p <;> first | exact absurd (by decide) hp | rfl)

/-- The configuration of a port replaced, its slope count one that R2 allows. -/
theorem setConfig_moves (s : State) (p : Ix) (f : PortConfig) (hf : s.Inv → f.countHolds) :
    Moves [.portConfigs] s (s.setPort p { s.port p with config := f }) where
  frame q hq := by cases p <;> cases q <;> first | exact absurd (by decide) hq | rfl
  inv h := { h with
    rings := fun q => by
      have h1 := h.rings q
      cases p <;> cases q <;> exact h1
    slopeCounts := fun q => by
      have h1 := h.slopeCounts q; have h2 := hf h
      cases p <;> cases q <;> assumption }
  rise _ _ := Nat.le_refl _

theorem applyPolicy_moves (s : State) (p : Ix) (m : Option MissingPolicy) (l : Option Nat) :
    Moves [.portConfigs, .hold] s (s.applyPolicy p m l) := by
  unfold State.applyPolicy
  refine ((Moves.refl _ s).then (setConfig_moves s p
    { (s.port p).config with
      policy := m.getD (s.port p).config.policy, holdLimit := l.getD (s.port p).config.holdLimit }
    (fun h => h.slopeCounts p))).then (qs := [.hold]) ?_
  exact Moves.ite (fun _ => .refl _ _) (fun _ => zeroHoldOf_moves _ _)

theorem clampInt_bounds {lo hi : Int} (v : Int) (h : lo ≤ hi) : lo ≤ clampInt lo hi v ∧ clampInt lo hi v ≤ hi := by
  unfold clampInt
  split
  · omega
  · split <;> omega

theorem toState_le {a b : Int} (h : a ≤ b) : toState a ≤ toState b := by unfold toState; omega

theorem putActuator_frame (s : State) (j : Nat) (e : ActuatorEntry) :
    ∀ p, p ∉ [Part.actuators, .counters] → p.same s (s.putActuator j e) := by
  intro p hp
  unfold State.putActuator State.limitClamp
  dsimp only
  split
  · cases p <;> first | exact absurd (by decide) hp | rfl
  · split
    · cases p <;> first | exact absurd (by decide) hp | rfl
    · cases p <;> first | exact absurd (by decide) hp | rfl

theorem putActuator_moves (s : State) (j : Nat) (e : ActuatorEntry) (he : e.ordered) :
    Moves [.actuators, .counters] s (s.putActuator j e) := by
  refine ⟨putActuator_frame s j e, fun h => ?_, fun h k => ?_⟩
  · have hent : ∀ t : State, t.tables.actuators = s.tables.actuators.set j e → ∀ n, (t.actuator n).ordered := by
      intro t ht n
      simp only [State.actuator, ht, Table_get_set]
      split
      · exact he
      · exact h.entries n
    have hstay : ∀ n, n ≠ j → (s.tables.actuators.set j e).get n = s.actuator n := fun n hn => Table_get_set_ne _ hn _
    unfold State.putActuator State.limitClamp
    dsimp only
    split
    · rename_i heq
      refine { h with entries := hent _ rfl, integrators := fun n hn => ?_ }
      have := h.integrators n hn
      by_cases hj : n = j
      · subst hj
        simp only [State.actuator, Table_get_set_same, ActuatorEntry.admits] at this ⊢
        rw [← heq.1, ← heq.2]; exact this
      · simp only [State.actuator]; rw [hstay n hj]; exact this
    · have hb := clampInt_bounds (s.tables.integrators.get j) (toState_le (Int.le_trans he.1 he.2))
      split
      · rename_i hx
        refine { h with entries := hent _ rfl, integrators := fun n hn => ?_ }
        by_cases hj : n = j
        · subst hj
          simp only [State.actuator, Table_get_set_same, ActuatorEntry.admits]
          rw [hx] at hb; exact hb
        · have := h.integrators n hn
          simp only [State.actuator]; rw [hstay n hj]; exact this
      · refine (bump_moves _ _).inv { h with entries := hent _ rfl, integrators := fun n hn => ?_ }
        by_cases hj : n = j
        · subst hj
          simp only [State.actuator, Table_get_set_same, ActuatorEntry.admits]
          exact hb
        · have := h.integrators n hn
          simp only [State.actuator]
          rw [hstay n hj, Table_get_set_ne _ hj]; exact this
  · unfold State.putActuator State.limitClamp
    dsimp only
    have h1 := h.counters k
    split
    · exact Nat.le_refl _
    · split
      · exact Nat.le_refl _
      · simp only [State.bump, State.bumpBy, Table_get_set]
        split
        · subst_vars; omega
        · exact Nat.le_refl _

theorem putActuators_frame (s : State) (j : Nat) (es : List ActuatorEntry) :
    ∀ p, p ∉ [Part.actuators, .counters] → p.same s (s.putActuators j es) := by
  induction es generalizing s j with
  | nil => exact fun p _ => Part_same_refl p s
  | cons e es ih => exact fun p hp => Part_same_trans (putActuator_frame s j e p hp) (ih _ _ p hp)

theorem putActuators_moves (s : State) (j : Nat) (es : List ActuatorEntry) (he : ∀ e ∈ es, e.ordered) :
    Moves [.actuators, .counters] s (s.putActuators j es) := by
  induction es generalizing s j with
  | nil => exact .refl _ _
  | cons e es ih =>
    exact (putActuator_moves s j e (he e (by simp))).then (ih _ _ (fun x hx => he x (by simp [hx])))

theorem recomputeClasses_moves (s : State) : Moves [.effective] s s.recomputeClasses := by
  unfold State.recomputeClasses
  generalize Table.build (d := ActClass.active) Config.maxActuators s.tables.classOf = e
  exact .of_frame rfl (fun p hp => by cases p <;> first | exact absurd (by decide) hp | rfl)

theorem applySlope_moves (s : State) (w : SlopeWrite) : Moves [.references, .portConfigs, .hold] s (s.applySlope w) := by
  cases w with
  | portPolicy q m l => exact (applyPolicy_moves s q m l).widen
  | references k vs =>
    exact (Moves.of_frame (ps := [.references]) rfl
      (fun p hp => by cases p <;> first | exact absurd (by decide) hp | rfl)).widen

/-- The parts that an actuator-side write may change as it takes effect. -/
abbrev actuatorParts : List Part := [.actuators, .counters, .gains, .overrides, .slaves, .pairs, .openShape]

theorem applyActuator_frame (s : State) (w : ActuatorWrite) : ∀ p, p ∉ actuatorParts → p.same s (s.applyActuator w) := by
  intro p hp
  cases w with
  | actuatorEntries j es => exact putActuators_frame s j es p (fun h => hp (by simp at h ⊢; tauto))
  | _ => cases p <;> first | exact absurd (by decide) hp | rfl

theorem applyActuator_moves (s : State) (w : ActuatorWrite) (hw : w.ordered) : Moves actuatorParts s (s.applyActuator w) := by
  cases w with
  | actuatorEntries j es => exact (putActuators_moves s j es hw).widen
  | gainProfiles k gs =>
    exact (Moves.of_frame (ps := [.gains]) rfl
      (fun p hp => by cases p <;> first | exact absurd (by decide) hp | rfl)).widen
  | overrideRanges k rs =>
    exact (Moves.of_frame (ps := [.overrides]) rfl
      (fun p hp => by cases p <;> first | exact absurd (by decide) hp | rfl)).widen
  | slaveRecords k rs =>
    exact (Moves.of_frame (ps := [.slaves]) rfl
      (fun p hp => by cases p <;> first | exact absurd (by decide) hp | rfl)).widen
  | neighbourPairs n k qs =>
    exact (Moves.of_frame (ps := [.pairs]) rfl
      (fun p hp => by cases p <;> first | exact absurd (by decide) hp | rfl)).widen
  | openShape k vs =>
    exact (Moves.of_frame (ps := [.openShape]) rfl
      (fun p hp => by cases p <;> first | exact absurd (by decide) hp | rfl)).widen

theorem drainEntries_frame {α : Type} {ps : List Part} (apply : State → α → State)
    (ha : ∀ s w p, p ∉ ps → p.same s (apply s w)) (hw : within [.queues, .counters] ps = true) (s : State) (t : Option Tag)
    (es : List (StagedEntry α)) : ∀ p, p ∉ ps → p.same s (State.drainEntries apply t s es) := by
  induction es generalizing s with
  | nil => exact fun p _ => Part_same_refl p s
  | cons e es ih =>
    intro p hp
    refine Part_same_trans (ha s e.write p hp) ?_
    exact Part_same_trans ((((Moves.refl ps _).then (respond_moves _ e.request .done t []) hw).then
      ((bump_moves _ .stagedDrained).widen (ps := [.queues, .counters])) hw).frame p hp) (ih _ p hp)

theorem drainEntries_moves {α : Type} {ps : List Part} (apply : State → α → State) (ok : α → Prop)
    (ha : ∀ s w, ok w → Moves ps s (apply s w)) (hw : within [.queues, .counters] ps = true) (s : State) (t : Option Tag)
    (es : List (StagedEntry α)) (he : ∀ e ∈ es, ok e.write) : Moves ps s (State.drainEntries apply t s es) := by
  induction es generalizing s with
  | nil => exact .refl _ _
  | cons e es ih =>
    exact ((((ha s e.write (he e (by simp))).then (respond_moves _ e.request .done t []) hw).then
      ((bump_moves _ .stagedDrained).widen (ps := [.queues, .counters])) hw).trans (ih _ (fun x hx => he x (by simp [hx]))))

end Sys2Proof.Machine
end

