-- ==== Sys2Proof/Laws/MovesTail.lean ====
section
/-! SUPPORT. What the drains and the operations of Machine/Poke.lean, Machine/Mirror.lean, Machine/Controller.lean and
Machine/Constraint.lean can do (see Laws/Moves.lean). -/

-- One theorem after the other, so that checking the whole package keeps to few threads.
set_option Elab.async false

namespace Sys2Proof.Machine

/-! ## Drains -/

theorem emptySlopeQueue_moves (s : State) : Moves [.slopeQueue] s { s with mgmt := { s.mgmt with slopeQueue := [] } } where
  frame q hq := by cases q <;> first | exact absurd (by decide) hq | rfl
  inv h := { h with slopeQueue := Nat.zero_le _ }
  rise _ _ := Nat.le_refl _

theorem emptyActuatorQueue_moves (s : State) :
    Moves [.actuatorQueue] s { s with mgmt := { s.mgmt with actuatorQueue := [] } } where
  frame q hq := by cases q <;> first | exact absurd (by decide) hq | rfl
  inv h := { h with actuatorQueue := Nat.zero_le _, staged := by simp }
  rise _ _ := Nat.le_refl _

theorem drainSlope_moves (s : State) (t : Option Tag) :
    Moves [.references, .portConfigs, .hold, .queues, .counters, .slopeQueue] s (s.drainSlope t) :=
  (drainEntries_moves (ps := [.references, .portConfigs, .hold, .queues, .counters]) State.applySlope (fun _ => True)
    (fun s w _ => (applySlope_moves s w).widen) rfl _ t _ (fun _ _ => trivial)).after (emptySlopeQueue_moves s).widen

/-- The parts that the actuator-side drain may change. -/
abbrev drainParts : List Part :=
  [.actuators, .counters, .gains, .overrides, .slaves, .pairs, .openShape, .queues, .actuatorQueue, .effective]

theorem drainActuator_moves (s : State) (t : Option Tag) : Moves drainParts s (s.drainActuator t) := by
  have hf : ∀ p, p ∉ drainParts → p.same s (s.drainActuator t) := by
    intro p hp
    unfold State.drainActuator
    dsimp only
    have h1 := Part_same_trans ((emptyActuatorQueue_moves s).frame p (fun h => hp (by simp at h ⊢; tauto)))
      (drainEntries_frame (ps := .queues :: actuatorParts) State.applyActuator
        (fun s w p hp => applyActuator_frame s w p (fun h => hp (by simp at h ⊢; tauto))) rfl _ t s.mgmt.actuatorQueue p
        (fun h => hp (by simp at h ⊢; tauto)))
    split
    · exact Part_same_trans h1 ((recomputeClasses_moves _).frame p (fun h => hp (by simp at h ⊢; tauto)))
    · exact h1
  refine .of_inv hf (fun i => ?_)
  unfold State.drainActuator
  dsimp only
  have h1 : Moves drainParts s (State.drainEntries State.applyActuator t
      { s with mgmt := { s.mgmt with actuatorQueue := [] } } s.mgmt.actuatorQueue) :=
    (drainEntries_moves (ps := .queues :: actuatorParts) State.applyActuator ActuatorWrite.ordered
      (fun s w hw => (applyActuator_moves s w hw).widen) rfl _ t _ i.staged).after (emptyActuatorQueue_moves s).widen
  exact Moves.ite (fun _ => (recomputeClasses_moves _).after h1) (fun _ => h1)

/-! ## Poke Engine -/

/-- The Poke Engine's own state replaced. -/
theorem poke_moves (s : State) (e : Option PokeRun) : Moves [.poke] s { s with poke := e } :=
  .of_frame rfl (fun p hp => by cases p <;> first | exact absurd (by decide) hp | rfl)

theorem fetchPoke_moves (s : State) (r : Nat) : Moves grantParts s (s.fetchPoke r) := queueBursts_moves _ _

theorem pokeIdle_moves (s : State) : Moves [.poke, .arbiter] s s.pokeIdle :=
  (withdraw_moves _ _).after (poke_moves s none).widen

theorem abortPoke_moves (s : State) : Moves [.poke, .arbiter, .queues, .counters, .events] s s.abortPoke := by
  unfold State.abortPoke
  exact Moves.ite (fun _ => (reportTest_moves _).after ((bump_moves _ _).after (pokeIdle_moves s).widen))
    (fun _ => .refl _ _)

/-- The parts that an ending of the Poke Engine may change. -/
abbrev pokeParts : List Part :=
  [.poke, .arbiter, .requests, .banks, .queues, .counters, .events, .snapshot, .capture]

theorem pokeFault_moves (s : State) : Moves pokeParts s s.pokeFault :=
  (raise_moves _ _).after ((bump_moves _ _).after (pokeIdle_moves s).widen)

theorem judgeRecord_moves (s : State) (e : PokeRun) (bs : List Byte) : Moves pokeParts s (s.judgeRecord e bs) := by
  unfold State.judgeRecord
  split
  · exact (pokeFault_moves _).after (bump_moves _ _).widen
  · exact (poke_moves _ _).widen

theorem endRecord_moves (s : State) (e : PokeRun) (r : PokeRecord) : Moves pokeParts s (s.endRecord e r) := by
  unfold State.endRecord
  dsimp only
  split
  · exact (raise_moves _ _).after ((bump_moves _ _).after ((pokeIdle_moves _).after (bump_moves _ _).widen))
  · split
    · exact (poke_moves _ _).after (bump_moves _ _).widen
    · exact (fetchPoke_moves _ _).after ((poke_moves _ _).after (bump_moves _ _).widen)

theorem pokeStep_moves (s : State) : Moves pokeParts s s.pokeStep.2.2 := by
  unfold State.pokeStep
  split
  · exact .refl _ _
  · split
    · exact (bump_moves _ _).widen
    · dsimp only
      split
      · exact (poke_moves _ _).widen
      · split
        · exact (poke_moves _ _).widen
        · exact endRecord_moves _ _ _

/-! ## Mirror link and Loop Supervisor -/

/-- The Mirror Link Interface replaced with its echo list and miss counter kept. -/
theorem mirror_moves (s : State) (m : Mirror) (he : m.echoes = s.mirror.echoes) (hm : m.misses = s.mirror.misses) :
    Moves [.mirror] s { s with mirror := m } where
  frame q hq := by cases q <;> first | exact absurd (by decide) hq | rfl
  inv h := { h with
    echoes := by have := h.echoes; rw [← he] at this; exact this
    echoesAtTail := by have := h.echoesAtTail; rw [← he] at this; exact this
    misses := by have := h.misses; rw [← hm] at this; exact this }
  rise _ _ := Nat.le_refl _

theorem handToMirror_moves (s : State) (f : MlFrame) : Moves [.mirror, .counters] s (s.handToMirror f) := by
  unfold State.handToMirror
  refine Moves.ite (fun _ => (bump_moves _ _).widen) (fun _ => ?_)
  split
  · exact (mirror_moves s _ (by rfl) (by rfl)).widen
  · dsimp only
    refine Moves.after (mirror_moves _ _ (by rfl) (by rfl)) ?_
    exact (bumpIf_moves _ _ _).widen

theorem lastOutputs_moves (s : State) (t : Table (0 : Int)) :
    Moves [.lastOutputs] s { s with tables := { s.tables with lastOutputs := t } } :=
  .of_frame rfl (fun p hp => by cases p <;> first | exact absurd (by decide) hp | rfl)

theorem buildShape_moves (s : State) : Moves [.mirror, .counters, .lastOutputs] s s.buildShape := by
  unfold State.buildShape
  dsimp only
  refine (handToMirror_moves _ _).after ?_
  exact Moves.after (lastOutputs_moves { s with mirror := { s.mirror with shapeNumber := s.mirror.shapeNumber + 1 } } _)
    (mirror_moves s _ (by rfl) (by rfl)).widen

theorem fillSnapshot_moves (s : State) (k : SafeCause) : Moves [.snapshot] s (s.fillSnapshot k) := by
  unfold State.fillSnapshot
  exact Moves.ite (fun _ => .refl _ _)
    (fun _ => .of_frame rfl (fun p hp => by cases p <;> first | exact absurd (by decide) hp | rfl))

/-- The Loop Supervisor and SAFE_OUT replaced, the snapshot kept. -/
theorem loop_moves (s : State) (l : Loop) (o : Bool) (hs : l.snapshotState = s.loop.snapshotState)
    (hn : l.snapshot = s.loop.snapshot) (ho : s.Inv → o = (l.state == .safe)) (hb : s.Inv → l.badFrames ≤ 255)
    (hr : s.Inv → l.satRun ≤ 1000) : Moves [.loop] s { s with loop := l, safeOut := o } where
  frame q hq := by
    cases q <;> first | exact absurd (by decide) hq | rfl | (simp only [Part.same, hs, hn])
  inv h := { h with badFrames := hb h, satRun := hr h, safeOut := ho h }
  rise _ _ := Nat.le_refl _

/-- The Loop Supervisor replaced, its state kept or set to one that is not SAFE where it was not SAFE. -/
theorem loopOnly_moves (s : State) (l : Loop) (hs : l.snapshotState = s.loop.snapshotState)
    (hn : l.snapshot = s.loop.snapshot) (ho : (l.state == .safe) = (s.loop.state == .safe)) (hb : s.Inv → l.badFrames ≤ 255)
    (hr : s.Inv → l.satRun ≤ 1000) : Moves [.loop] s { s with loop := l } :=
  loop_moves s l s.safeOut hs hn (fun h => by rw [ho]; exact h.safeOut) hb hr

/-- The parts that an entry to SAFE may change. -/
abbrev safeParts : List Part :=
  [.loop, .snapshot, .poke, .arbiter, .queues, .counters, .events, .capture, .mirror, .lastOutputs, .actuators, .gains,
   .overrides, .slaves, .pairs, .openShape, .actuatorQueue, .effective]

theorem enterSafe_moves (s : State) (k : SafeCause) : Moves safeParts s (s.enterSafe k) := by
  unfold State.enterSafe
  refine Moves.ite (fun _ => ?_) (fun _ => .refl _ _)
  dsimp only
  refine (buildShape_moves _).after ?_
  refine Moves.after (loopOnly_moves _ _ (by rfl) (by rfl) (by rfl) (fun h => h.badFrames) (fun h => h.satRun)) ?_
  refine (drainActuator_moves _ _).after ((abortPoke_moves _).after ((raise_moves _ _).after ((bump_moves _ _).after ?_)))
  refine Moves.after (loop_moves _ _ _ (by rfl) (by rfl) (fun _ => by rfl) (fun h => h.badFrames) (fun h => h.satRun)) ?_
  exact (fillSnapshot_moves s k).widen

theorem loseMirror_moves (s : State) : Moves safeParts s s.loseMirror := by
  unfold State.loseMirror
  exact Moves.ite (fun _ => .refl _ _)
    (fun _ => (enterSafe_moves _ _).after ((bump_moves _ _).after (raise_moves _ _).widen))

theorem misses_moves (s : State) (n : Nat) (hn : n ≤ 64) : Moves [.mirror] s { s with mirror := { s.mirror with misses := n } } where
  frame q hq := by cases q <;> first | exact absurd (by decide) hq | rfl
  inv h := { h with misses := hn }
  rise _ _ := Nat.le_refl _

theorem missEcho_moves (s : State) : Moves safeParts s s.missEcho := by
  unfold State.missEcho
  dsimp only
  have h1 : Moves safeParts s
      (State.bump { s with mirror := { s.mirror with misses := min (s.mirror.misses + 1) 64 } } .missedEchoes) :=
    (bump_moves _ _).after (misses_moves s _ (Nat.min_le_right _ _)).widen
  exact Moves.ite (fun _ => (loseMirror_moves _).after h1) (fun _ => h1)

theorem echoes_frame (s : State) (es : List EchoEntry) :
    ∀ p, p ∉ [Part.mirror] → p.same s { s with mirror := { s.mirror with echoes := es } } :=
  fun p hp => by cases p <;> first | exact absurd (by decide) hp | rfl

theorem echoes_moves (s : State) (es : List EchoEntry) (he : s.Inv → es.length ≤ Config.echoCapacity)
    (ht : s.Inv → s.isTail = false → es = []) : Moves [.mirror] s { s with mirror := { s.mirror with echoes := es } } where
  frame := echoes_frame s es
  inv h := { h with echoes := he h, echoesAtTail := ht h }
  rise _ _ := Nat.le_refl _

theorem handToMirror_echoes (s : State) (f : MlFrame) : (s.handToMirror f).mirror.echoes = s.mirror.echoes := by
  unfold State.handToMirror
  split
  · rfl
  · split
    · rfl
    · dsimp only
      cases s.mirror.waiting <;> rfl

theorem enterSafe_echoes (s : State) (k : SafeCause) : (s.enterSafe k).mirror.echoes = s.mirror.echoes := by
  unfold State.enterSafe
  split
  · dsimp only
    unfold State.buildShape
    dsimp only
    rw [handToMirror_echoes]
    dsimp only
    generalize hq : State.fillSnapshot s k = q
    have h0 : q.mirror = s.mirror := by subst hq; exact ((fillSnapshot_moves s k).frame .mirror (by decide)).symm
    have h1 := (drainActuator_moves (State.abortPoke (State.raise (State.bump
      { q with loop := { q.loop with state := .safe }, safeOut := true } .safeEntries) .loopSafe)) none).frame .mirror (by decide)
    have h2 := (abortPoke_moves (State.raise (State.bump
      { q with loop := { q.loop with state := .safe }, safeOut := true } .safeEntries) .loopSafe)).frame .mirror (by decide)
    have h3 := (raise_moves (State.bump
      { q with loop := { q.loop with state := .safe }, safeOut := true } .safeEntries) .loopSafe).frame .mirror (by decide)
    simp only [Part.same] at h1 h2 h3
    rw [← h1, ← h2, ← h3]
    exact congrArg Mirror.echoes h0
  · rfl

theorem missEcho_echoes (s : State) : s.missEcho.mirror.echoes = s.mirror.echoes := by
  unfold State.missEcho
  dsimp only
  split
  · unfold State.loseMirror
    split
    · rfl
    · rw [enterSafe_echoes]
      have h := (raise_moves (State.bump
        { s with mirror := { s.mirror with misses := min (s.mirror.misses + 1) 64 } } .missedEchoes) .mirrorLinkLost).frame
        .mirror (by decide)
      simp only [Part.same] at h
      exact (congrArg Mirror.echoes h).symm
  · rfl

theorem joinEchoes_moves (s : State) (f : MlFrame) (ht : s.isTail = true) : Moves safeParts s (s.joinEchoes f) := by
  unfold State.joinEchoes
  dsimp only
  by_cases hf : Config.echoCapacity ≤ s.mirror.echoes.length
  · rw [if_pos hf]
    have h0 : Moves [.mirror] s { s with mirror := { s.mirror with echoes := s.mirror.echoes.drop 1 } } :=
      echoes_moves s _ (fun h => by have := h.echoes; simp; omega) (fun _ h => by simp [ht] at h)
    have h1 : Moves safeParts s (State.missEcho { s with mirror := { s.mirror with echoes := s.mirror.echoes.drop 1 } }) :=
      (missEcho_moves _).after h0.widen
    refine .of_inv (fun p hp => Part_same_trans (h1.frame p hp) (echoes_frame _ _ p (fun h => hp (by simp at h ⊢; tauto))))
      (fun i => (echoes_moves _ _ (fun _ => ?_) (fun _ h => ?_)).after h1)
    · have := i.echoes
      rw [missEcho_echoes]
      simp
      unfold Config.echoCapacity at *
      omega
    · have hp := h1.frame .params (by decide)
      simp only [Part.same] at hp
      simp only [State.isTail, ← hp] at h ht
      simp [ht] at h
  · rw [if_neg hf]
    exact (echoes_moves s _ (fun h => by simp; omega) (fun _ h => by simp [ht] at h)).widen

/-! ## Detectors and transitions -/

theorem countBad_moves (s : State) (b a : Bool) : Moves [.loop] s (s.countBad b a) := by
  unfold State.countBad
  refine Moves.ite (fun _ => ?_) (fun _ => Moves.ite (fun _ => ?_) (fun _ => .refl _ _))
  · exact loopOnly_moves s _ (by rfl) (by rfl) (by rfl) (fun _ => Nat.zero_le _) (fun h => h.satRun)
  · exact loopOnly_moves s _ (by rfl) (by rfl) (by rfl) (fun _ => Nat.min_le_right _ _) (fun h => h.satRun)

theorem countSaturation_moves (s : State) (a : Bool) (n : Nat) : Moves [.loop] s (s.countSaturation a n) := by
  unfold State.countSaturation
  refine Moves.ite (fun _ => ?_) (fun _ => .refl _ _)
  refine loopOnly_moves s _ (by rfl) (by rfl) (by rfl) (fun h => h.badFrames) (fun _ => ?_)
  dsimp only
  split
  · exact Nat.min_le_right _ _
  · exact Nat.zero_le _

theorem report_moves (s : State) (b a : Bool) (n : Nat) : Moves safeParts s (s.report b a n) := by
  unfold State.report
  dsimp only
  have h1 : Moves safeParts s (State.countSaturation (State.countBad { s with loop := { s.loop with
      lastFinish := some s.now
      starvation := if s.loop.state.applies = true then some s.now else s.loop.starvation } } b a) a n) := by
    refine (countSaturation_moves _ _ _).after ?_
    refine (countBad_moves _ _ _).after ?_
    have h2 := loopOnly_moves s { s.loop with
      lastFinish := some s.now
      starvation := if s.loop.state.applies = true then some s.now else s.loop.starvation }
      (by rfl) (by rfl) (by rfl) (fun h => h.badFrames) (fun h => h.satRun)
    exact h2.widen
  refine Moves.ite (fun _ => (enterSafe_moves _ _).after h1) (fun _ => Moves.ite (fun _ => ?_) (fun _ => h1))
  exact (enterSafe_moves _ _).after h1

theorem enterRunning_moves (s : State) (l : LoopState) (hl : l ≠ .safe) (hs : s.loop.state ≠ .safe) :
    Moves [.loop] s (s.enterRunning l) :=
  loopOnly_moves s _ (by rfl) (by rfl) (by cases l <;> cases h : s.loop.state <;> simp_all) (fun h => h.badFrames)
    (fun h => h.satRun)

theorem leaveRunning_moves (s : State) (l : LoopState) (hl : l ≠ .safe) (hs : s.loop.state ≠ .safe) :
    Moves (.loop :: drainParts) s (s.leaveRunning l) := by
  have h1 : Moves [.loop] s { s with loop := { s.loop with state := l, starvation := none } } :=
    loopOnly_moves s _ (by rfl) (by rfl) (by cases l <;> cases h : s.loop.state <;> simp_all) (fun h => h.badFrames)
      (fun h => h.satRun)
  unfold State.leaveRunning
  dsimp only
  exact Moves.ite (fun _ => (drainActuator_moves _ _).after h1.widen) (fun _ => h1.widen)

/-! ## Controller Unit -/

theorem computeResiduals_moves (s : State) (c : Ix) (v : List Int) :
    Moves [.contexts, .counters] s (s.computeResiduals c v) :=
  (bumpIf_moves _ _ _).after ((bump_moves _ _).after (setCtx_moves _ _ _).widen)

/-- The integrator states replaced by ones that the entries in effect admit. -/
theorem integrators_moves (s : State) (x : Table (0 : Int))
    (hx : s.Inv → ∀ j, j < Config.maxActuators → (s.actuator j).admits (x.get j)) :
    Moves [.actuators] s { s with tables := { s.tables with integrators := x } } where
  frame q hq := by cases q <;> first | exact absurd (by decide) hq | rfl
  inv h := { h with integrators := hx h }
  rise _ _ := Nat.le_refl _

theorem updateAll_tables (t : Tables) (es : List Int) (js : List Nat) :
    (t.updateAll es js).1 = { t with integrators := (t.updateAll es js).1.integrators } := by
  induction js generalizing t with
  | nil => rfl
  | cons j js ih =>
    unfold Tables.updateAll
    split
    · dsimp only
      rw [ih]
      rfl
    · exact ih t

theorem updateAll_admits (t : Tables) (es : List Int) (js : List Nat) (ho : ∀ j, (t.actuators.get j).ordered) (j : Nat)
    (h : (t.actuators.get j).admits (t.integrators.get j)) :
    (t.actuators.get j).admits ((t.updateAll es js).1.integrators.get j) := by
  induction js generalizing t with
  | nil => exact h
  | cons k js ih =>
    unfold Tables.updateAll
    split
    · dsimp only
      refine ih (t.update k (es.getD k 0)).1 ho ?_
      simp only [Tables.update, Table_get_set]
      split
      · rename_i hj
        rw [hj]
        exact clampInt_bounds _ (toState_le (Int.le_trans (ho k).1 (ho k).2))
      · exact h
    · exact ih t ho h

theorem closedUpdate_moves (s : State) (c : Ix) : Moves [.actuators, .counters, .contexts] s (s.closedUpdate c).1 := by
  unfold State.closedUpdate
  dsimp only
  refine (setCtx_moves _ _ _).after ((bumpBy_moves _ _ _).after ((bump_moves _ _).after ?_))
  rw [updateAll_tables]
  exact (integrators_moves s _ (fun h j hj => updateAll_admits _ _ _ h.entries j (h.integrators j hj))).widen

theorem loadIntegrators_moves (s : State) (f : Nat → Int) (hf : s.Inv → ∀ j, (s.actuator j).admits (f j)) :
    Moves [.actuators] s { s with tables := s.tables.loadIntegrators f } := by
  unfold Tables.loadIntegrators
  exact integrators_moves s _ (fun h j hj => by rw [Table_get_build, if_pos hj]; exact hf h j)

theorem parkIntegrators_moves (s : State) : Moves [.actuators] s { s with tables := s.tables.parkIntegrators } :=
  loadIntegrators_moves s _ (fun h j => ⟨toState_le (h.entries j).1, toState_le (h.entries j).2⟩)

theorem bumpless_moves (s : State) : Moves [.actuators] s { s with tables := s.tables.bumpless } :=
  loadIntegrators_moves s _ (fun h j => by
    have := clampInt_bounds (s.tables.openShape.get j) (Int.le_trans (h.entries j).1 (h.entries j).2)
    exact ⟨toState_le this.1, toState_le this.2⟩)

/-! ## Constraint Unit -/

theorem setStates_tables (t : Tables) (p : Nat → Bool) (v : Nat → Int) (js : List Nat) :
    t.setStates p v js = { t with integrators := (t.setStates p v js).integrators } := by
  induction js generalizing t with
  | nil => rfl
  | cons j js ih =>
    unfold Tables.setStates
    rw [ih]
    split <;> rfl

theorem setStates_admits (t : Tables) (p : Nat → Bool) (v : Nat → Int) (js : List Nat) (j : Nat)
    (hv : p j = true → (t.actuators.get j).admits (toState (v j)))
    (h : (t.actuators.get j).admits (t.integrators.get j)) :
    (t.actuators.get j).admits ((t.setStates p v js).integrators.get j) := by
  induction js generalizing t with
  | nil => exact h
  | cons k js ih =>
    unfold Tables.setStates
    split
    · refine ih { t with integrators := t.integrators.set k (toState (v k)) } hv ?_
      simp only [Table_get_set]
      split
      · subst_vars; exact hv ‹_›
      · exact h
    · exact ih t hv h

/-- A value that step 5 writes into a state lies within the limits of its actuator (R124, R125). -/
theorem stepValue_bounds (t : Tables) (a j : Nat) (ho : (t.actuators.get j).ordered) (h : t.setsState a j = true) :
    (t.actuators.get j).admits (toState (t.stepValue a true j)) := by
  have hpark : (t.actuators.get j).admits (toState (t.actuators.get j).park) := ⟨toState_le ho.1, toState_le ho.2⟩
  unfold Tables.setsState at h
  unfold Tables.stepValue
  split
  · simp_all
  · simp_all
  · exact hpark
  · rename_i hc
    simp only [hc] at h
    split
    · rename_i v hv
      unfold Tables.slaveCase at hv
      split at hv
      · cases hv
      · dsimp only at hv
        split at hv
        · cases hv
        · cases hv
          have := clampInt_bounds (roundRN ((List.filter (t.usable a) (‹SlaveRecord›).masters).map (t.masterValue true)).sum
            (List.filter (t.usable a) (‹SlaveRecord›).masters).length) (Int.le_trans ho.1 ho.2)
          exact ⟨toState_le this.1, toState_le this.2⟩
    · exact hpark
    · rename_i hu; simp [hu] at h

theorem formValues_moves (s : State) (c : Ix) (b : Bool) :
    Moves [.actuators, .counters, .contexts] s (s.formValues c b).2.2 := by
  unfold State.formValues
  dsimp only
  have h1 : Moves [.actuators, .counters, .contexts] s (if b = true then s.closedUpdate c else (s, 0)).1 := by
    cases b
    · exact .refl _ _
    · exact closedUpdate_moves s c
  refine (bumpBy_moves _ _ _).after ((bumpBy_moves _ _ _).after ?_)
  revert h1
  generalize (if b = true then s.closedUpdate c else (s, 0)).1 = u
  intro h1
  cases b
  · exact h1
  · simp only [if_true]
    rw [setStates_tables]
    exact (integrators_moves u _ (fun h j hj =>
      setStates_admits _ _ _ _ j (stepValue_bounds _ _ j (h.entries j)) (h.integrators j hj))).after h1

theorem countPass_moves (s : State) (c : Ix) (p : Pass) (n : Nat) :
    Moves [.counters, .contexts] s (s.countPass c p n) := by
  unfold State.countPass
  dsimp only
  refine (setCtx_moves _ _ _).after ?_
  exact (bumpBy_moves _ _ _).after ((bumpBy_moves _ _ _).after ((bumpBy_moves _ _ _).after ((bumpBy_moves _ _ _).after
    ((bumpBy_moves _ _ _).after (bumpBy_moves _ _ _).widen))))

/-- The parts that the pipeline of an applied frame may change. -/
abbrev pipelineParts : List Part :=
  [.actuators, .counters, .gains, .overrides, .slaves, .pairs, .openShape, .queues, .actuatorQueue, .effective, .contexts, .poke, .arbiter, .requests, .banks, .events, .snapshot, .capture, .lastOutputs,
   .mirror]

theorem pipeline_moves (s : State) (c : Ix) : Moves pipelineParts s (s.pipeline c).1 := by
  unfold State.pipeline
  dsimp only
  refine (handToMirror_moves _ _).after ((bump_moves _ _).after ((setCtx_moves _ _ _).after ?_))
  refine (lastOutputs_moves _ _).after ((countPass_moves _ _ _ _).after ((pokeStep_moves _).after ?_))
  exact (formValues_moves _ _ _).after (drainActuator_moves _ _).widen

end Sys2Proof.Machine
end

