-- ==== Sys2Proof/Laws/MovesFrames.lean ====
section
/-! SUPPORT. What the operations of Machine/Merge.lean, Machine/Frames.lean, Machine/Ports.lean and Machine/Column.lean can do
(see Laws/Moves.lean). -/

-- One theorem after the other, so that checking the whole package keeps to few threads.
set_option Elab.async false

namespace Sys2Proof.Machine

/-! ## Merging -/

theorem placeMerged_moves (s : State) (c : Ix) (g : Segment) : Moves [.contexts, .queues, .counters] s (s.placeMerged c g) := by
  unfold State.placeMerged
  dsimp only
  exact Moves.ite (fun _ => (setCtx_moves _ _ _).widen) (fun _ => (placeRealtime_moves _ _).after (setCtx_moves _ _ _).widen)

/-- The parts that merging may change. -/
abbrev mergeParts : List Part := [.contexts, .queues, .counters]

theorem mergeOne_moves (s : State) (c : Ix) (g : Segment) : Moves mergeParts s (s.mergeOne c g) := by
  unfold State.mergeOne
  dsimp only
  refine (placeMerged_moves _ _ _).after ?_
  split
  · exact (bump_moves _ _).widen
  · exact .refl _ _

theorem mergeStored_moves (s : State) (c : Ix) (is : List Nat) : Moves mergeParts s (s.mergeStored c is) := by
  induction is generalizing s with
  | nil => exact .refl _ _
  | cons i is ih =>
    unfold State.mergeStored
    split
    · exact (mergeOne_moves _ _ _).trans (ih _)
    · exact ih _

theorem mergeAllStored_moves (s : State) (c : Ix) : Moves mergeParts s (s.mergeAllStored c) :=
  (mergeStored_moves _ _ _).after (setCtx_moves _ _ _).widen

theorem makeMissing_moves (s : State) (c : Ix) (is : List Nat) : Moves mergeParts s (s.makeMissing c is) := by
  induction is generalizing s with
  | nil => exact .refl _ _
  | cons i is ih =>
    unfold State.makeMissing
    split
    · exact ((placeMerged_moves _ _ _).after (bump_moves _ _).widen).trans (ih _)
    · exact ih _

theorem buildHead_moves (s : State) (c : Ix) (is : List Nat) : Moves mergeParts s (s.buildHead c is) := by
  induction is generalizing s with
  | nil => exact .refl _ _
  | cons i is ih => exact (placeMerged_moves _ _ _).trans (ih _)

theorem countVerdict_moves (s : State) (v : Verdict) : Moves raiseParts s (s.countVerdict v) := by
  cases v
  · exact (raise_moves _ _).after ((bump_moves _ _).after (bump_moves _ _).widen)
  · exact (raise_moves _ _).after ((bump_moves _ _).after (bump_moves _ _).widen)
  · exact (raise_moves _ _).after ((bump_moves _ _).after (bump_moves _ _).widen)
  · exact (raise_moves _ _).after (bump_moves _ _).widen
  · exact (bump_moves _ _).widen

theorem soloMasks_moves (s : State) (c : Ix) : Moves [.contexts] s (s.soloMasks c) := by
  unfold State.soloMasks
  exact Moves.ite (fun _ => setCtx_moves _ _ _) (fun _ => .refl _ _)

/-- The parts that the finishing of a frame may change. -/
abbrev finishParts : List Part :=
  [.loop, .snapshot, .poke, .arbiter, .queues, .counters, .events, .capture, .mirror, .lastOutputs, .actuators, .gains,
   .overrides, .slaves, .pairs, .openShape, .actuatorQueue, .effective, .contexts, .requests, .banks, .lastApplied,
   .newestDelivered]

theorem applyFrame_moves (s : State) (c : Ix) : Moves (.lastApplied :: pipelineParts) s (s.applyFrame c).1 := by
  unfold State.applyFrame
  refine (pipeline_moves _ _).after (Moves.widen (qs := [.lastApplied]) ?_)
  exact .of_frame rfl (fun p hp => by cases p <;> first | exact absurd (by decide) hp | rfl)

theorem finish_moves (s : State) (c : Ix) (d : Bool) : Moves finishParts s (s.finish c d) := by
  unfold State.finish
  dsimp only
  refine (contextDone_moves _ _).after ((report_moves _ _ _ _).after ?_)
  have h1 : Moves finishParts s (State.computeResiduals (((s.soloMasks c).noteFinish c (s.verdict c d).cls).countVerdict
      (s.verdict c d)) c ((s.heldSegments c).flatMap Segment.sums)) :=
    (computeResiduals_moves _ _ _).after ((countVerdict_moves _ _).after ((setCtx_moves _ _ _).after (soloMasks_moves _ _).widen))
  split
  · exact (applyFrame_moves _ _).after h1
  · exact h1

theorem complete_moves (s : State) (c : Ix) (d : Bool) : Moves finishParts s (s.complete c d) := by
  unfold State.complete
  exact Moves.ite (fun _ => finish_moves _ _ _) (fun _ => (contextDone_moves _ _).widen)

theorem forcedMerge_moves (s : State) (c : Ix) (d : Bool) : Moves finishParts s (s.forcedMerge c d) := by
  unfold State.forcedMerge
  split
  · exact finish_moves _ _ _
  · exact (contextDone_moves _ _).after (buildHead_moves _ _ _).widen
  all_goals exact (complete_moves _ _ _).after ((makeMissing_moves _ _ _).after (mergeAllStored_moves _ _).widen)

theorem afterAccumulated_moves (s : State) (c : Ix) : Moves finishParts s (s.afterAccumulated c) := by
  unfold State.afterAccumulated
  split
  · exact finish_moves _ _ _
  · exact (contextDone_moves _ _).after (buildHead_moves _ _ _).widen
  all_goals
    refine Moves.ite (fun _ => forcedMerge_moves _ _ _) (fun _ => ?_)
    dsimp only
    exact Moves.ite (fun _ => (complete_moves _ _ _).after (mergeAllStored_moves _ _).widen)
      (fun _ => (mergeAllStored_moves _ _).widen)

theorem accumulated_moves (s : State) (c : Ix) : Moves finishParts s (s.accumulated c) :=
  (afterAccumulated_moves _ _).after (setCtx_moves _ _ _).widen

theorem slotArrival_moves (s : State) (c : Ix) (g : Segment) : Moves finishParts s (s.slotArrival c g) := by
  unfold State.slotArrival
  dsimp only
  split
  · refine Moves.ite (fun _ => (bump_moves _ _).after (setCtx_moves _ _ _).widen) (fun _ => ?_)
    exact Moves.ite (fun _ => (complete_moves _ _ _).after (mergeOne_moves _ _ _).widen) (fun _ => (mergeOne_moves _ _ _).widen)
  · exact (bump_moves _ _).widen
  · exact (bump_moves _ _).widen

/-! ## Frame Context Unit -/

theorem jobs_moves (s : State) (js : List Ix) : Moves [.jobs] s { s with frames := { s.frames with jobs := js } } :=
  .of_frame rfl (fun p hp => by cases p <;> first | exact absurd (by decide) hp | rfl)

theorem queueJob_moves (s : State) (c : Ix) : Moves [.jobs, .contexts] s (s.queueJob c) := by
  unfold State.queueJob
  dsimp only
  exact Moves.after (jobs_moves _ _) (setCtx_moves _ _ _).widen

theorem completionTest_moves (s : State) (c : Ix) : Moves [.jobs, .contexts, .counters] s (s.completionTest c) := by
  unfold State.completionTest
  exact Moves.ite (fun _ => (bump_moves _ _).after (queueJob_moves _ _).widen) (fun _ => .refl _ _)

theorem completionTests_moves (s : State) : Moves [.jobs, .contexts, .counters] s s.completionTests :=
  (completionTest_moves _ _).trans (completionTest_moves _ _)

theorem ringWords_mod (n : Nat) : n % Config.ringWords < Config.ringWords := Nat.mod_lt _ (by decide)

theorem releaseWords_moves (s : State) (p : Ix) (n : Nat) :
    Moves [.ports] s (s.setPort p ((s.port p).releaseWords n)) :=
  setPort_moves _ _ _ (by rfl) (fun h => ⟨ringWords_mod _, (h.rings p).2⟩)

theorem releasePacket_moves (s : State) (p : Ix) (d : Descriptor) :
    Moves [.ports, .jobs, .contexts, .counters] s (s.releasePacket p d) := by
  unfold State.releasePacket
  dsimp only
  refine Moves.ite (fun _ => ?_) (fun _ => (releaseWords_moves _ _ _).widen)
  exact (completionTest_moves _ _).after ((setCtx_moves _ _ _).after (releaseWords_moves _ _ _).widen)

/-- The Column Engine's work, pass and last ring replaced, its tables kept. -/
theorem engine_moves (s : State) (e : Engine) (hr : e.refs = s.engine.refs) (hh : e.hold = s.engine.hold) :
    Moves [.engine] s { s with engine := e } :=
  .of_frame rfl (fun p hp => by
    cases p <;> first | exact absurd (by decide) hp | rfl | exact hr.symm | exact hh.symm)

theorem stopEngine_moves (s : State) (k : Option (Ix × Descriptor)) : Moves [.arbiter, .engine, .ports] s (s.stopEngine k) := by
  unfold State.stopEngine
  dsimp only
  have h1 : Moves [.arbiter, .engine, .ports] s (s.withdraw BurstJob.isColumn) := (withdraw_moves _ _).widen
  refine Moves.ite (fun _ => (engine_moves _ _ (by rfl) (by rfl)).after h1) (fun _ => ?_)
  split
  · exact (releaseWords_moves _ _ _).after ((engine_moves _ _ (by rfl) (by rfl)).after h1)
  · exact (engine_moves _ _ (by rfl) (by rfl)).after h1

theorem stopEngineFor_moves (s : State) (c : Ix) : Moves [.arbiter, .engine, .ports] s (s.stopEngineFor c) := by
  unfold State.stopEngineFor
  split
  · exact Moves.ite (fun _ => stopEngine_moves _ _) (fun _ => .refl _ _)
  · exact Moves.ite (fun _ => stopEngine_moves _ _) (fun _ => .refl _ _)
  · exact .refl _ _
  · exact .refl _ _

/-- The parts that abandoning a context may change. -/
abbrev abandonParts : List Part :=
  [.arbiter, .engine, .ports, .jobs, .contexts, .banks, .queues, .counters, .events, .snapshot, .capture]

theorem abandon_moves (s : State) (c : Ix) : Moves abandonParts s (s.abandon c) := by
  unfold State.abandon
  dsimp only
  refine (raise_moves _ _).after ((release_moves _ _).after ((bump_moves _ _).after ?_))
  exact Moves.after (jobs_moves _ _) (stopEngineFor_moves _ _).widen

/-- The parts that an opening may change. -/
abbrev openParts : List Part :=
  [.loop, .snapshot, .poke, .arbiter, .queues, .counters, .events, .capture, .mirror, .lastOutputs, .actuators, .gains,
   .overrides, .slaves, .pairs, .openShape, .actuatorQueue, .effective, .contexts, .requests, .banks, .lastApplied,
   .newestDelivered, .engine, .ports, .jobs, .references, .portConfigs, .hold, .slopeQueue, .newestOpened]

theorem displace_moves (s : State) (c : Ix) : Moves openParts s (s.displace c) := by
  unfold State.displace
  split
  · exact (abandon_moves _ _).widen
  · exact (releaseEarly_moves _ _).after ((bump_moves _ _).after (forcedMerge_moves _ _ _).widen)
  · exact (releaseEarly_moves _ _).after ((bump_moves _ _).after (forcedMerge_moves _ _ _).widen)
  · exact (releaseEarly_moves _ _).widen
  · exact .refl _ _

theorem chooseCtx_moves (s : State) : Moves openParts s s.chooseCtx.2 := by
  unfold State.chooseCtx
  split
  · exact .refl _ _
  · split
    · exact .refl _ _
    · exact displace_moves _ _

/-- A swap makes its bank LIVE and demotes the other: never two LIVE banks, and no new mark (R42, R49). -/
theorem swapBanks_moves (s : State) (b : Ix) : Moves [.banks] s
    ((s.setBank b.other (s.bank b.other).demote).setBank b
      { (s.setBank b.other (s.bank b.other).demote).bank b with state := .live, swapMark := none }) where
  frame q hq := by cases q <;> first | exact absurd (by decide) hq | rfl
  inv h := { h with
    oneLive := by
      have hd : ∀ k : Bank, k.demote.state ≠ .live := by
        intro k; unfold Bank.demote; split <;> simp_all
      cases b
      · intro _; exact hd _
      · intro hs; exact absurd hs (hd _)
    oneSwap := by
      have hd : ∀ k : Bank, k.demote.swapMark = k.swapMark := by
        intro k; unfold Bank.demote; split <;> rfl
      cases b
      · intro hs; cases hs
      · intro _; rfl }
  rise _ _ := Nat.le_refl _

theorem takeSwap_moves (s : State) (b : Ix) : Moves (.banks :: raiseParts) s (s.takeSwap b) :=
  (raise_moves _ _).after ((bump_moves _ _).after (swapBanks_moves s b).widen)

theorem newestOpened_moves (s : State) (t : Option Tag) :
    Moves [.newestOpened] s { s with frames := { s.frames with newestOpened := t } } :=
  .of_frame rfl (fun p hp => by cases p <;> first | exact absurd (by decide) hp | rfl)

theorem openIn_moves (s : State) (c : Ix) (t : Tag) : Moves openParts s (s.openIn c t) := by
  unfold State.openIn
  split
  · exact .refl _ _
  · dsimp only
    refine (bump_moves _ _).after ((completionTest_moves _ _).after ?_)
    refine Moves.after (newestOpened_moves _ _) ?_
    rename_i b _
    have h1 : Moves openParts s ((s.setBank b { s.bank b with useCount := (s.bank b).useCount + 1 }).setCtx c
        (s.freshContext t b)) :=
      (setCtx_moves _ _ _).after (setBank_moves s b _ (by exact id) (by exact id)).widen
    exact Moves.ite (fun _ => h1) (fun _ => (drainSlope_moves _ _).after h1)

theorem openContext_moves (s : State) (t : Tag) : Moves openParts s (s.openContext t).2 := by
  unfold State.openContext
  dsimp only
  refine (openIn_moves _ _ _).after ?_
  split
  · exact (takeSwap_moves _ _).after (chooseCtx_moves _)
  · exact chooseCtx_moves _

theorem resolveNew_moves (s : State) (t : Tag) : Moves openParts s (s.resolveNew t).2 := by
  unfold State.resolveNew
  split
  · exact .refl _ _
  · split
    · exact .refl _ _
    · exact openContext_moves _ _

theorem resolveSlope_moves (s : State) (t : Tag) : Moves openParts s (s.resolveSlope t).2 := by
  unfold State.resolveSlope
  split
  · split <;> exact .refl _ _
  · exact resolveNew_moves _ _

theorem resolveSegment_moves (s : State) (t : Tag) : Moves openParts s (s.resolveSegment t).2 := by
  unfold State.resolveSegment
  split
  · split <;> exact .refl _ _
  · exact resolveNew_moves _ _

/-! ## Slope Ports -/

theorem append_positions (x : Port) (ws : List RingWord) (h : x.positionsHold) : (x.append ws).positionsHold :=
  ⟨h.1, h.2.1, ringWords_mod _⟩

theorem noRoom_moves (s : State) (p : Ix) : Moves (.ports :: .jobs :: .contexts :: raiseParts) s (s.noRoom p) := by
  unfold State.noRoom
  split
  · exact (raise_moves _ _).after (bump_moves _ _).widen
  · dsimp only
    refine (completionTests_moves _).after ((raise_moves _ _).after ?_)
    refine Moves.after (setPort_moves _ _ _ (by rfl) (fun h => h.rings p)) ?_
    exact (bump_moves _ _).widen

theorem beginReception_moves (s : State) (p c : Ix) (h : List Byte) :
    Moves [.ports, .contexts] s (s.beginReception p c h) := by
  unfold State.beginReception
  dsimp only
  refine (setCtx_moves _ _ _).after (Moves.widen (qs := [.ports]) ?_)
  exact setPort_moves _ _ _ (by rfl) (fun h => append_positions _ _ (h.rings p))

/-- The free count of a port replaced. -/
theorem freeCount_moves (s : State) (p : Ix) (n : Nat) : Moves [.ports] s (s.setPort p { s.port p with freeCount := n }) :=
  setPort_moves _ _ _ (by rfl) (fun h => h.rings p)

theorem resolvePacket_moves (s : State) (p : Ix) (h : List Byte) : Moves openParts s (s.resolvePacket p h) := by
  unfold State.resolvePacket
  dsimp only
  have h1 : Moves openParts s (State.resolveSlope
      (s.setPort p { s.port p with freeCount := (s.port p).freeCount - footprint (headerDescriptor h).count })
      (headerDescriptor h).tag).2 :=
    (resolveSlope_moves _ _).after (freeCount_moves _ _ _).widen
  split
  · exact (beginReception_moves _ _ _ _).after h1
  · exact (raise_moves _ _).after ((bump_moves _ _).after ((freeCount_moves _ _ _).after h1))
  · exact (bump_moves _ _).after ((freeCount_moves _ _ _).after h1)

theorem header_moves (s : State) (p : Ix) (h : List Byte) : Moves openParts s (s.header p h) := by
  unfold State.header
  dsimp only
  refine Moves.ite (fun _ => (raise_moves _ _).after (bump_moves _ _).widen) (fun _ => ?_)
  refine Moves.ite (fun _ => (bump_moves _ _).widen) (fun _ => ?_)
  refine Moves.ite (fun _ => (bump_moves _ _).widen) (fun _ => ?_)
  exact Moves.ite (fun _ => (noRoom_moves _ _).widen) (fun _ => resolvePacket_moves _ _ _)

/-- The parts that the end of a packet in reception may change. -/
abbrev packetParts : List Part :=
  [.ports, .jobs, .contexts, .queues, .counters, .events, .snapshot, .capture]

theorem flush_moves (s : State) (p : Ix) (d : Descriptor) : Moves packetParts s (s.flush p d) := by
  unfold State.flush
  dsimp only
  have h0 := setPort_moves s p { s.port p with
      writePos := (s.port p).visiblePos, freeCount := (s.port p).freeCount + footprint d.count, reception := none } rfl
    (fun h => ⟨(h.rings p).1, (h.rings p).2.1, (h.rings p).2.1⟩)
  have h1 := h0.widen (ps := packetParts)
  exact Moves.ite (fun _ => (completionTest_moves _ _).after ((setCtx_moves _ _ _).after h1)) (fun _ => h1)

theorem reportLast_moves (s : State) (p : Ix) (d : Descriptor) : Moves packetParts s (s.reportLast p d) := by
  unfold State.reportLast
  refine Moves.ite (fun _ => ?_) (fun _ => .refl _ _)
  exact (completionTest_moves _ _).after (setCtx_moves _ _ _).widen

theorem makeVisible_moves (s : State) (p : Ix) (d : Descriptor) (bs : List Byte) :
    Moves packetParts s (s.makeVisible p d bs) := by
  unfold State.makeVisible
  dsimp only
  refine (bump_moves _ _).after ((reportLast_moves _ _ _).after (Moves.widen (qs := [.ports]) ?_))
  exact setPort_moves s p _ (by rfl) (fun h => ⟨(h.rings p).1, ringWords_mod _, ringWords_mod _⟩)

theorem packetEnd_moves (s : State) (p : Ix) (r : Reception) (bs : List Byte) : Moves packetParts s (s.packetEnd p r bs) := by
  unfold State.packetEnd
  exact Moves.ite (fun _ => makeVisible_moves _ _ _ _)
    (fun _ => (raise_moves _ _).after ((bump_moves _ _).after (flush_moves _ _ _)))

theorem emptyRing_moves (s : State) (p : Ix) : Moves [.ports, .engine] s (s.emptyRing p) := by
  unfold State.emptyRing
  refine Moves.after (engine_moves (s.setPort p (s.port p).emptied) _ (by rfl) (by rfl)) (Moves.widen (qs := [.ports]) ?_)
  exact setPort_moves s p _ (by rfl) (fun _ => by simp [Port.positionsHold, Port.emptied, Config.ringWords])

/-! ## Column Engine -/

/-- The parts that the Column Engine may change as it goes on with its work. -/
abbrev engineParts : List Part :=
  [.loop, .snapshot, .poke, .arbiter, .queues, .counters, .events, .capture, .mirror, .lastOutputs, .actuators, .gains,
   .overrides, .slaves, .pairs, .openShape, .actuatorQueue, .effective, .contexts, .requests, .banks, .lastApplied,
   .newestDelivered, .engine, .ports, .jobs, .hold]

theorem startColumn_moves (s : State) (c : Ix) (i : Nat) (v : Int) :
    Moves [.engine, .arbiter, .requests, .banks] s (s.startColumn c i v) := by
  unfold State.startColumn
  dsimp only
  refine (queueBursts_moves _ _).after ?_
  exact (engine_moves s _ (by rfl) (by rfl)).widen

theorem holdTable_moves (s : State) (t : Table (none : Option HoldEntry)) :
    Moves [.hold] s { s with engine := { s.engine with hold := t } } :=
  .of_frame rfl (fun p hp => by cases p <;> first | exact absurd (by decide) hp | rfl)

theorem treatSlope_moves (s : State) (p : Ix) (d : Descriptor) (k : Nat) :
    Moves [.contexts, .counters, .hold] s (s.treatSlope p d k).2 := by
  unfold State.treatSlope
  dsimp only
  split
  · exact .refl _ _
  · split
    · exact (bump_moves _ _).widen
    · dsimp only
      unfold State.acceptSlope
      dsimp only
      refine Moves.after (holdTable_moves _ _) ?_
      exact (bumpIf_moves _ _ _).after (setCtx_moves _ _ _).widen

theorem continuePacket_moves (s : State) (p : Ix) (d : Descriptor) (k n : Nat) :
    Moves engineParts s (s.continuePacket p d k n) := by
  induction n generalizing s k with
  | zero =>
    exact (releasePacket_moves _ _ _).after (engine_moves s { s.engine with work := .idle } rfl rfl).widen
  | succ n ih =>
    unfold State.continuePacket
    dsimp only
    refine Moves.ite (fun _ => ?_) (fun _ => (treatSlope_moves s p d k).widen.trans (ih _ _))
    refine (startColumn_moves _ _ _ _).after ?_
    refine Moves.after (engine_moves _ _ (by rfl) (by rfl)) ?_
    exact (treatSlope_moves s p d k).widen

theorem substitute_moves (s : State) (c : Ix) (i : Nat) : Moves [.contexts, .counters, .hold] s (s.substitute c i).2 := by
  unfold State.substitute
  dsimp only
  split
  · exact (bump_moves _ _).after (setCtx_moves _ _ _).widen
  · dsimp only
    refine Moves.after (holdTable_moves _ _) ?_
    exact (bump_moves _ _).after (setCtx_moves _ _ _).widen
  · exact (bump_moves _ _).after (setCtx_moves _ _ _).widen

theorem continueJob_moves (s : State) (c : Ix) (i n : Nat) : Moves engineParts s (s.continueJob c i n) := by
  induction n generalizing s i with
  | zero =>
    exact (accumulated_moves _ _).after (engine_moves s { s.engine with work := .idle } rfl rfl).widen
  | succ n ih =>
    unfold State.continueJob
    refine Moves.ite (fun _ => ih _ _) (fun _ => ?_)
    dsimp only
    refine Moves.ite (fun _ => ?_) (fun _ => (substitute_moves s c i).widen.trans (ih _ _))
    refine (startColumn_moves _ _ _ _).after ?_
    refine Moves.after (engine_moves _ _ (by rfl) (by rfl)) ?_
    exact (substitute_moves s c i).widen

theorem continueWork_moves (s : State) : Moves engineParts s s.continueWork := by
  unfold State.continueWork
  split
  · exact .refl _ _
  · exact continuePacket_moves _ _ _ _ _
  · exact continueJob_moves _ _ _ _
  · dsimp only
    have h1 : Moves engineParts s { s with engine := { s.engine with work := .idle } } :=
      (engine_moves s { s.engine with work := .idle } rfl rfl).widen
    split
    · exact (releasePacket_moves _ _ _).after h1
    · exact h1

theorem takePacket_moves (s : State) (p : Ix) (d : Descriptor) : Moves engineParts s (s.takePacket p d) := by
  unfold State.takePacket
  dsimp only
  have h1 : Moves engineParts s { s with engine := { s.engine with lastPort := p } } :=
    (engine_moves s { s.engine with lastPort := p } rfl rfl).widen
  refine Moves.ite (fun _ => ?_) (fun _ => ?_)
  · refine (continuePacket_moves _ _ _ _ _).after ?_
    exact (engine_moves s { s.engine with lastPort := p, work := .packet p d 0 } rfl rfl).widen
  · exact (releasePacket_moves _ _ _).after ((raise_moves _ _).after ((bump_moves _ _).after h1))

theorem addBurst_moves (s : State) (b : Burst) : Moves [.contexts] s (s.addBurst b) := by
  unfold State.addBurst
  split
  · exact setCtx_moves _ _ _
  · exact .refl _ _

theorem matrixFails_moves (s : State) : Moves (.arbiter :: .contexts :: raiseParts) s s.matrixFails :=
  (raise_moves _ _).after ((setCtx_moves _ _ _).after ((setCtx_moves _ _ _).after (withdraw_moves _ _).widen))

theorem endPass_moves (s : State) : Moves [.engine] s s.endPass := engine_moves s _ rfl rfl

/-- The parts that the end of a column-fetch burst may change. -/
abbrev columnParts : List Part :=
  [.loop, .snapshot, .poke, .arbiter, .queues, .counters, .events, .capture, .mirror, .lastOutputs, .actuators, .gains,
   .overrides, .slaves, .pairs, .openShape, .actuatorQueue, .effective, .contexts, .requests, .banks, .lastApplied,
   .newestDelivered, .engine, .ports, .jobs, .hold, .lastBad]

theorem columnDelivered_moves (s : State) (b : Burst) : Moves columnParts s (s.columnDelivered b) := by
  unfold State.columnDelivered
  dsimp only
  have h1 : Moves columnParts s (s.checkRead b) := (checkRead_moves _ _).widen
  refine Moves.ite (fun _ => ?_) (fun _ => Moves.ite (fun _ => ?_) (fun _ => ?_))
  · exact (continueWork_moves _).after ((endPass_moves _).after ((grantDram_moves _).after ((matrixFails_moves _).after h1)))
  · exact (continueWork_moves _).after ((grantDram_moves _).after h1)
  · have h2 : Moves columnParts s ((s.checkRead b).grantDram.addBurst b) :=
      (addBurst_moves _ _).after ((grantDram_moves _).after h1)
    exact Moves.ite (fun _ => (continueWork_moves _).after ((endPass_moves _).after h2)) (fun _ => h2)

end Sys2Proof.Machine
end

