-- ==== Sys2Proof/Laws/Engine.lean ====
section
/-! SUPPORT. What the Column Engine can do: the treatment of a slope and of a whole packet, a substitution and a whole job, the
fetch of a column, the grant that follows, and the check of a read (R13, R15, R17, R39, R52, R58). -/

-- One theorem after the other, so that checking the whole package keeps to few threads.
set_option Elab.async false

namespace Sys2Proof.Machine

/-- What stays as it was while the engine works: all that it reads for a later slope or index, but for seen-map and hold table. -/
structure State.SameGround (s u : State) (c : Ix) : Prop where
  ports : u.ports = s.ports
  refs : u.engine.refs = s.engine.refs
  params : u.params = s.params
  latched : u.isPending .matrixUncorrectable = s.isPending .matrixUncorrectable
  corrupt : (u.ctx c).isCorrupt = (s.ctx c).isCorrupt
  bank : (u.ctx c).bank = (s.ctx c).bank

theorem hasFlag_addFlag (x : Context) (f g : FrameFlag) : (x.addFlag f).hasFlag g = (x.hasFlag g || g == f) := by
  cases f <;> cases g <;> simp [Context.hasFlag, Context.addFlag, FrameFlag.bit] 

theorem hasFlag_addFlagIf (x : Context) (b : Bool) (f g : FrameFlag) :
    (x.addFlagIf b f).hasFlag g = (x.hasFlag g || (b && g == f)) := by
  cases b <;> simp [Context.addFlagIf, hasFlag_addFlag]

theorem countedTimes_step {s u t : State} {c : Counter} {n : Nat} {b : Bool} (h : s.countedTimes u c n)
    (k : u.countedIf t b c) : s.countedTimes t c (n + if b then 1 else 0) := by
  unfold State.countedTimes State.countedIf at *
  cases b
  · simpa [k] using h
  · simp only [if_true] at k ⊢
    rw [k, h]
    split <;> simp_all
    omega

theorem State.SameGround.refl (s : State) (c : Ix) : s.SameGround s c := ⟨rfl, rfl, rfl, rfl, rfl, rfl⟩

theorem State.SameGround.trans {s t u : State} {c : Ix} (h : s.SameGround t c) (k : t.SameGround u c) : s.SameGround u c :=
  ⟨k.ports.trans h.ports, k.refs.trans h.refs, k.params.trans h.params, k.latched.trans h.latched, k.corrupt.trans h.corrupt,
    k.bank.trans h.bank⟩

theorem State.SameGround.fetches {s u : State} {c : Ix} (h : s.SameGround u c) : u.fetches c = s.fetches c := by
  unfold State.fetches State.segments; rw [h.corrupt, h.latched, h.params]

theorem State.SameGround.columnOf {s u : State} {c : Ix} (h : s.SameGround u c) (i : Nat) : u.columnOf c i = s.columnOf c i := by
  simp [State.columnOf, h.bank, h.params]

theorem indexAt_congr {s u : State} (h : u.ports = s.ports) (p : Ix) (d : Descriptor) (j : Nat) :
    u.indexAt p d j = s.indexAt p d j := by
  cases p <;> simp [State.indexAt, State.localIndex, State.port, h]

theorem indexAt_inj (s : State) (p : Ix) (d : Descriptor) {j k : Nat} (h : s.indexAt p d j = s.indexAt p d k) : j = k := by
  cases p <;> simp [State.indexAt, State.localIndex] at h <;> omega

theorem treats_refl (s : State) (p : Ix) (d : Descriptor) (k : Nat) : s.treats s p d k k := by
  refine ⟨fun j h1 h2 => by omega, fun i _ => ⟨rfl, rfl, rfl⟩, ?_, ?_⟩ <;> simp [State.countedTimes]

/-- What a valid slope makes of the state (R15, case 3). -/
theorem acceptSlope_spec (s : State) (p c : Ix) (i : Nat) (v : Int) :
    let w := clampInt (-32767) 32767 (v - s.engine.refs.get i)
    let b := w != v - s.engine.refs.get i
    let t := s.acceptSlope p c i v
    s.SameGround t c
    ∧ (∀ n, t.engine.hold.get n = if n = i then some ⟨w, 0⟩ else s.engine.hold.get n)
    ∧ (∀ n, (t.ctx c).seen.get n = if n = i then true else (s.ctx c).seen.get n)
    ∧ (∀ n, (t.ctx c).slopes.get n = if n = i then w else (s.ctx c).slopes.get n)
    ∧ (∀ f, (t.ctx c).hasFlag f = ((s.ctx c).hasFlag f || (b && f == .slopeClamp)))
    ∧ (∀ k, t.counter k = if k = .port p .clamped ∧ b = true then min (s.counter k + 1) Config.counterMax else s.counter k) := by
  dsimp only
  generalize hw : clampInt (-32767) 32767 (v - s.engine.refs.get i) = w
  generalize hb : (w != v - s.engine.refs.get i) = b
  have ht : s.acceptSlope p c i v =
      { ((s.setCtx c { (s.ctx c).addFlagIf b .slopeClamp with
            seen := ((s.ctx c).addFlagIf b .slopeClamp).seen.set i true
            slopes := ((s.ctx c).addFlagIf b .slopeClamp).slopes.set i w }).bumpIf b (.port p .clamped)) with
        engine := { s.engine with hold := s.engine.hold.set i (some ⟨w, 0⟩) } } := by
    subst hw; subst hb; unfold State.acceptSlope State.bumpIf; dsimp only; split <;> rfl
  have hc : (s.acceptSlope p c i v).ctx c = { (s.ctx c).addFlagIf b .slopeClamp with
      seen := ((s.ctx c).addFlagIf b .slopeClamp).seen.set i true
      slopes := ((s.ctx c).addFlagIf b .slopeClamp).slopes.set i w } := by
    rw [ht]; cases b <;> cases c <;> rfl
  have hf : ∀ f, ((s.acceptSlope p c i v).ctx c).hasFlag f = ((s.ctx c).hasFlag f || (b && f == .slopeClamp)) := by
    intro f; rw [← hasFlag_addFlagIf, hc]; rfl
  refine ⟨⟨?_, ?_, ?_, ?_, ?_, ?_⟩, ?_, ?_, ?_, hf, ?_⟩
  · rw [ht]; simp
  · rw [ht]
  · rw [ht]; simp
  · rw [ht]; simp [State.isPending]
  · simp [Context.isCorrupt, hf]
  · rw [hc]; cases b <;> rfl
  · intro n; rw [ht]; exact Table_get_set _ _ _ _
  · intro n; rw [hc]; simp only [Table_get_set]; cases b <;> rfl
  · intro n; rw [hc]; simp only [Table_get_set]; cases b <;> rfl
  · intro k
    rw [ht]
    refine (counter_bumpIf _ b (.port p .clamped) k).trans ?_
    by_cases hk : k = .port p .clamped
    · subst hk; rfl
    · simp [hk]; rfl

/-- What the treatment of one slope makes of a state in which the slopes before it have been treated (R15). -/
theorem treats_step {s u : State} {p : Ix} {d : Descriptor} {k m : Nat} (hkm : k ≤ m) (hg : s.SameGround u d.ctx)
    (h : s.treats u p d k m) :
    s.SameGround (u.treatSlope p d m).2 d.ctx ∧ s.treats (u.treatSlope p d m).2 p d k (m + 1)
    ∧ (u.treatSlope p d m).1 = if s.validAt p d m then s.correctedAt p d m else 0 := by
  obtain ⟨h1, h2, h3, h4⟩ := h
  have hidx : u.localIndex p (d.first + m) = s.indexAt p d m := indexAt_congr hg.ports p d m
  have hport : u.port p = s.port p := by simp [State.port, hg.ports]
  have hseen : (u.ctx d.ctx).seen.get (s.indexAt p d m) = (s.ctx d.ctx).seen.get (s.indexAt p d m) :=
    (h2 _ (fun j _ hj _ he => by have := indexAt_inj s p d he; omega)).1
  have hr : List.range' k (m + 1 - k) = List.range' k (m - k) ++ [m] := by
    rw [show m + 1 - k = (m - k) + 1 by omega, List.range'_concat]
    simp [show k + (m - k) = m by omega]
  have hold : ∀ j, k ≤ j → j < m + 1 → s.validAt p d j = true → s.validAt p d m = false → j < m := by
    intro j _ hj hv hf
    rcases Nat.lt_or_ge j m with h | h
    · exact h
    · have : j = m := by omega
      subst this; simp [hv] at hf
  unfold State.treatSlope
  dsimp only
  rw [hidx, hport, hseen]
  by_cases hn : ((s.port p).slopeAt m).toInt = -32768
  · have hv : s.validAt p d m = false := by simp [State.validAt, hn]
    have hd : s.duplicateAt p d m = false := by simp [State.duplicateAt, hn]
    simp only [hn, if_true, hv]
    refine ⟨hg, ⟨fun j a b c => h1 j a (hold j a b c hv) c, fun i hi => h2 i (fun j a b c => hi j a (by omega) c), ?_, ?_⟩, rfl⟩
    · rw [hr]; simpa [List.countP_append, hd] using h3
    · rw [hr]; simpa [List.countP_append, hv] using h4
  · rw [if_neg hn]
    by_cases hs : (s.ctx d.ctx).seen.get (s.indexAt p d m) = true
    · have hv : s.validAt p d m = false := by simp [State.validAt, hs]
      have hd : s.duplicateAt p d m = true := by simp [State.duplicateAt, hn, hs]
      simp only [hs, if_true, hv]
      refine ⟨hg.trans ⟨rfl, rfl, rfl, rfl, rfl, rfl⟩, ⟨fun j a b c => h1 j a (hold j a b c hv) c,
        fun i hi => h2 i (fun j a b c => hi j a (by omega) c), ?_, ?_⟩, rfl⟩
      · rw [hr]
        have := countedTimes_step (b := true) h3 (t := u.bump (.port p .duplicates)) (by simp [State.countedIf, counter_bump])
        simpa [List.countP_append, hd] using this
      · rw [hr]
        simpa [List.countP_append, hv, State.countedTimes, counter_bump] using h4
    · have hs' : (s.ctx d.ctx).seen.get (s.indexAt p d m) = false := by simpa using hs
      have hv : s.validAt p d m = true := by simp [State.validAt, hn, hs']
      have hd : s.duplicateAt p d m = false := by simp [State.duplicateAt, hs']
      simp only [hs', hv, if_true, Bool.false_eq_true, if_false]
      have hdiff : ((s.port p).slopeAt m).toInt - u.engine.refs.get (s.indexAt p d m) = s.differenceAt p d m := by
        simp [State.differenceAt, hg.refs]
      obtain ⟨g1, g2, g3, g4, g5, g6⟩ := acceptSlope_spec u p d.ctx (s.indexAt p d m) ((s.port p).slopeAt m).toInt
      rw [hdiff] at g2 g4 g5 g6
      change ∀ n, _ = if n = s.indexAt p d m then some (⟨s.correctedAt p d m, 0⟩ : HoldEntry) else _ at g2
      change ∀ n, _ = if n = s.indexAt p d m then s.correctedAt p d m else _ at g4
      change ∀ f, _ = (_ || ((s.correctedAt p d m != s.differenceAt p d m) && _)) at g5
      change ∀ k, _ = if k = _ ∧ (s.correctedAt p d m != s.differenceAt p d m) = true then _ else _ at g6
      refine ⟨hg.trans g1, ⟨fun j a b c => ?_, fun i hi => ?_, ?_, ?_⟩, ?_⟩
      · rw [g2, g3, g4, g5]
        rcases Nat.lt_or_ge j m with hj | hj
        · have hne : s.indexAt p d j ≠ s.indexAt p d m := fun e => by have := indexAt_inj s p d e; omega
          obtain ⟨q1, q2, q3, q4⟩ := h1 j a hj c
          simp only [hne, if_false]
          exact ⟨q1, q2, q3, fun e => by simp [q4 e]⟩
        · have : j = m := by omega
          subst this
          simp
          exact fun e => Or.inr e
      · have hne : i ≠ s.indexAt p d m := fun e => hi m hkm (by omega) hv e.symm
        rw [g2, g3, g4]
        simp only [hne, if_false]
        exact h2 i (fun j a b c => hi j a (by omega) c)
      · rw [hr]
        have := g6 (.port p .duplicates)
        simp only [Counter.port.injEq, reduceCtorEq, and_false, false_and, if_false] at this
        simpa [List.countP_append, hd, State.countedTimes, this] using h3
      · rw [hr]
        have hcount : u.countedIf (u.acceptSlope p d.ctx (s.indexAt p d m) ((s.port p).slopeAt m).toInt)
            (s.correctedAt p d m != s.differenceAt p d m) (.port p .clamped) := by
          have := g6 (.port p .clamped)
          simpa [State.countedIf] using this
        have := countedTimes_step h4 hcount
        simpa [List.countP_append, List.countP_cons, hv] using this
      · simpa using g4 (s.indexAt p d m)

/-! ## Going on with a packet -/

theorem completionTest_spec (s : State) (c : Ix) :
    let t := s.completionTest c
    (∀ x, (t.ctx x).seen = (s.ctx x).seen ∧ (t.ctx x).slopes = (s.ctx x).slopes ∧ (t.ctx x).flags = (s.ctx x).flags
      ∧ (t.ctx x).sums = (s.ctx x).sums ∧ (t.ctx x).state = (s.ctx x).state)
    ∧ t.engine = s.engine ∧ t.arbiter = s.arbiter ∧ t.ports = s.ports ∧ t.events = s.events
    ∧ ∀ k, k ≠ .assembled → t.counter k = s.counter k := by
  unfold State.completionTest
  dsimp only
  split
  · refine ⟨fun x => ?_, rfl, rfl, rfl, rfl, fun k hk => ?_⟩
    · cases c <;> cases x <;> exact ⟨rfl, rfl, rfl, rfl, rfl⟩
    · rw [counter_bump, if_neg hk]; rfl
  · exact ⟨fun x => ⟨rfl, rfl, rfl, rfl, rfl⟩, rfl, rfl, rfl, rfl, fun _ _ => rfl⟩

/-- What the release of a packet leaves (R13). -/
theorem releasePacket_spec (s : State) (p : Ix) (d : Descriptor) :
    let t := s.releasePacket p d
    s.releases t p d
    ∧ (∀ x, (t.ctx x).seen = (s.ctx x).seen ∧ (t.ctx x).slopes = (s.ctx x).slopes ∧ (t.ctx x).flags = (s.ctx x).flags
      ∧ (t.ctx x).sums = (s.ctx x).sums ∧ (t.ctx x).state = (s.ctx x).state)
    ∧ t.engine = s.engine ∧ t.arbiter = s.arbiter ∧ t.events = s.events
    ∧ ∀ k, k ≠ .assembled → t.counter k = s.counter k := by
  have hr : ∀ t : State, t.ports = (s.setPort p ((s.port p).releaseWords d.count)).ports → s.releases t p d := by
    intro t ht
    have : t.port p = (s.port p).releaseWords d.count := by
      exact (congrArg (fun q => q.get p) ht).trans (State_port_setPort s p _)
    exact ⟨by rw [this]; rfl, by rw [this]; rfl⟩
  unfold State.releasePacket
  dsimp only
  split
  · rename_i h
    obtain ⟨c1, c2, c3, c4, c5, c6⟩ := completionTest_spec ((s.setPort p ((s.port p).releaseWords d.count)).setCtx d.ctx
      { (s.setPort p ((s.port p).releaseWords d.count)).ctx d.ctx with
        heldCount := ((s.setPort p ((s.port p).releaseWords d.count)).ctx d.ctx).heldCount.set p
          (((s.setPort p ((s.port p).releaseWords d.count)).ctx d.ctx).heldCount.get p - 1) }) d.ctx
    refine ⟨hr _ c4, fun x => ?_, c2, c3, c5, fun k hk => (c6 k hk).trans rfl⟩
    obtain ⟨e1, e2, e3, e4, e5⟩ := c1 x
    rw [e1, e2, e3, e4, e5]
    cases hd : d.ctx <;> cases x <;> exact ⟨rfl, rfl, rfl, rfl, rfl⟩
  · exact ⟨hr _ rfl, fun x => ⟨rfl, rfl, rfl, rfl, rfl⟩, rfl, rfl, rfl, fun _ _ => rfl⟩

theorem treats_congr {s u t : State} {p : Ix} {d : Descriptor} {k m : Nat} (h : s.treats u p d k m)
    (h1 : (t.ctx d.ctx).seen = (u.ctx d.ctx).seen) (h2 : (t.ctx d.ctx).slopes = (u.ctx d.ctx).slopes)
    (h3 : (t.ctx d.ctx).flags = (u.ctx d.ctx).flags) (h4 : t.engine.hold = u.engine.hold)
    (h5 : ∀ k, k ≠ .assembled → t.counter k = u.counter k) : s.treats t p d k m := by
  unfold State.treats State.countedTimes Context.hasFlag at *
  rw [h1, h2, h3, h4, h5 _ (by simp), h5 _ (by simp)]
  exact h

/-- The bursts of a column that join their queue, as the model's own operations make them. -/
theorem columnBursts_eq (s : State) (c : Ix) (i : Nat) :
    columnBursts c (s.ctx c).bank i s.params.actuators = s.columnOf c i := by
  unfold columnBursts State.columnOf segmentCount segmentLength segmentAddress bankBase
  simp [Config.bankBytes, Config.columnStride, Config.segmentSize]
  intro a _; congr

/-- A grant where the DRAM is idle puts the next burst in progress, and does nothing else to the arbiter (R58). -/
theorem arbiter_grantDram (s : State) :
    s.grantDram.arbiter = if s.arbiter.inProgress.isSome then s.arbiter else s.arbiter.completed := by
  unfold State.grantDram
  generalize ha : s.arbiter = a
  cases a with
  | mk q1 q2 q3 q4 q5 b =>
    cases b with
    | some b => simp [ha]
    | none =>
      cases q1 <;> cases q2 <;> cases q3 <;> cases q4 <;> cases q5 <;> simp [Arbiter.takeNext, Arbiter.completed, ha]

theorem push_column (bs : List Burst) (a : Arbiter) (h : ∀ b ∈ bs, b.job.isColumn = true) :
    bs.foldl Arbiter.push a = { a with columnFetch := a.columnFetch ++ bs } := by
  induction bs generalizing a with
  | nil => simp
  | cons b bs ih =>
    have hb : a.push b = { a with columnFetch := a.columnFetch ++ [b] } := by
      have := h b (by simp)
      unfold Arbiter.push
      cases hj : b.job <;> simp [hj, BurstJob.isColumn] at this ⊢
    rw [List.foldl_cons, hb, ih _ (fun x hx => h x (by simp [hx]))]
    simp

/-- What the fetch of a column leaves (R52): its bursts have joined their queue and the pass is in hand. -/
theorem startColumn_spec (s : State) (c : Ix) (i : Nat) (v : Int) :
    let t := s.startColumn c i v
    t.arbiter = s.arbiter.joinedBy (s.columnOf c i) ∧ t.engine = { s.engine with pass := some ⟨c, i, v⟩ } ∧ t.frames = s.frames
    ∧ t.ports = s.ports ∧ t.params = s.params ∧ t.events = s.events ∧ t.counters = s.counters := by
  have hc : ∀ b ∈ s.columnOf c i, b.job.isColumn = true := by
    intro b hb
    simp only [State.columnOf, List.mem_map] at hb
    obtain ⟨g, _, rfl⟩ := hb
    rfl
  dsimp only
  unfold State.startColumn
  dsimp only
  rw [columnBursts_eq]
  unfold State.queueBursts
  refine ⟨?_, by simp, by simp, by simp, by simp, by simp, by simp⟩
  rw [arbiter_grantDram]
  simp only [State_arbiter_setArbiter, push_column _ _ hc]
  rfl

/-- What the engine makes of a packet in hand from slope `m` on, the slopes from `k` to `m` having been treated (R13, R15, R52). -/
theorem continuePacket_goesOn {s : State} {a : Arbiter} {p : Ix} {d : Descriptor} {k : Nat} (n m : Nat) (u : State)
    (hkm : k ≤ m) (hn : m + n = d.count) (har : u.arbiter = a) (hg : s.SameGround u d.ctx) (h : s.treats u p d k m)
    (hf : ∀ x, k ≤ x → x < m → s.fetchedAt p d x = false) :
    s.goesOn (u.continuePacket p d m n) a p d k := by
  induction n generalizing m u with
  | zero =>
    have hm : m = d.count := by omega
    subst hm
    obtain ⟨r1, r2, r3, r4, _, r6⟩ := releasePacket_spec { u with engine := { u.engine with work := .idle } } p d
    refine .inr ⟨hf, ?_, ?_, ?_, ?_⟩
    · exact treats_congr h (r2 _).1 (r2 _).2.1 (r2 _).2.2.1 (by rw [State.continuePacket, r3]) r6
    · rw [State.continuePacket, r3]
    · rw [State.continuePacket, r4]; exact har
    · have hp : (State.port { u with engine := { u.engine with work := .idle } } p) = s.port p :=
        congrArg (fun q => q.get p) hg.ports
      unfold State.releases at r1 ⊢
      rwa [hp] at r1
  | succ n ih =>
    obtain ⟨g1, g2, g3⟩ := treats_step hkm hg h
    have har' : (u.treatSlope p d m).2.arbiter = a := ((treatSlope_moves u p d m).frame .arbiter (by decide)).symm.trans har
    have hfe : s.fetchedAt p d m = true ↔ ((u.treatSlope p d m).1 ≠ 0 ∧ (u.treatSlope p d m).2.fetches d.ctx = true) := by
      rw [g3, g1.fetches, State.fetchedAt]
      cases hv : s.validAt p d m <;> simp
    unfold State.continuePacket
    dsimp only
    by_cases hm : s.fetchedAt p d m = true
    · rw [if_pos (hfe.mp hm)]
      have hv : s.validAt p d m = true := by
        simp only [State.fetchedAt, Bool.and_eq_true] at hm; exact hm.1.1
      rw [hv, if_pos rfl] at g3
      generalize hw : ({ (u.treatSlope p d m).2 with engine := { (u.treatSlope p d m).2.engine with work := .packet p d (m + 1) } } : State) = w
      have hgw : s.SameGround w d.ctx := g1.trans (by subst hw; exact ⟨rfl, rfl, rfl, rfl, rfl, rfl⟩)
      have haw : w.arbiter = a := by subst hw; exact har'
      have htw : s.treats w p d k (m + 1) := by subst hw; exact treats_congr g2 rfl rfl rfl rfl (fun _ _ => rfl)
      have hi : u.localIndex p (d.first + m) = s.indexAt p d m := indexAt_congr hg.ports p d m
      rw [g3, hi]
      obtain ⟨c1, c2, c3, c4, _, _, c7⟩ := startColumn_spec w d.ctx (s.indexAt p d m) (s.correctedAt p d m)
      refine .inl ⟨m, hkm, by omega, hm, hf, ?_, ?_, ?_, ?_, ?_⟩
      · refine treats_congr htw ?_ ?_ ?_ (by rw [c2]) (fun k _ => counter_congr c7 k)
        all_goals (unfold State.ctx; rw [c3])
      · rw [c2]; subst hw; rfl
      · rw [c2]
      · rw [c1, haw, hgw.columnOf]
      · rw [c4, hgw.ports]
    · rw [if_neg (fun h => hm (hfe.mpr h))]
      refine ih (m + 1) _ (by omega) (by omega) har' g1 g2 (fun x hx hxm => ?_)
      rcases Nat.lt_or_ge x m with h | h
      · exact hf x hx h
      · have : x = m := by omega
        subst this; simpa using hm

/-! ## Going on with a job -/

theorem ownerOf_congr {s u : State} (h : u.ports = s.ports) (j : Nat) : u.ownerOf j = s.ownerOf j := by
  unfold State.ownerOf State.port; rw [h]

theorem fillOf_eq (s : State) (i : Nat) :
    s.fillOf i = if s.heldAt i = true then .held else if s.lostAt i = true then .lost else .zero := by
  unfold State.fillOf State.heldAt State.lostAt
  dsimp only
  cases (s.port (s.ownerOf i)).state <;> cases (s.port (s.ownerOf i)).config.policy <;>
    by_cases h : (s.holdEntry i).age < (s.port (s.ownerOf i)).config.holdLimit <;> simp [h]

theorem not_held_and_lost (s : State) (i : Nat) (h : s.heldAt i = true) : s.lostAt i = false := by
  unfold State.heldAt State.lostAt at *
  simp only [Bool.and_eq_true, decide_eq_true_eq] at h
  simp; omega

/-- What one substitution makes of the state (R17, R18). -/
theorem substitute_spec (s : State) (c : Ix) (i : Nat) :
    let t := (s.substitute c i).2
    s.SameGround t c ∧ (s.substitute c i).1 = (if s.heldAt i = true then (s.holdEntry i).value else 0)
    ∧ (t.ctx c).seen = (s.ctx c).seen ∧ (t.ctx c).state = (s.ctx c).state
    ∧ (∀ n, (t.ctx c).slopes.get n =
        if n = i then (if s.heldAt i = true then (s.holdEntry i).value else 0) else (s.ctx c).slopes.get n)
    ∧ (∀ f, (t.ctx c).hasFlag f =
        ((s.ctx c).hasFlag f || (s.heldAt i && f == .slopesSubstituted) || (s.lostAt i && f == .slopesLost)))
    ∧ (∀ n, t.engine.hold.get n =
        if n = i ∧ s.heldAt i = true then some ⟨(s.holdEntry i).value, (s.holdEntry i).age + 1⟩ else s.engine.hold.get n)
    ∧ ∀ q, s.countedIf t (s.ownerOf i == q && s.heldAt i) (.port q .substituted)
      ∧ s.countedIf t (s.ownerOf i == q && s.lostAt i) (.port q .lost)
      ∧ s.countedIf t (s.ownerOf i == q && (!s.heldAt i && !s.lostAt i)) (.port q .missing) := by
  dsimp only
  by_cases hh : s.heldAt i = true
  · have hl := not_held_and_lost s i hh
    have ht : s.substitute c i = ((s.holdEntry i).value,
        { ((s.setCtx c { (s.ctx c).addFlag .slopesSubstituted with slopes := (s.ctx c).slopes.set i (s.holdEntry i).value }).bump
            (.port (s.ownerOf i) .substituted)) with
          engine := { s.engine with hold := s.engine.hold.set i (some ⟨(s.holdEntry i).value, (s.holdEntry i).age + 1⟩) } }) := by
      unfold State.substitute; rw [fillOf_eq, if_pos hh]; rfl
    have hc : (s.substitute c i).2.ctx c = { (s.ctx c).addFlag .slopesSubstituted with
        slopes := (s.ctx c).slopes.set i (s.holdEntry i).value } := by rw [ht]; cases c <;> rfl
    have hf : ∀ f, ((s.substitute c i).2.ctx c).hasFlag f = ((s.ctx c).hasFlag f || f == .slopesSubstituted) := by
      intro f; rw [← hasFlag_addFlag, hc]; rfl
    have hk : ∀ n, (s.substitute c i).2.counter n = if n = .port (s.ownerOf i) .substituted then
        min (s.counter (.port (s.ownerOf i) .substituted) + 1) Config.counterMax else s.counter n := by
      intro n; rw [ht]; exact counter_bump (s.setCtx c _) _ n
    refine ⟨⟨by rw [ht]; rfl, by rw [ht], by rw [ht]; rfl, by rw [ht]; rfl, by simp [Context.isCorrupt, hf],
      by rw [hc]; rfl⟩, by rw [ht, if_pos hh], by rw [hc]; rfl, by rw [hc]; rfl, ?_, ?_, ?_, ?_⟩
    · intro n; rw [hc, if_pos hh]; exact Table_get_set _ _ _ _
    · intro f; rw [hf, hh, hl]; simp
    · intro n; rw [ht]; simp only [hh, and_true]; exact Table_get_set _ _ _ _
    · intro q; simp only [State.countedIf, hk, hh, hl]; cases s.ownerOf i <;> cases q <;> simp
  · have hh' : s.heldAt i = false := by simpa using hh
    by_cases hl : s.lostAt i = true
    · have ht : s.substitute c i = (0, (s.setCtx c { (s.ctx c).addFlag .slopesLost with slopes := (s.ctx c).slopes.set i 0 }).bump
          (.port (s.ownerOf i) .lost)) := by unfold State.substitute; rw [fillOf_eq, if_neg hh, if_pos hl]
      have hc : (s.substitute c i).2.ctx c = { (s.ctx c).addFlag .slopesLost with slopes := (s.ctx c).slopes.set i 0 } := by
        rw [ht]; exact State_ctx_setCtx _ _ _
      have hf : ∀ f, ((s.substitute c i).2.ctx c).hasFlag f = ((s.ctx c).hasFlag f || f == .slopesLost) := by
        intro f; rw [← hasFlag_addFlag, hc]; rfl
      have hk : ∀ n, (s.substitute c i).2.counter n = if n = .port (s.ownerOf i) .lost then
          min (s.counter (.port (s.ownerOf i) .lost) + 1) Config.counterMax else s.counter n := by
        intro n; rw [ht]; exact counter_bump (s.setCtx c _) _ n
      refine ⟨⟨by rw [ht]; rfl, by rw [ht]; rfl, by rw [ht]; rfl, by rw [ht]; rfl, by simp [Context.isCorrupt, hf],
        by rw [hc]; rfl⟩, by rw [ht, if_neg hh], by rw [hc]; rfl, by rw [hc]; rfl, ?_, ?_, ?_, ?_⟩
      · intro n; rw [hc, if_neg hh]; exact Table_get_set _ _ _ _
      · intro f; rw [hf, hh', hl]; simp
      · intro n; rw [ht]; simp [hh']
      · intro q; simp only [State.countedIf, hk, hh', hl]; cases s.ownerOf i <;> cases q <;> simp
    · have hl' : s.lostAt i = false := by simpa using hl
      have ht : s.substitute c i = (0, (s.setCtx c { s.ctx c with slopes := (s.ctx c).slopes.set i 0 }).bump
          (.port (s.ownerOf i) .missing)) := by unfold State.substitute; rw [fillOf_eq, if_neg hh, if_neg hl]
      have hc : (s.substitute c i).2.ctx c = { s.ctx c with slopes := (s.ctx c).slopes.set i 0 } := by
        rw [ht]; exact State_ctx_setCtx _ _ _
      have hk : ∀ n, (s.substitute c i).2.counter n = if n = .port (s.ownerOf i) .missing then
          min (s.counter (.port (s.ownerOf i) .missing) + 1) Config.counterMax else s.counter n := by
        intro n; rw [ht]; exact counter_bump (s.setCtx c _) _ n
      refine ⟨⟨by rw [ht]; rfl, by rw [ht]; rfl, by rw [ht]; rfl, by rw [ht]; rfl, by rw [hc]; rfl,
        by rw [hc]⟩, by rw [ht, if_neg hh], by rw [hc], by rw [hc], ?_, ?_, ?_, ?_⟩
      · intro n; rw [hc, if_neg hh]; exact Table_get_set _ _ _ _
      · intro f; rw [hc, hh', hl']; simp [Context.hasFlag]
      · intro n; rw [ht]; simp [hh']
      · intro q; simp only [State.countedIf, hk, hh', hl']; cases s.ownerOf i <;> cases q <;> simp

/-- What the visit of one index makes of a state in which the indices before it have been visited (R17). -/
theorem fills_step {s u : State} {c : Ix} {i m : Nat} (him : i ≤ m) (hg : s.SameGround u c) (ha : s.ages u c i m)
    (hf : s.fills u c i m) (hst : (u.ctx c).state = (s.ctx c).state) :
    ((s.ctx c).seen.get m = true → s.ages u c i (m + 1) ∧ s.fills u c i (m + 1))
    ∧ ((s.ctx c).seen.get m = false →
      s.SameGround (u.substitute c m).2 c ∧ s.ages (u.substitute c m).2 c i (m + 1) ∧ s.fills (u.substitute c m).2 c i (m + 1)
      ∧ ((u.substitute c m).2.ctx c).state = (s.ctx c).state
      ∧ (u.substitute c m).1 = if s.heldAt m = true then (s.holdEntry m).value else 0) := by
  obtain ⟨f1, f2, f3, f4⟩ := hf
  have hr : List.range' i (m + 1 - i) = List.range' i (m - i) ++ [m] := by
    rw [show m + 1 - i = (m - i) + 1 by omega, List.range'_concat]
    simp [show i + (m - i) = m by omega]
  constructor
  · intro hs
    have hiff : ∀ j, (i ≤ j ∧ j < m + 1 ∧ (s.ctx c).seen.get j = false) ↔ (i ≤ j ∧ j < m ∧ (s.ctx c).seen.get j = false) := by
      intro j
      by_cases hj : j = m
      · subst hj; simp [hs]
      · constructor <;> rintro ⟨a, b, d⟩ <;> exact ⟨a, by omega, d⟩
    refine ⟨fun j => ?_, f1, fun j => ?_, fun j a b d => ?_, fun q => ?_⟩
    · simp only [hiff]; exact ha j
    · simp only [hiff]; exact f2 j
    · have := (hiff j).mp ⟨a, b, d⟩; exact f3 j this.1 this.2.1 this.2.2
    · have : ∀ f : Nat → Bool, s.unseenCount c q f i (m + 1) = s.unseenCount c q f i m := by
        intro f; unfold State.unseenCount; rw [hr]; simp [List.countP_append, hs]
      simp only [this]; exact f4 q
  · intro hs
    have hown : ∀ j, u.ownerOf j = s.ownerOf j := ownerOf_congr hg.ports
    have hport : ∀ p, u.port p = s.port p := fun p => by simp [State.port, hg.ports]
    have hent : u.holdEntry m = s.holdEntry m := by
      unfold State.holdEntry; rw [hown, hport, ha m]; simp
    have hheld : u.heldAt m = s.heldAt m := by unfold State.heldAt; rw [hown, hport, hent]
    have hlost : u.lostAt m = s.lostAt m := by unfold State.lostAt; rw [hown, hport, hent]
    obtain ⟨g0, g1, g2, g3, g4, g5, g6, g7⟩ := substitute_spec u c m
    rw [hheld, hent] at g1 g4 g6
    rw [hheld, hlost] at g5
    simp only [hown, hheld, hlost] at g7
    have hiff : ∀ j, (i ≤ j ∧ j < m + 1 ∧ (s.ctx c).seen.get j = false) ↔
        (j = m ∨ (i ≤ j ∧ j < m ∧ (s.ctx c).seen.get j = false)) := by
      intro j
      by_cases hj : j = m
      · subst hj; simp [hs, him]
      · simp only [hj, false_or]; constructor <;> rintro ⟨a, b, d⟩ <;> exact ⟨a, by omega, d⟩
    have hun : ∀ (q : Ix) (f : Nat → Bool), s.unseenCount c q f i (m + 1)
        = s.unseenCount c q f i m + if (s.ownerOf m == q && f m) = true then 1 else 0 := by
      intro q f; unfold State.unseenCount; rw [hr]
      simp [List.countP_append, hs, List.countP_cons]
    refine ⟨hg.trans g0, fun j => ?_, ⟨g2.trans f1, fun j => ?_, fun j a b d => ?_, fun q => ?_⟩, g3.trans hst, g1⟩
    · rw [g6, ha j]; simp only [hiff]
      by_cases hj : j = m
      · subst hj; by_cases hh : s.heldAt j = true <;> simp [hh]
      · simp [hj]
    · rw [g4, f2 j]; simp only [hiff]
      by_cases hj : j = m <;> simp [hj]
    · rw [g5, g5]
      by_cases hj : j = m
      · subst hj; refine ⟨fun h => by simp [h], fun h => by simp [h]⟩
      · obtain ⟨k1, k2⟩ := f3 j a (by omega) d
        exact ⟨fun h => by simp [k1 h], fun h => by simp [k2 h]⟩
    · obtain ⟨k1, k2, k3⟩ := f4 q
      obtain ⟨l1, l2, l3⟩ := g7 q
      rw [hun, hun, hun]
      exact ⟨countedTimes_step k1 l1, countedTimes_step k2 l2, countedTimes_step k3 l3⟩

/-- A context that becomes ACCUMULATED and waits for its first segment stays as it is otherwise (R34, R81). -/
theorem accumulated_awaits (s : State) (c : Ix) (h : s.awaitsSegments c) :
    let t := s.accumulated c
    t.ctx c = { s.ctx c with state := .accumulated, job := .ended, storedOrder := [] } ∧ t.engine = s.engine
    ∧ t.arbiter = s.arbiter ∧ t.counters = s.counters := by
  obtain ⟨h1, h2, h3, h4, h5⟩ := h
  have hm : ∀ u : State, u.params = s.params → (u.ctx c).slots.get 0 = .empty → u.allMerged c = false := by
    intro u hp hs
    unfold State.allMerged State.segments
    rw [hp, List.all_eq_false]
    refine ⟨0, ?_, by simp [hs]⟩
    simp [segmentCount, ceilDiv, Config.segmentSize]; omega
  have key : s.accumulated c = (s.setCtx c { s.ctx c with state := .accumulated, job := .ended }).setCtx c
      { s.ctx c with state := .accumulated, job := .ended, storedOrder := [] } := by
    unfold State.accumulated State.afterAccumulated
    simp only [State_setCtx_params, h1, State_ctx_setCtx, h3, Bool.false_eq_true, if_false, State.mergeAllStored, h4,
      State.mergeStored]
    rw [if_neg]
    rw [Bool.not_eq_true]
    exact hm _ rfl (by rw [State_ctx_setCtx]; exact h5)
  dsimp only
  rw [key]
  exact ⟨State_ctx_setCtx _ _ _, rfl, rfl, rfl⟩

/-- What the engine makes of a job in hand from index `m` on, the indices from `i` to `m` having been visited (R17, R52). -/
theorem continueJob_goesOn {s : State} {a : Arbiter} {c : Ix} {i : Nat} (n m : Nat) (u : State) (him : i ≤ m)
    (hn : m + n = s.slopeTotal) (har : u.arbiter = a)
    (hg : s.SameGround u c) (ha : s.ages u c i m) (hf : s.fills u c i m) (hst : (u.ctx c).state = (s.ctx c).state)
    (hw : s.awaitsSegments c → u.awaitsSegments c) (hx : ∀ x, i ≤ x → x < m → s.fillFetchedAt c x = false) :
    s.goesOnFilling (u.continueJob c m n) a c i := by
  induction n generalizing m u with
  | zero =>
    have hm : m = s.slopeTotal := by omega
    subst hm
    have hmv := accumulated_moves { u with engine := { u.engine with work := .idle } } c
    have he := hmv.frame .engine (by decide)
    have hh := hmv.frame .hold (by decide)
    simp only [Part.same, Prod.mk.injEq] at he hh
    refine .inr ⟨hx, ⟨fun j => ?_, ?_, fun haw => ?_⟩, fun haw => ?_⟩
    · rw [State.continueJob, ← hh]; exact ha j
    · rw [State.continueJob, ← he.2.1]
    · obtain ⟨a1, a2, a3, a4⟩ := accumulated_awaits { u with engine := { u.engine with work := .idle } } c (hw haw)
      rw [State.continueJob]
      refine ⟨?_, by rw [a1], by rw [a1]⟩
      unfold State.fills Context.hasFlag State.countedTimes State.counter at *
      rw [a1, a4]
      exact hf
    · obtain ⟨a1, a2, a3, a4⟩ := accumulated_awaits { u with engine := { u.engine with work := .idle } } c (hw haw)
      rw [State.continueJob, a3]; exact har
  | succ n ih =>
    obtain ⟨g1, g2⟩ := fills_step him hg ha hf hst
    have hseen : (u.ctx c).seen.get m = (s.ctx c).seen.get m := by rw [hf.1]
    have hnext : s.fillFetchedAt c m = false → ∀ x, i ≤ x → x < m + 1 → s.fillFetchedAt c x = false := by
      intro h x a b
      rcases Nat.lt_or_ge x m with hl | hl
      · exact hx x a hl
      · have : x = m := by omega
        subst this; exact h
    unfold State.continueJob
    by_cases hs : (s.ctx c).seen.get m = true
    · rw [if_pos (hseen.trans hs)]
      obtain ⟨k1, k2⟩ := g1 hs
      exact ih (m + 1) u (by omega) (by omega) har hg k1 k2 hst hw (hnext (by simp [State.fillFetchedAt, hs]))
    · have hs' : (s.ctx c).seen.get m = false := by simpa using hs
      rw [if_neg (by rw [hseen]; exact hs)]
      obtain ⟨k0, k1, k2, k3, k4⟩ := g2 hs'
      have har' : (u.substitute c m).2.arbiter = a := ((substitute_moves u c m).frame .arbiter (by decide)).symm.trans har
      have hfe : s.fillFetchedAt c m = true ↔ ((u.substitute c m).1 ≠ 0 ∧ (u.substitute c m).2.fetches c = true) := by
        rw [k4, k0.fetches, State.fillFetchedAt]
        cases s.heldAt m <;> simp [hs']
      dsimp only
      by_cases hm : s.fillFetchedAt c m = true
      · rw [if_pos (hfe.mp hm)]
        have hheld : s.heldAt m = true := by
          simp only [State.fillFetchedAt, Bool.and_eq_true] at hm; exact hm.1.1.2
        rw [hheld, if_pos rfl] at k4
        generalize hv : ({ (u.substitute c m).2 with engine := { (u.substitute c m).2.engine with work := .job c (m + 1) } } : State) = v
        have hgv : s.SameGround v c := k0.trans (by subst hv; exact ⟨rfl, rfl, rfl, rfl, rfl, rfl⟩)
        have hrv : v.arbiter = a := by subst hv; exact har'
        have hav : s.ages v c i (m + 1) := by subst hv; exact k1
        have hfv : s.fills v c i (m + 1) := by subst hv; exact k2
        have hsv : (v.ctx c).state = (s.ctx c).state := by subst hv; exact k3
        rw [k4]
        obtain ⟨c1, c2, c3, c4, _, _, c7⟩ := startColumn_spec v c m (s.holdEntry m).value
        refine .inl ⟨m, him, by omega, hm, hx, fun j => ?_, ?_, ?_, ?_, ?_, ?_⟩
        · rw [c2]; exact hav j
        · unfold State.fills State.countedTimes State.counter State.ctx at *; rw [c3, c7]; exact hfv
        · rw [c2]; subst hv; rfl
        · rw [c2]
        · rw [c1, hrv, hgv.columnOf]
        · unfold State.ctx at *; rw [c3]; exact hsv
      · rw [if_neg (fun h => hm (hfe.mpr h))]
        refine ih (m + 1) _ (by omega) (by omega) har' k0 k1 k2 k3 (fun haw => ?_) (hnext (by simpa using hm))
        obtain ⟨w1, w2, w3, w4, w5⟩ := hw haw
        have hk : ((u.substitute c m).2.ctx c).deliveryPending = (u.ctx c).deliveryPending
            ∧ ((u.substitute c m).2.ctx c).storedOrder = (u.ctx c).storedOrder
            ∧ ((u.substitute c m).2.ctx c).slots = (u.ctx c).slots ∧ (u.substitute c m).2.params = u.params := by
          unfold State.substitute
          dsimp only
          split <;> cases c <;> exact ⟨rfl, rfl, rfl, rfl⟩
        exact ⟨by rw [hk.2.2.2]; exact w1, by rw [hk.2.2.2]; exact w2, by rw [hk.1]; exact w3, by rw [hk.2.1]; exact w4,
          by rw [hk.2.2.1]; exact w5⟩

/-! ## A checked read (R39) -/

/-- Raising another event leaves MATRIX_UNCORRECTABLE as it was (R190). -/
theorem latched_raise (s : State) (e : Event) (he : e ≠ .matrixUncorrectable) :
    (s.raise e).isPending .matrixUncorrectable = s.isPending .matrixUncorrectable := by
  have hrep : ∀ t : State, t.reportTest.isPending .matrixUncorrectable = t.isPending .matrixUncorrectable := by
    intro t
    rcases isPending_reportTest t .matrixUncorrectable with h | ⟨hf, _⟩
    · exact h
    · simp [hasEvent, fatalSet, Event.bit] at hf
  have hset : ∀ (t : State) (f : Event), f ≠ .matrixUncorrectable → (t.setPending f).isPending .matrixUncorrectable = t.isPending .matrixUncorrectable := by
    intro t f hf
    simp [State.isPending, State.setPending, hasEvent_or, hasEvent_single]
    intro h; exact absurd h.symm hf
  have hjoin : ∀ (t : State) (f : Event), (t.joinLaterCauses f).isPending .matrixUncorrectable = t.isPending .matrixUncorrectable := by
    intro t f; unfold State.isPending; simp
  have htrig : ∀ (t : State) (f : Event), (t.triggerCapture f).isPending .matrixUncorrectable = t.isPending .matrixUncorrectable := by
    intro t f; unfold State.triggerCapture; dsimp only
    split
    · split
      · rw [hset _ _ (by decide)]; rfl
      · rfl
    · rfl
  unfold State.raise; dsimp only
  rw [hrep]
  split
  · exact hset _ _ he
  · rw [htrig, hjoin, hset _ _ he]

/-- What the correction of single-bit errors leaves. -/
theorem correct_spec (n : Nat) (s : State) (k : Counter) :
    let t := s.correct k n
    t.ports = s.ports ∧ t.engine = s.engine ∧ t.params = s.params ∧ t.arbiter = s.arbiter ∧ t.frames = s.frames
    ∧ t.isPending .matrixUncorrectable = s.isPending .matrixUncorrectable ∧ t.dram = s.dram
    ∧ ∀ q, q ≠ k → q ≠ .controlOverflow → q ≠ .eventFrames → q ≠ .triggers → t.counter q = s.counter q := by
  induction n generalizing s with
  | zero => exact ⟨rfl, rfl, rfl, rfl, rfl, rfl, rfl, fun _ _ _ _ _ => rfl⟩
  | succ n ih =>
    obtain ⟨a, b, c, d, e, f, g, h⟩ := ih ((s.bump k).raise .matrixCorrected)
    unfold State.correct
    refine ⟨by rw [a]; simp, by rw [b]; simp, by rw [c]; simp, by rw [d]; simp, by rw [e]; simp, by rw [f, latched_raise _ _ (by decide)]; rfl, by rw [g]; simp, fun q h1 h2 h3 h4 => ?_⟩
    rw [h q h1 h2 h3 h4, counter_raise _ _ h2 h3 h4, counter_bump, if_neg h1]

/-- What the check of a read leaves, for a burst of any requester. -/
theorem checkRead_spec (s : State) (b : Burst) :
    let t := s.checkRead b
    t.ports = s.ports ∧ t.engine = s.engine ∧ t.params = s.params ∧ t.arbiter = s.arbiter ∧ t.frames = s.frames
    ∧ t.isPending .matrixUncorrectable = s.isPending .matrixUncorrectable ∧ t.dram = s.dram
    ∧ ∀ p (q : PortCounter), t.counter (.port p q) = s.counter (.port p q) := by
  obtain ⟨a1, a2, a3, a4, a5, a6, a7, a8⟩ := correct_spec ((codewordsOf b.address b.length).countP (fun k => s.dram.errors.get k == .single)) s (placeOf b.address).correctedCounter
  have hne : ∀ p (q : PortCounter), Counter.port p q ≠ (placeOf b.address).correctedCounter := by
    intro p q; cases placeOf b.address <;> simp [DramPlace.correctedCounter]
  unfold State.checkRead
  dsimp only
  split
  · unfold State.noteUncorrectable
    cases hk : b.job.uncorrectableCounter? with
    | none => exact ⟨a1, a2, a3, a4, a5, a6, a7, fun p q => a8 _ (hne p q) (by simp) (by simp) (by simp)⟩
    | some c =>
      refine ⟨a1, a2, a3, a4, a5, a6, a7, fun p q => ?_⟩
      have : Counter.port p q ≠ c := by
        rintro rfl; cases hj : b.job <;> simp [hj, BurstJob.uncorrectableCounter?] at hk
      refine (counter_bump _ c (.port p q)).trans ?_
      rw [if_neg this]; exact a8 _ (hne p q) (by simp) (by simp) (by simp)
  · exact ⟨a1, a2, a3, a4, a5, a6, a7, fun p q => a8 _ (hne p q) (by simp) (by simp) (by simp)⟩

/-- Whatever was in progress, the burst that follows is the same. -/
theorem completed_idle (a : Arbiter) (b : Option Burst) : Arbiter.completed { a with inProgress := b } = a.completed := by
  obtain ⟨q1, q2, q3, q4, q5, i⟩ := a
  cases q1 <;> cases q2 <;> cases q3 <;> cases q4 <;> cases q5 <;> rfl

end Sys2Proof.Machine
end

