-- ==== Sys2Proof/Laws/MovesCommands.lean ====
section
/-! SUPPORT. What the operations of Machine/Timers.lean, Machine/Bursts.lean, Machine/Trunk.lean, Machine/MirrorLink.lean,
Machine/Requests.lean and of the request files can do (see Laws/Moves.lean). -/

-- One theorem after the other, so that checking the whole package keeps to few threads.
set_option Elab.async false

namespace Sys2Proof.Machine

/-! ## Timers -/

theorem timebase_moves (s : State) (t : Time) : Moves [.timebase] s { s with frames := { s.frames with timebase := t } } :=
  .of_frame rfl (fun p hp => by cases p <;> first | exact absurd (by decide) hp | rfl)

theorem advanceTo_moves (s : State) (t : Time) : Moves [.timebase] s (s.advanceTo t) := by
  unfold State.advanceTo
  exact Moves.ite (fun _ => .refl _ _) (fun _ => timebase_moves _ _)

theorem assemblyExpires_moves (s : State) (c : Ix) : Moves [.contexts, .jobs, .counters] s (s.assemblyExpires c) := by
  unfold State.assemblyExpires
  dsimp only
  exact Moves.ite (fun _ => (bump_moves _ _).after ((queueJob_moves _ _).after (setCtx_moves _ _ _).widen))
    (fun _ => (setCtx_moves _ _ _).widen)

theorem deliveryExpires_moves (s : State) (c : Ix) : Moves finishParts s (s.deliveryExpires c) := by
  unfold State.deliveryExpires
  dsimp only
  split
  · exact (bump_moves _ _).after (setCtx_moves _ _ _).widen
  · exact (forcedMerge_moves _ _ _).after ((bump_moves _ _).after (setCtx_moves _ _ _).widen)
  · exact (forcedMerge_moves _ _ _).after ((bump_moves _ _).after (setCtx_moves _ _ _).widen)
  · exact (setCtx_moves _ _ _).widen
  · exact (setCtx_moves _ _ _).widen

theorem refreshPark_moves (s : State) : Moves [.loop, .mirror, .counters, .lastOutputs] s s.refreshPark := by
  unfold State.refreshPark
  dsimp only
  refine Moves.after
    (loopOnly_moves _ _ (by rfl) (by rfl) (by rfl) (fun h => h.badFrames) (fun h => h.satRun)) ?_
  exact (buildShape_moves _).widen

/-- The parts that a starvation may change. -/
abbrev starveParts : List Part :=
  [.loop, .queues, .counters, .events, .snapshot, .capture, .actuators, .gains, .overrides, .slaves, .pairs, .openShape,
   .actuatorQueue, .effective]

theorem starve_moves (s : State) (h : s.loop.state ≠ .safe) : Moves starveParts s s.starve := by
  unfold State.starve
  dsimp only
  refine (drainActuator_moves _ _).after ((bump_moves _ _).after ((raise_moves _ _).after ?_))
  have h1 := loopOnly_moves s { s.loop with state := .held, starvation := none } rfl rfl
    (by cases k : s.loop.state <;> simp_all) (fun h => h.badFrames) (fun h => h.satRun)
  exact h1.widen

theorem withdrawExecution_moves (s : State) (e : Execution) :
    Moves [.arbiter, .requests, .queues, .counters] s (s.withdrawExecution e) := by
  unfold State.withdrawExecution
  dsimp only
  exact (respond_moves _ _ _ _ _).after ((bumpIf_moves _ _ _).after ((bump_moves _ _).after ((leaveExecution_moves _).after
    (withdraw_moves _ _).widen)))

theorem stagedTimedOut_moves {α : Type} (s : State) (e : StagedEntry α) :
    Moves [.queues, .counters] s (s.stagedTimedOut e) := (respond_moves _ _ _ _ _).after (bump_moves _ _).widen

theorem takeSoonest_spec {α : Type} {now : Time} {f : α → Time} {xs : List α} {y : α} {ys : List α}
    (h : takeSoonest now f xs = some (y, ys)) : xs.length = ys.length + 1 ∧ ∀ x ∈ ys, x ∈ xs := by
  induction xs generalizing y ys with
  | nil => cases h
  | cons x xs ih =>
    unfold takeSoonest at h
    split at h
    · rename_i hn
      cases h
      cases xs with
      | nil => simp
      | cons z zs =>
        exfalso
        unfold takeSoonest at hn
        split at hn
        · cases hn
        · split at hn <;> cases hn
    · rename_i z zs hz
      have := ih hz
      split at h <;> cases h
      · refine ⟨by simp; omega, fun w hw => ?_⟩
        rcases List.mem_cons.mp hw with rfl | hw
        · simp
        · exact List.mem_cons_of_mem _ (this.2 w hw)
      · exact ⟨by simp, fun w hw => List.mem_cons_of_mem _ hw⟩

/-- A staged queue loses entries. -/
theorem slopeQueue_moves (s : State) (q : List (StagedEntry SlopeWrite)) (hq : s.Inv → q.length ≤ Config.stagedCapacity) :
    Moves [.slopeQueue] s { s with mgmt := { s.mgmt with slopeQueue := q } } where
  frame p hp := by cases p <;> first | exact absurd (by decide) hp | rfl
  inv h := { h with slopeQueue := hq h }
  rise _ _ := Nat.le_refl _

/-- The actuator-side queue replaced by one of ordered entries. -/
theorem actuatorQueue_moves (s : State) (q : List (StagedEntry ActuatorWrite)) (hq : s.Inv → q.length ≤ Config.stagedCapacity)
    (ho : s.Inv → ∀ e ∈ q, e.write.ordered) : Moves [.actuatorQueue] s { s with mgmt := { s.mgmt with actuatorQueue := q } } where
  frame p hp := by cases p <;> first | exact absurd (by decide) hp | rfl
  inv h := { h with actuatorQueue := hq h, staged := ho h }
  rise _ _ := Nat.le_refl _

/-! ## Bursts -/

theorem pokeArrives_moves (s : State) (b : Burst) : Moves (.lastBad :: pokeParts) s (s.pokeArrives b) := by
  unfold State.pokeArrives
  split
  · exact (grantDram_moves _).widen
  · dsimp only
    refine Moves.ite (fun _ => (grantDram_moves _).widen) (fun _ => ?_)
    have h1 : Moves (.lastBad :: pokeParts) s (s.checkRead b).grantDram :=
      (grantDram_moves _).after (checkRead_moves _ _).widen
    exact Moves.ite (fun _ => (pokeFault_moves _).after h1) (fun _ => (judgeRecord_moves _ _ _).after h1)

/-- The parts that the end of a request's burst may change. -/
abbrev burstParts : List Part :=
  [.queues, .counters, .events, .snapshot, .capture, .lastBad, .arbiter, .requests, .banks]

theorem readEnds_moves (s : State) (e : Execution) (k : List ChosenRecord) : Moves burstParts s (s.readEnds e k) := by
  unfold State.readEnds
  dsimp only
  refine (bumpBy_moves _ _ _).after (Moves.after (capture_moves _ _ (by rfl)) ?_)
  exact (respond_moves _ _ _ _ _).after (leaveExecution_moves _).widen

theorem readFails_moves (s : State) (e : Execution) (u : Nat) (k : List ChosenRecord) :
    Moves burstParts s (s.readFails e u k) := by
  unfold State.readFails
  dsimp only
  refine (bump_moves _ _).after ((bumpBy_moves _ _ _).after (Moves.after (capture_moves _ _ (by rfl)) ?_))
  exact (respond_moves _ _ _ _ _).after (leaveExecution_moves _).widen

theorem telemetryReadBurst_moves (s : State) (b : Burst) : Moves burstParts s (s.telemetryReadBurst b) := by
  unfold State.telemetryReadBurst
  dsimp only
  have h1 : Moves burstParts s (s.checkRead b) := (checkRead_moves _ _).widen
  have h2 : Moves burstParts s (s.checkRead b).grantDram := (grantDram_moves _).after h1
  split
  · rename_i hx
    have hs : (s.checkRead b).grantDram.mgmt.executing.isSome = true := by rw [State_grantDram_executing_isSome, hx]; rfl
    split
    · refine Moves.ite (fun _ => h2) (fun _ => Moves.ite (fun _ => ?_) (fun _ => ?_))
      · exact (readFails_moves _ _ _ _).after ((grantDram_moves _).after ((withdraw_moves _ _).after h1))
      · exact Moves.ite (fun _ => (readEnds_moves _ _ _).after h2) (fun _ => Moves.after (executing_moves _ _ (.inl hs)) h2)
    · exact h2
  · exact h2

theorem loadEnds_moves (s : State) (e : Execution) : Moves [.banks, .requests, .queues, .counters] s (s.loadEnds e) := by
  unfold State.loadEnds
  split
  · dsimp only
    refine (respond_moves _ _ _ _ _).after ((leaveExecution_moves _).after ((bump_moves _ _).after (Moves.widen (qs := [.banks]) ?_)))
    exact setBank_moves _ _ _ (by exact id) (by exact id)
  · exact .refl _ _

theorem readbackEnds_moves (s : State) (e : Execution) (b : Burst) : Moves burstParts s (s.readbackEnds e b) := by
  unfold State.readbackEnds
  dsimp only
  have h1 : Moves burstParts s (s.checkRead b).grantDram.leaveExecution :=
    (leaveExecution_moves _).after ((grantDram_moves _).after (checkRead_moves _ _).widen)
  exact Moves.ite (fun _ => (respond_moves _ _ _ _ _).after h1)
    (fun _ => (respond_moves _ _ _ _ _).after ((bump_moves _ _).after h1))

/-- The parts that the end of a burst that may be a write can change. -/
abbrev storeParts : List Part :=
  [.queues, .counters, .events, .snapshot, .capture, .lastBad, .arbiter, .requests, .banks, .memory, .errors]

theorem pokeTransferBurst_moves (s : State) (e : Execution) (b : Burst) (hx : s.mgmt.executing = some e) :
    Moves storeParts s (s.pokeTransferBurst e b) := by
  unfold State.pokeTransferBurst
  split
  · dsimp only
    have h1 : Moves storeParts s (s.storeBurst b).grantDram := (grantDram_moves _).after (storeBurst_moves _ _).widen
    exact Moves.ite (fun _ => (respond_moves _ _ _ _ _).after ((leaveExecution_moves _).after h1)) (fun _ => h1)
  · dsimp only
    have h1 : Moves storeParts s (s.checkRead b) := (checkRead_moves _ _).widen
    have h2 : Moves storeParts s (s.checkRead b).grantDram := (grantDram_moves _).after h1
    have hs : (s.checkRead b).grantDram.mgmt.executing.isSome = true := by
      have hm := (checkRead_moves s b).frame .requests (by decide)
      simp only [Part.same, Prod.mk.injEq] at hm
      rw [State_grantDram_executing_isSome, ← hm.2, hx]; rfl
    refine Moves.ite (fun _ => ?_) (fun _ => Moves.ite (fun _ => ?_) (fun _ => Moves.after (executing_moves _ _ (.inl hs)) h2))
    · exact (respond_moves _ _ _ _ _).after ((leaveExecution_moves _).after ((grantDram_moves _).after
        ((withdraw_moves _ _).after h1)))
    · exact (respond_moves _ _ _ _ _).after ((leaveExecution_moves _).after h2)
  · exact (grantDram_moves _).widen

theorem droppedEnds_moves (s : State) (b : Burst) : Moves storeParts s (s.droppedEnds b) := by
  unfold State.droppedEnds
  exact Moves.ite (fun _ => (grantDram_moves _).after (checkRead_moves _ _).widen)
    (fun _ => (grantDram_moves _).after (storeBurst_moves _ _).widen)

theorem partEnds_moves (s : State) (b : Burst) : Moves storeParts s (s.partEnds b) := by
  unfold State.partEnds
  split
  · exact (telemetryReadBurst_moves _ _).widen
  · split
    · exact pokeTransferBurst_moves _ _ _ ‹_›
    · exact droppedEnds_moves _ _
  · split
    · exact pokeTransferBurst_moves _ _ _ ‹_›
    · exact droppedEnds_moves _ _
  all_goals exact droppedEnds_moves _ _

/-! ## Trunk -/

/-- The parts that the arrival of a trunk frame may change. -/
abbrev receiveParts : List Part :=
  [.loop, .snapshot, .poke, .arbiter, .queues, .counters, .events, .capture, .mirror, .lastOutputs, .actuators, .gains,
   .overrides, .slaves, .pairs, .openShape, .actuatorQueue, .effective, .contexts, .requests, .banks, .lastApplied,
   .newestDelivered, .engine, .ports, .jobs, .references, .portConfigs, .hold, .slopeQueue, .newestOpened]

theorem segmentResolved_moves (s : State) (f : List Byte) (g : Segment) : Moves receiveParts s (s.segmentResolved f g) := by
  unfold State.segmentResolved
  dsimp only
  have h1 : Moves receiveParts s (s.resolveSegment g.tag).2 := resolveSegment_moves _ _
  split
  · exact (slotArrival_moves _ _ _).after h1
  · exact (raise_moves _ _).after ((bump_moves _ _).after h1)
  · exact (bump_moves _ _).after ((placeRealtime_moves _ _).after h1)

theorem segmentArrives_moves (s : State) (f : List Byte) : Moves receiveParts s (s.segmentArrives f) := by
  unfold State.segmentArrives
  dsimp only
  exact Moves.ite (fun _ => (bump_moves _ _).widen)
    (fun _ => Moves.ite (fun _ => (bump_moves _ _).widen) (fun _ => segmentResolved_moves _ _ _))

theorem requestArrives_moves (s : State) (f : List Byte) : Moves [.requests, .queues, .counters] s (s.requestArrives f) := by
  unfold State.requestArrives
  dsimp only
  refine Moves.ite (fun _ => ?_) (fun hn => ?_)
  · exact (respond_moves _ _ _ _ _).after ((bump_moves _ _).after (bump_moves _ _).widen)
  · refine Moves.after (qs := [.requests]) ?_ (bump_moves s .consumedRequests).widen
    exact
      { frame := fun q hq => by cases q <;> first | exact absurd (by decide) hq | rfl
        inv := fun h => { h with requests := by simp [State.requestsHeld] at hn ⊢; omega }
        rise := fun _ _ => Nat.le_refl _ }

theorem forward_moves (s : State) (f : List Byte) : Moves [.queues, .counters] s (s.forward f) :=
  (bump_moves _ _).after (placeControl_moves _ _)

theorem classify_moves (s : State) (f : List Byte) : Moves receiveParts s (s.classify f) := by
  unfold State.classify
  split
  · dsimp only
    split
    · exact (segmentArrives_moves _ _).after (bump_moves _ _).widen
    · exact (segmentArrives_moves _ _).after (bump_moves _ _).widen
    · exact (bump_moves _ _).after (bump_moves _ _).widen
    · exact (bump_moves _ _).after (bump_moves _ _).widen
  · dsimp only
    refine Moves.ite (fun _ => (requestArrives_moves _ _).after (bump_moves _ _).widen) (fun _ => Moves.ite (fun _ => ?_) (fun _ => ?_))
    · exact (requestArrives_moves _ _).after ((forward_moves _ _).after (bump_moves _ _).widen)
    · exact (forward_moves _ _).after (bump_moves _ _).widen
  · exact (forward_moves _ _).after (bump_moves _ _).widen
  · exact (forward_moves _ _).after (bump_moves _ _).widen
  · exact (bump_moves _ _).widen

theorem receive_moves (s : State) (f : List Byte) : Moves receiveParts s (s.receive f) := by
  unfold State.receive
  refine Moves.ite (fun _ => (raise_moves _ _).after (bump_moves _ _).widen) (fun _ => Moves.ite (fun _ => ?_) (fun _ => ?_))
  · exact (raise_moves _ _).after (bump_moves _ _).widen
  · exact classify_moves _ _

/-- The transmitter's slot replaced. -/
theorem sending_moves (s : State) (x : Option Sending) : Moves [.queues] s { s with trunk := { s.trunk with sending := x } } where
  frame q hq := by cases q <;> first | exact absurd (by decide) hq | rfl
  inv h := { h with }
  rise _ _ := Nat.le_refl _

theorem links_moves (s : State) (a b : Bool) : Moves [.links] s { s with trunk := { s.trunk with tiUp := a, toUp := b } } :=
  .of_frame rfl (fun p hp => by cases p <;> first | exact absurd (by decide) hp | rfl)

theorem resetPhase_moves (s : State) (k : ResetPhase) : Moves [.resetPhase] s { s with mgmt := { s.mgmt with reset := k } } :=
  .of_frame rfl (fun p hp => by cases p <;> first | exact absurd (by decide) hp | rfl)

/-! ## Echoes -/

theorem driverFault_moves (s : State) (n : Nat) : Moves safeParts s (s.driverFault n) := by
  unfold State.driverFault
  dsimp only
  have h0 : Moves [.mirror] s { s with mirror := { s.mirror with lastDriverStatus := some n } } := mirror_moves s _ rfl rfl
  exact Moves.ite (fun _ => (bump_moves _ _).after h0.widen)
    (fun _ => (enterSafe_moves _ _).after ((raise_moves _ _).after ((bump_moves _ _).after h0.widen)))

theorem matchedEcho_moves (s : State) (n : Nat) : Moves safeParts s (s.matchedEcho n) := by
  unfold State.matchedEcho
  exact Moves.ite (fun _ => (bump_moves _ _).after (misses_moves s 0 (by decide)).widen) (fun _ => driverFault_moves _ _)

theorem dropFirst_length {α : Type} (p : α → Bool) (xs : List α) : (dropFirst p xs).length ≤ xs.length := by
  induction xs with
  | nil => exact Nat.le_refl _
  | cons x xs ih => unfold dropFirst; split <;> simp; exact ih

theorem echo_moves (s : State) (f : List Byte) : Moves safeParts s (s.echo f) := by
  unfold State.echo
  dsimp only
  refine Moves.ite (fun _ => (bump_moves _ _).widen) (fun _ => Moves.ite (fun _ => (bump_moves _ _).widen) (fun _ => ?_))
  refine (matchedEcho_moves _ _).after (Moves.widen (qs := [.mirror]) ?_)
  exact echoes_moves s _ (fun h => Nat.le_trans (dropFirst_length _ _) h.echoes)
    (fun h ht => by simp [h.echoesAtTail ht, dropFirst])

/-! ## Requests -/

theorem dequeue_moves (s : State) : Moves [.requests] s s.dequeue where
  frame q hq := by cases q <;> first | exact absurd (by decide) hq | rfl
  inv h := { h with requests := by have := h.requests; simp [State.requestsHeld, State.dequeue] at this ⊢; omega }
  rise _ _ := Nat.le_refl _

/-- The parts that every request may change: its leaving the queue, its counter, and its response. -/
abbrev answerParts : List Part := [.requests, .queues, .counters]

theorem refuse_moves (s : State) (r : Request) (st : Status) : Moves [.queues, .counters] s (s.refuse r st) :=
  (respond_moves _ _ _ _ _).after (bump_moves _ _).widen

theorem done_moves (s : State) (r : Request) (b : List Byte) : Moves [.queues, .counters] s (s.done r b) :=
  respond_moves _ _ _ _ _

theorem serve_moves {ps : List Part} (s : State) (i : Instr) (f : State → Request → State)
    (hw : within [.requests] ps = true) (h : ∀ t r, s.oldest? i = some r → t = s.dequeue → Moves ps t (f t r)) :
    Moves ps s (s.serve i f) := by
  unfold State.serve
  split
  · rename_i r hr
    exact ((dequeue_moves s).widen hw).trans (h _ r hr rfl)
  · exact .refl _ _

theorem judge_moves {ps : List Part} (s : State) (r : Request) (checks : List (Bool × Status)) (f : State → State)
    (hw : within [.queues, .counters] ps = true)
    (h : firstFailure checks = none → Moves ps (s.bump .requestsAccepted) (f (s.bump .requestsAccepted))) :
    Moves ps s (s.judge r checks f) := by
  unfold State.judge
  split
  · exact (refuse_moves _ _ _).widen hw
  · rename_i hf
    exact (((bump_moves s .requestsAccepted).widen (ps := [.queues, .counters])).widen hw).trans (h hf)

theorem firstFailure_none {checks : List (Bool × Status)} (h : firstFailure checks = none) : ∀ k ∈ checks, k.1 = true := by
  induction checks with
  | nil => simp
  | cons k ks ih =>
    obtain ⟨b, st⟩ := k
    unfold firstFailure at h
    split at h
    · intro x hx
      rcases List.mem_cons.mp hx with rfl | hx
      · assumption
      · exact ih h x hx
    · cases h

theorem stagedFull_moves (s : State) (r : Request) : Moves [.queues, .counters] s (s.stagedFull r) :=
  (respond_moves _ _ _ _ _).after (bump_moves _ _).widen

/-- The parts that a slope-side write may change at its acceptance. -/
abbrev slopeWriteParts : List Part := [.references, .portConfigs, .hold, .queues, .counters, .slopeQueue]

theorem stageSlope_moves (s : State) (r : Request) (w : SlopeWrite) : Moves slopeWriteParts s (s.stageSlope r w) := by
  unfold State.stageSlope
  refine Moves.ite (fun _ => Moves.ite (fun _ => (stagedFull_moves _ _).widen) (fun hn => ?_)) (fun _ => ?_)
  · dsimp only
    refine (bump_moves _ _).after ((bump_moves _ _).after (Moves.widen (qs := [.slopeQueue]) ?_))
    exact slopeQueue_moves s _ (fun h => by simp; omega)
  · exact (done_moves _ _ _).after ((applySlope_moves _ _).after ((drainSlope_moves _ _).after (bump_moves _ _).widen))

/-- An actuator-side write that changes the parts `ps` as it takes effect. -/
theorem stageActuator_moves {ps : List Part} (s : State) (r : Request) (w : ActuatorWrite) (hw : w.ordered)
    (ha : ∀ t, Moves ps t (t.applyActuator w)) (hq : within [.queues, .counters, .actuatorQueue] ps = true)
    (he : w.changesClasses = true → within [.effective] ps = true) : Moves ps s (s.stageActuator r w) := by
  have up : ∀ {t u : State}, Moves [.queues, .counters, .actuatorQueue] t u → Moves ps t u := fun h => h.widen hq
  unfold State.stageActuator
  refine Moves.ite (fun _ => Moves.ite (fun _ => up (stagedFull_moves _ _).widen) (fun hn => ?_)) (fun _ => ?_)
  · dsimp only
    refine up ((bump_moves _ _).after ((bump_moves _ _).after (Moves.widen (qs := [.actuatorQueue]) ?_)))
    refine actuatorQueue_moves s _ (fun h => by simp; omega) (fun h e he => ?_)
    rcases List.mem_append.mp he with he | he
    · exact h.staged e he
    · rw [List.mem_singleton.mp he]; exact hw
  · dsimp only
    have h1 : Moves ps s ((s.bump .requestsAccepted).applyActuator w) := (up (bump_moves s .requestsAccepted).widen).trans (ha _)
    refine Moves.trans ?_ (up (done_moves _ _ _).widen)
    exact Moves.ite (fun h => h1.trans ((recomputeClasses_moves _).widen (he h))) (fun _ => h1)

theorem judgeStaged_moves {ps : List Part} (s : State) (r : Request) (checks : List (Bool × Status)) (f : State → State)
    (hw : within [.queues, .counters] ps = true) (h : firstFailure checks = none → Moves ps s (f s)) :
    Moves ps s (s.judgeStaged r checks f) := by
  unfold State.judgeStaged
  split
  · exact (refuse_moves _ _ _).widen hw
  · exact h ‹_›

/-! The frames of a request that goes into execution, without the laws: `execute_moves` needs room in the queue, which only a
state that meets the laws is known to have. `Moves.of_inv` joins the two. -/

theorem serve_frame {ps : List Part} (s : State) (i : Instr) (f : State → Request → State) (hw : within [.requests] ps = true)
    (h : ∀ t r, ∀ p, p ∉ ps → p.same t (f t r)) : ∀ p, p ∉ ps → p.same s (s.serve i f) := by
  unfold State.serve
  split
  · exact fun p hp => Part_same_trans (((dequeue_moves s).widen hw).frame p hp) (h _ _ p hp)
  · exact fun p _ => Part_same_refl p s

theorem judge_frame {ps : List Part} (s : State) (r : Request) (checks : List (Bool × Status)) (f : State → State)
    (hw : within [.queues, .counters] ps = true) (h : ∀ t p, p ∉ ps → p.same t (f t)) :
    ∀ p, p ∉ ps → p.same s (s.judge r checks f) := by
  unfold State.judge
  split
  · exact ((refuse_moves _ _ _).widen hw).frame
  · exact fun p hp => Part_same_trans ((((bump_moves s .requestsAccepted).widen (ps := [.queues, .counters])).widen hw).frame p hp)
      (h _ p hp)

theorem execute_frame {ps : List Part} (s : State) (r : Request) (t : Transfer) (bs : List Burst)
    (hw : within grantParts ps = true) : ∀ p, p ∉ ps → p.same s (s.execute r t bs) := fun p hp =>
  Part_same_trans (by cases p <;> first | rfl | exact absurd (by simpa using List.all_eq_true.mp hw .requests (by decide)) hp)
    (((queueBursts_moves _ _).widen hw).frame p hp)

/-- The oldest request of a state that meets the laws leaves room for itself in the queue as it goes into execution. -/
theorem oldest_leaves_room {s : State} {i : Instr} {r : Request} (hi : s.Inv) (h : s.oldest? i = some r) :
    s.dequeue.mgmt.queue.length < Config.requestCapacity := by
  have hl := hi.requests
  unfold State.oldest? at h
  split at h
  · rename_i q hq
    simp only [State.requestsHeld, State.dequeue, hq, List.length_cons, List.drop_succ_cons, List.drop_zero] at hl ⊢
    omega
  · cases h

/-- A request leaves its place at the front of the queue for execution. -/
theorem execute_moves (s : State) (r : Request) (t : Transfer) (bs : List Burst)
    (hr : s.mgmt.queue.length < Config.requestCapacity) : Moves grantParts s (s.execute r t bs) := by
  unfold State.execute
  refine (queueBursts_moves _ _).after (Moves.widen (qs := [.requests]) ?_)
  exact executing_moves _ _ (.inr hr)

theorem cancelSwap_moves (s : State) : Moves [.banks, .counters] s s.cancelSwap := by
  unfold State.cancelSwap
  split
  · exact (bump_moves _ _).after (setBank_moves _ _ _ (by exact id) (by simp)).widen
  · exact .refl _ _

theorem recheckSwap_moves (s : State) : Moves [.banks, .counters] s s.recheckSwap := by
  unfold State.recheckSwap
  split
  · exact Moves.ite (fun _ => .refl _ _) (fun _ => cancelSwap_moves _)
  · exact .refl _ _

theorem loadFromOpen_moves (s : State) : Moves [.actuators, .counters] s s.loadFromOpen := by
  unfold State.loadFromOpen
  exact Moves.ite (fun _ => (bump_moves _ _).after (bumpless_moves s).widen) (fun _ => .refl _ _)

theorem clearDetectors_moves (s : State) : Moves [.loop] s s.clearDetectors :=
  loopOnly_moves s _ rfl rfl rfl (fun _ => Nat.zero_le _) (fun _ => Nat.zero_le _)

theorem startPoke_moves (s : State) (n : Nat) : Moves [.poke, .arbiter, .requests, .banks, .counters] s (s.startPoke n) :=
  (bump_moves _ _).after ((fetchPoke_moves _ _).after (poke_moves s _).widen)

theorem stopPoke_moves (s : State) : Moves [.poke, .arbiter, .queues, .counters, .events] s s.stopPoke := by
  unfold State.stopPoke
  exact Moves.ite (fun _ => (reportTest_moves _).after ((bump_moves _ _).after (pokeIdle_moves s).widen)) (fun _ => .refl _ _)

theorem arm_moves (s : State) : Moves withdrawParts s s.arm := by
  unfold State.arm
  dsimp only
  exact Moves.after (capture_moves _ _ (by rfl)) (withdrawRecord_moves _).widen

theorem stopCapture_moves (s : State) : Moves withdrawParts s s.stopCapture := by
  unfold State.stopCapture
  dsimp only
  exact Moves.after (capture_moves _ _ (by rfl)) (withdrawRecord_moves _).widen

/-- The Telemetry Unit replaced. -/
theorem telemetry_moves (s : State) (t : Telemetry) : Moves [.capture, .telemetryConfig] s { s with telemetry := t } :=
  .of_frame rfl (fun p hp => by cases p <;> first | exact absurd (by decide) hp | rfl)

theorem setTelemetry_moves (s : State) (f : TelemetryConfig) :
    Moves (.telemetryConfig :: withdrawParts) s (s.setTelemetry f) := by
  unfold State.setTelemetry
  dsimp only
  refine Moves.ite (fun _ => (telemetry_moves _ _).widen) (fun _ => ?_)
  exact Moves.after (telemetry_moves _ _) (withdrawRecord_moves _).widen

theorem retire_moves (s : State) : Moves [.banks] s s.retire := by
  unfold State.retire
  split
  · exact setBank_moves _ _ _ (by simp) (by exact id)
  · exact .refl _ _

theorem restartPorts_moves (s : State) : Moves [.ports, .jobs, .contexts, .counters] s s.restartPorts := by
  unfold State.restartPorts
  refine (completionTests_moves _).after (Moves.widen (qs := [.ports]) ?_)
  have hr : ∀ x : Port, x.restart.config = x.config := by intro x; unfold Port.restart; split <;> rfl
  have hp : ∀ x : Port, x.positionsHold → x.restart.positionsHold := by
    intro x h; unfold Port.restart; split <;> exact h
  refine ⟨fun q hq => ?_, fun h => ?_, fun _ _ => Nat.le_refl _⟩
  · cases q <;> first | exact absurd (by decide) hq | rfl | exact (congr (congrArg Prod.mk (hr _)) (hr _)).symm
  · refine { h with rings := fun p => ?_, slopeCounts := fun p => ?_ }
    · have := h.rings p
      cases p <;> exact hp _ this
    · have := h.slopeCounts p
      cases p <;> (simp only [State.port, Pair.get, hr]; exact this)

theorem clearTail_moves (s : State) : Moves [.loop, .snapshot, .mirror] s s.clearTail := by
  unfold State.clearTail
  refine Moves.ite (fun _ => ?_) (fun _ => .refl _ _)
  have h1 : s.loop.leaveSafe.releaseSnapshot.badFrames = s.loop.badFrames := by
    unfold Loop.releaseSnapshot Loop.leaveSafe; split <;> split <;> rfl
  have h2 : s.loop.leaveSafe.releaseSnapshot.satRun = s.loop.satRun := by
    unfold Loop.releaseSnapshot Loop.leaveSafe; split <;> split <;> rfl
  refine ⟨fun q hq => ?_, fun h => ?_, fun _ _ => Nat.le_refl _⟩
  · cases q <;> first | exact absurd (by decide) hq | rfl
  · refine { h with misses := Nat.zero_le _, badFrames := ?_, satRun := ?_, safeOut := ?_ }
    · rw [h1]; exact h.badFrames
    · rw [h2]; exact h.satRun
    · have := h.safeOut
      unfold Loop.releaseSnapshot Loop.leaveSafe
      by_cases hs : s.loop.state = .safe
      · simp only [hs, if_true]; split <;> rfl
      · simp only [hs, if_false]
        split <;> exact this

theorem clearLatches_moves (s : State) : Moves [.events] s s.clearLatches where
  frame q hq := by cases q <;> first | exact absurd (by decide) hq | rfl
  inv h := { h with events := knownEvents_and _ _ h.events }
  rise _ _ := Nat.le_refl _

theorem awaitReset_moves (s : State) (r : Request) : Moves [.queues, .counters, .resetPhase] s (s.awaitReset r) := by
  unfold State.awaitReset
  dsimp only
  refine Moves.after (resetPhase_moves _ _) ?_
  exact (placeControl_moves _ _).widen

end Sys2Proof.Machine
end

