-- ==== Sys2Proof/WellFormed.lean ====
section
/-! DEFINITION. Which commands the part's surroundings can send at all: the operand checks that a command's type does not make. -/

namespace Sys2Proof

/-- A codeword of the stacked DRAM: 512 MiB in codewords of 8 bytes (R38, R39). -/
def Strike.wellFormed (k : Strike) : Bool := k.codeword < 67108864

/-- The operand checks: the header of a slope packet is at most 10 bytes (R198), and an upset strikes a codeword that exists. -/
def Instr.wellFormed : Instr → Bool
  | .slopePacketHeader _ bytes => bytes.length ≤ 10
  | .columnBurstDelivered ks => ks.all Strike.wellFormed
  | .pokeRecordFetchArrival ks => ks.all Strike.wellFormed
  | .telemetryReadEnd ks => ks.all Strike.wellFormed
  | .readbackBurstEnd ks => ks.all Strike.wellFormed
  | .pokeRecordsTransferEnd ks => ks.all Strike.wellFormed
  | .dramBurstComplete ks => ks.all Strike.wellFormed
  | _ => true

end Sys2Proof
end

