-- ==== Sys2Proof/Laws/PerInstr.lean ====
section
/-! SUPPORT. Statements about every command, constructor by constructor: what well-formedness says of its operands. -/

-- One theorem after the other, so that checking the whole package keeps to few threads.
set_option Elab.async false

namespace Sys2Proof.Laws.WellFormedRange

/-- The upsets that a command brings. -/
def strikes : Instr → List Strike
  | .columnBurstDelivered ks | .pokeRecordFetchArrival ks | .telemetryReadEnd ks | .readbackBurstEnd ks
  | .pokeRecordsTransferEnd ks | .dramBurstComplete ks => ks
  | _ => []

/-- The header bytes that a command brings. -/
def headerBytes : Instr → List Byte
  | .slopePacketHeader _ bytes => bytes
  | _ => []

/-- A well-formed command strikes only codewords of the 512 MiB of DRAM, and brings at most the ten bytes of a slope header. -/
def Statement (i : Instr) : Prop :=
  i.wellFormed = true → (∀ k ∈ strikes i, 8 * k.codeword + 8 ≤ 536870912) ∧ (headerBytes i).length ≤ 10

/-- The upsets of a well-formed list lie in the DRAM. -/
theorem strikes_fit {ks : List Strike} (h : ks.all Strike.wellFormed = true) :
    ∀ k ∈ ks, 8 * k.codeword + 8 ≤ 536870912 := by
  intro k hk
  have := List.all_eq_true.mp h k hk
  simp only [Strike.wellFormed, decide_eq_true_eq] at this
  omega

theorem powerOnReset (nodeId : BitVec 3) : Statement (.powerOnReset nodeId) := fun _ => ⟨by simp [strikes], Nat.zero_le _⟩
theorem slLinkDown (port : Ix) : Statement (.slLinkDown port) := fun _ => ⟨by simp [strikes], Nat.zero_le _⟩
theorem slLinkUp (port : Ix) : Statement (.slLinkUp port) := fun _ => ⟨by simp [strikes], Nat.zero_le _⟩
theorem slopePacketHeader (port : Ix) (bytes : List Byte) : Statement (.slopePacketHeader port bytes) :=
  fun h => ⟨by simp [strikes], of_decide_eq_true h⟩
theorem slopePacketEnd (port : Ix) (bytes : List Byte) : Statement (.slopePacketEnd port bytes) :=
  fun _ => ⟨by simp [strikes], Nat.zero_le _⟩
theorem columnEngineTakePacket : Statement .columnEngineTakePacket := fun _ => ⟨by simp [strikes], Nat.zero_le _⟩
theorem substitutionJobRun : Statement .substitutionJobRun := fun _ => ⟨by simp [strikes], Nat.zero_le _⟩
theorem columnBurstDelivered (strikes : List Strike) : Statement (.columnBurstDelivered strikes) :=
  fun h => ⟨strikes_fit h, Nat.zero_le _⟩
theorem assemblyDeadline (ctx : Ix) : Statement (.assemblyDeadline ctx) := fun _ => ⟨by simp [strikes], Nat.zero_le _⟩
theorem deliveryDeadline (ctx : Ix) : Statement (.deliveryDeadline ctx) := fun _ => ⟨by simp [strikes], Nat.zero_le _⟩
theorem tiFrameReceived (bytes : List Byte) : Statement (.tiFrameReceived bytes) :=
  fun _ => ⟨by simp [strikes], Nat.zero_le _⟩
theorem tiLinkDown (inReception : Bool) : Statement (.tiLinkDown inReception) := fun _ => ⟨by simp [strikes], Nat.zero_le _⟩
theorem tiLinkUp : Statement .tiLinkUp := fun _ => ⟨by simp [strikes], Nat.zero_le _⟩
theorem toSendEnd : Statement .toSendEnd := fun _ => ⟨by simp [strikes], Nat.zero_le _⟩
theorem toLinkDown : Statement .toLinkDown := fun _ => ⟨by simp [strikes], Nat.zero_le _⟩
theorem toLinkUp : Statement .toLinkUp := fun _ => ⟨by simp [strikes], Nat.zero_le _⟩
theorem parkRefreshExpiry : Statement .parkRefreshExpiry := fun _ => ⟨by simp [strikes], Nat.zero_le _⟩
theorem starvationExpiry : Statement .starvationExpiry := fun _ => ⟨by simp [strikes], Nat.zero_le _⟩
theorem mlSendEnd : Statement .mlSendEnd := fun _ => ⟨by simp [strikes], Nat.zero_le _⟩
theorem mlLinkDown : Statement .mlLinkDown := fun _ => ⟨by simp [strikes], Nat.zero_le _⟩
theorem mlLinkUp : Statement .mlLinkUp := fun _ => ⟨by simp [strikes], Nat.zero_le _⟩
theorem echoReceived (bytes : List Byte) : Statement (.echoReceived bytes) := fun _ => ⟨by simp [strikes], Nat.zero_le _⟩
theorem echoEntryExpiry : Statement .echoEntryExpiry := fun _ => ⟨by simp [strikes], Nat.zero_le _⟩
theorem pokeRecordFetchArrival (strikes : List Strike) : Statement (.pokeRecordFetchArrival strikes) :=
  fun h => ⟨strikes_fit h, Nat.zero_le _⟩
theorem telemetryRecordCommit : Statement .telemetryRecordCommit := fun _ => ⟨by simp [strikes], Nat.zero_le _⟩
theorem telemetryReadEnd (strikes : List Strike) : Statement (.telemetryReadEnd strikes) :=
  fun h => ⟨strikes_fit h, Nat.zero_le _⟩
theorem loadColumnWriteEnd : Statement .loadColumnWriteEnd := fun _ => ⟨by simp [strikes], Nat.zero_le _⟩
theorem readbackBurstEnd (strikes : List Strike) : Statement (.readbackBurstEnd strikes) :=
  fun h => ⟨strikes_fit h, Nat.zero_le _⟩
theorem pokeRecordsTransferEnd (strikes : List Strike) : Statement (.pokeRecordsTransferEnd strikes) :=
  fun h => ⟨strikes_fit h, Nat.zero_le _⟩
theorem requestWatchdogExpiry (target : WatchdogTarget) : Statement (.requestWatchdogExpiry target) :=
  fun _ => ⟨by simp [strikes], Nat.zero_le _⟩
theorem eventHoldoffExpiry : Statement .eventHoldoffExpiry := fun _ => ⟨by simp [strikes], Nat.zero_le _⟩
theorem readObject : Statement .readObject := fun _ => ⟨by simp [strikes], Nat.zero_le _⟩
theorem readCounters : Statement .readCounters := fun _ => ⟨by simp [strikes], Nat.zero_le _⟩
theorem readMatrixColumnSegment : Statement .readMatrixColumnSegment := fun _ => ⟨by simp [strikes], Nat.zero_le _⟩
theorem readPokeRecords : Statement .readPokeRecords := fun _ => ⟨by simp [strikes], Nat.zero_le _⟩
theorem writeNodeParameters : Statement .writeNodeParameters := fun _ => ⟨by simp [strikes], Nat.zero_le _⟩
theorem writePortConfiguration : Statement .writePortConfiguration := fun _ => ⟨by simp [strikes], Nat.zero_le _⟩
theorem writeReferenceSlopes : Statement .writeReferenceSlopes := fun _ => ⟨by simp [strikes], Nat.zero_le _⟩
theorem writeActuatorEntries : Statement .writeActuatorEntries := fun _ => ⟨by simp [strikes], Nat.zero_le _⟩
theorem writeGainProfiles : Statement .writeGainProfiles := fun _ => ⟨by simp [strikes], Nat.zero_le _⟩
theorem writeOverrideRanges : Statement .writeOverrideRanges := fun _ => ⟨by simp [strikes], Nat.zero_le _⟩
theorem writeSlaveRecords : Statement .writeSlaveRecords := fun _ => ⟨by simp [strikes], Nat.zero_le _⟩
theorem writeNeighbourPairs : Statement .writeNeighbourPairs := fun _ => ⟨by simp [strikes], Nat.zero_le _⟩
theorem writeOpenShape : Statement .writeOpenShape := fun _ => ⟨by simp [strikes], Nat.zero_le _⟩
theorem writePokeRecords : Statement .writePokeRecords := fun _ => ⟨by simp [strikes], Nat.zero_le _⟩
theorem writeTelemetryConfiguration : Statement .writeTelemetryConfiguration := fun _ => ⟨by simp [strikes], Nat.zero_le _⟩
theorem writeEventState : Statement .writeEventState := fun _ => ⟨by simp [strikes], Nat.zero_le _⟩
theorem writeObjectOther : Statement .writeObjectOther := fun _ => ⟨by simp [strikes], Nat.zero_le _⟩
theorem bankSetup : Statement .bankSetup := fun _ => ⟨by simp [strikes], Nat.zero_le _⟩
theorem loadColumn : Statement .loadColumn := fun _ => ⟨by simp [strikes], Nat.zero_le _⟩
theorem closeBank : Statement .closeBank := fun _ => ⟨by simp [strikes], Nat.zero_le _⟩
theorem swapBank : Statement .swapBank := fun _ => ⟨by simp [strikes], Nat.zero_le _⟩
theorem retireBank : Statement .retireBank := fun _ => ⟨by simp [strikes], Nat.zero_le _⟩
theorem loopOff : Statement .loopOff := fun _ => ⟨by simp [strikes], Nat.zero_le _⟩
theorem loopOpen : Statement .loopOpen := fun _ => ⟨by simp [strikes], Nat.zero_le _⟩
theorem loopClose : Statement .loopClose := fun _ => ⟨by simp [strikes], Nat.zero_le _⟩
theorem loopHold : Statement .loopHold := fun _ => ⟨by simp [strikes], Nat.zero_le _⟩
theorem resetIntegrators : Statement .resetIntegrators := fun _ => ⟨by simp [strikes], Nat.zero_le _⟩
theorem pokeStart : Statement .pokeStart := fun _ => ⟨by simp [strikes], Nat.zero_le _⟩
theorem pokeStop : Statement .pokeStop := fun _ => ⟨by simp [strikes], Nat.zero_le _⟩
theorem telemetryArm : Statement .telemetryArm := fun _ => ⟨by simp [strikes], Nat.zero_le _⟩
theorem telemetryStop : Statement .telemetryStop := fun _ => ⟨by simp [strikes], Nat.zero_le _⟩
theorem readTelemetry : Statement .readTelemetry := fun _ => ⟨by simp [strikes], Nat.zero_le _⟩
theorem clearFault : Statement .clearFault := fun _ => ⟨by simp [strikes], Nat.zero_le _⟩
theorem nodeReset : Statement .nodeReset := fun _ => ⟨by simp [strikes], Nat.zero_le _⟩
theorem nodeResetBegin : Statement .nodeResetBegin := fun _ => ⟨by simp [strikes], Nat.zero_le _⟩
theorem dramBurstComplete (strikes : List Strike) : Statement (.dramBurstComplete strikes) :=
  fun h => ⟨strikes_fit h, Nat.zero_le _⟩

end Sys2Proof.Laws.WellFormedRange
end

