-- ==== Sys2Proof/Tests/Slice0.lean ====
section
/-! SUPPORT. Own tests: the ill-formed terms that WellFormed refuses, the check values of R197, single steps of commands on small
states, and for every statement with hypotheses a witness that meets them all together. -/

-- One theorem after the other: a test evaluated by the kernel holds a thread, and the threads of all of them are too many.
set_option Elab.async false

namespace Sys2Proof.Tests

open Sys2Proof.Machine

/-! ## Helpers -/

/-- The machine right after reset with every link UP. -/
def linked : State := { State.reset with
  trunk := ⟨true, true, [], [], none⟩
  mirror := { State.reset.mirror with up := true }
  ports := ⟨{ Port.powerOn with linkUp := true }, { Port.powerOn with linkUp := true }⟩ }

/-- A predicate holds of the state that a command answers. -/
def after (i : Instr) (s : State) (p : State → Bool) : Bool :=
  match exec i s with
  | .next t => p t
  | _ => false

/-- A REQUEST payload: kind, form, tag 5, body (R199). -/
def payload (kind form : Byte) (body : List Byte) : List Byte := [kind, form, 5, 0] ++ body

/-- A request of that payload. -/
def req (kind form : Byte) (body : List Byte) : Request := ⟨payload kind form body⟩

/-- The state with one request in the request queue. -/
def asked (s : State) (r : Request) : State := { s with mgmt := { s.mgmt with queue := [r] } }

/-- A port that runs, with its link UP and eight slopes. -/
def running : Port :=
  { Port.powerOn with linkUp := true, state := .running, config := ⟨true, 8, .hold, 4, .drop⟩ }

/-- A context that assembles tag 7, opened at time 0. -/
def assembling : Context :=
  { Context.free with state := .assembling, tag := 7, dAsm := 300, dDel := 600, asmRunning := true, delRunning := true }

/-- A bank loaded and READY, for eight slopes and four actuators. -/
def readyBank : Bank := { Bank.powerOn with state := .ready, nb := 8, ab := 4, label := 3 }

/-- A node that receives: both ports run, bank 0 is LIVE, A is 4. -/
def node : State := { linked with
  ports := ⟨running, running⟩
  bankStore := ⟨⟨{ readyBank with nb := 16, state := .live }, readyBank⟩, none⟩
  params := { State.reset.params with actuators := 4 } }

/-- The same node with context 0 assembling tag 7. -/
def open7 : State := { node with frames := ⟨0, some 7, none, [], ⟨assembling, Context.free⟩⟩ }

/-- The same node with its loop CLOSED. -/
def closed : State := { node with loop := { State.reset.loop with state := .closed } }

/-- A read burst of 16 bytes in progress. -/
def fetching (s : State) (j : BurstJob) (last : Bool) : State :=
  { s with arbiter := { s.arbiter with inProgress := some ⟨j, 0, 16, [], last, false⟩ } }

/-- A write burst of 8 bytes in progress. -/
def writing (s : State) (j : BurstJob) (last : Bool) : State :=
  { s with arbiter := { s.arbiter with inProgress := some ⟨j, 0, 8, [1, 2, 3, 4, 5, 6, 7, 8], last, false⟩ } }

/-- A request in execution. -/
def inExecution (s : State) (x : Transfer) (begun : Bool) : State :=
  { s with mgmt := { s.mgmt with executing := some ⟨req 1 0 [], 0, 100000, begun, x⟩ } }

/-! ## WellFormed: an ill-formed term for every check -/

theorem test_header_of_eleven_bytes_is_ill_formed :
    Instr.wellFormed (.slopePacketHeader .zero (List.replicate 11 0)) = false := by decide
theorem test_header_of_ten_bytes_is_well_formed :
    Instr.wellFormed (.slopePacketHeader .zero (List.replicate 10 0)) = true := by decide
theorem test_strike_beyond_the_dram_is_ill_formed :
    Strike.wellFormed ⟨67108864, false⟩ = false ∧ Strike.wellFormed ⟨67108863, true⟩ = true := by decide
theorem test_strikes_of_every_burst_command_are_checked :
    Instr.wellFormed (.columnBurstDelivered [⟨67108864, false⟩]) = false
    ∧ Instr.wellFormed (.pokeRecordFetchArrival [⟨67108864, false⟩]) = false
    ∧ Instr.wellFormed (.telemetryReadEnd [⟨67108864, false⟩]) = false
    ∧ Instr.wellFormed (.readbackBurstEnd [⟨67108864, true⟩]) = false
    ∧ Instr.wellFormed (.pokeRecordsTransferEnd [⟨67108864, true⟩]) = false
    ∧ Instr.wellFormed (.dramBurstComplete [⟨0, true⟩, ⟨67108864, true⟩]) = false := by decide

/-! ## The check values and the rounding examples of R197 and 00_scope.md section 5 -/

/-- The characters 1 to 9. -/
def digits : List Byte := [0x31, 0x32, 0x33, 0x34, 0x35, 0x36, 0x37, 0x38, 0x39]

theorem test_crc32_check_value : crc32 digits = 0xCBF43926#32 := by decide +kernel
theorem test_crc16_check_value : crc16 digits = 0x29B1#16 := by decide +kernel
theorem test_ties_round_away_from_zero : roundRN 5 2 = 3 ∧ roundRN (-5) 2 = -3 ∧ roundRN 7 4 = 2 ∧ roundRN (-1) 4 = 0 := by
  decide
theorem test_tag_order_wraps : tagNewer 0 65535 = true ∧ tagNewer 32767 0 = true ∧ tagNewer 32768 0 = false
    ∧ tagNewer 0 32768 = false := by decide

/-! ## Single steps -/

/-- The header of a packet for tag 7 with `n` slopes from index `k` (R198). -/
def headerOf (k n last : Byte) : List Byte :=
  let h := [7, 0, k, 0, n, 0, last, 0]
  h ++ leBytes 2 (crc16 h).toNat

/-- The bytes after such a header: two slopes 5 and -1, and the CRC-32 of the whole packet. -/
def restOf (h : List Byte) : List Byte :=
  let slopes : List Byte := [5, 0, 0xFF, 0xFF]
  slopes ++ leBytes 4 (crc32 (h ++ slopes)).toNat

theorem test_header_reserves_its_footprint :
    after (.slopePacketHeader .zero (headerOf 0 2 0)) open7
      (fun t => (t.port .zero).freeCount == 8189 && (t.port .zero).writePos == 2 && (t.ctx .zero).heldCount.fst == 1) = true := by
  decide +kernel

/-- A node whose port 0 receives a packet of two slopes for the open tag 7. -/
def receiving : State := { open7 with ports := ⟨{ running with
  writePos := 2, freeCount := 8189, reception := some ⟨headerOf 0 2 1, ⟨7, 0, 2, true, .zero⟩⟩ }, running⟩ }

theorem test_packet_end_makes_slopes_visible :
    after (.slopePacketEnd .zero (restOf (headerOf 0 2 1))) receiving
      (fun t => (t.port .zero).visiblePos == 3 && (t.port .zero).ring.get 2 == .slopes 5 (some 0xFFFF)
        && (t.ctx .zero).lastDelivered.fst) = true := by decide +kernel

theorem test_bad_packet_end_flushes :
    after (.slopePacketEnd .zero [1, 2, 3]) receiving
      (fun t => (t.port .zero).freeCount == 8192 && (t.port .zero).writePos == 0
        && t.counter (.port .zero .payloadErrors) == 1 && t.events.frameNumber == 1) = true := by decide +kernel

theorem test_link_down_cuts_the_packet :
    after (.slLinkDown .zero) receiving
      (fun t => t.counter (.port .zero .truncated) == 1 && t.counter (.port .zero .linkDown) == 1
        && (t.port .zero).state == .running) = true := by decide +kernel

/-- A node with a packet of one slope, 5, visible in ring 0, and a reference slope of 2. -/
def holding : State := { open7 with
  ports := ⟨{ running with
    ring := ⟨[(0, .descriptor ⟨7, 1, 1, true, .zero⟩), (1, .descriptorRest), (2, .slopes 5 none)]⟩
    visiblePos := 3, writePos := 3, freeCount := 8189 }, running⟩
  engine := { node.engine with refs := ⟨[(1, 2)]⟩ } }

theorem test_engine_corrects_a_slope_and_fetches_its_column :
    after .columnEngineTakePacket holding
      (fun t => t.engine.pass == some ⟨.zero, 1, 3⟩ && t.engine.hold.get 1 == some ⟨3, 0⟩
        && (t.arbiter.inProgress.map (fun b => (b.address, b.length, b.last))) == some (12288, 8, true)) = true := by
  decide +kernel

/-- A column burst in progress for the pass of value 3, over two coefficients -2 and 10 written at address 0. -/
def adding : State := { open7 with
  arbiter := { node.arbiter with inProgress := some ⟨.columnFetch .zero .zero 0 0, 0, 4, [], false, false⟩ }
  dram := { node.dram with memory := ⟨[⟨0, 0xFE⟩, ⟨1, 0xFF⟩, ⟨2, 10⟩, ⟨3, 0⟩]⟩ }
  engine := { node.engine with pass := some ⟨.zero, 0, 3⟩, work := .packet .zero ⟨7, 0, 1, true, .zero⟩ 1 } }

theorem test_column_burst_adds_products :
    after (.columnBurstDelivered []) adding
      (fun t => (t.ctx .zero).sums.get 0 == -6 && (t.ctx .zero).sums.get 1 == 30) = true := by decide +kernel

theorem test_double_error_adds_nothing :
    after (.columnBurstDelivered [⟨0, true⟩]) adding
      (fun t => (t.ctx .zero).sums.get 0 == 0 && (t.ctx .zero).isCorrupt && t.isPending .matrixUncorrectable
        && t.counter .uncorrectableColumn == 1) = true := by decide +kernel

theorem test_assembly_deadline_queues_the_job :
    after (.assemblyDeadline .zero) open7
      (fun t => t.frames.jobs == [.zero] && t.now == 300 && t.counter .assemblyDeadlines == 1) = true := by decide +kernel

theorem test_tick_brings_the_deadline :
    (match step { open7 with frames := { open7.frames with timebase := 300 } } with
      | .next t => t.pending == [.assemblyDeadline .zero] && t.now == 300
      | _ => false) = true := by decide +kernel

theorem test_trunk_frame_of_eleven_bytes_fails :
    after (.tiFrameReceived (List.replicate 11 0)) linked (fun t => t.counter .lengthErrors == 1) = true := by decide +kernel

/-- A REQUEST frame from the host to node `d`. -/
def requestFrame (d : Nat) (p : List Byte) : List Byte := trunkFrame 2 8 d p

theorem test_request_to_all_nodes_is_queued_and_forwarded :
    after (.tiFrameReceived (requestFrame 15 (payload 13 0 []))) linked
      (fun t => t.mgmt.queue == [req 13 0 []] && t.counter .forwarded == 1 && t.trunk.sending.isSome) = true := by
  decide +kernel

/-- A segment of tag 7 for four actuators, from node 1. -/
def seg7 : Segment := ⟨7, 0, 1, 0, 4, 2, 0, 3, 0, [1, -1, 2, 0]⟩

/-- The same node in the middle of a chain. -/
def middle7 : State := { open7 with params := { open7.params with role := .middle } }

theorem test_segment_is_stored :
    after (.tiFrameReceived (trunkFrame 1 1 15 seg7.encode)) middle7
      (fun t => (t.ctx .zero).slots.get 0 == .stored seg7 && t.counter .storedSegments == 1) = true := by decide +kernel

theorem test_to_sends_realtime_first :
    after .toSendEnd { linked with trunk := ⟨true, true, [⟨[1], false⟩], [⟨[2], false⟩], some ⟨⟨[3], false⟩, false⟩⟩ }
      (fun t => t.trunk.sending == some ⟨⟨[1], false⟩, true⟩ && t.counter .controlSent == 1) = true := by decide +kernel

theorem test_starvation_holds_the_loop :
    after .starvationExpiry { closed with loop := { closed.loop with starvation := some 0 } }
      (fun t => t.loop.state == .held && t.now == 20000 && t.counter .starvationHolds == 1) = true := by decide +kernel

theorem test_park_refresh_sends_a_shape :
    after .parkRefreshExpiry { closed with
        safeOut := true, loop := { closed.loop with state := .safe, parkRefresh := some 5 } }
      (fun t => t.mirror.shapeNumber == 1 && t.loop.parkRefresh == some 10005
        && (t.mirror.sending.map MlFrame.bytes) == some (shapeFrame 1 [0, 0, 0, 0])) = true := by decide +kernel

theorem test_mirror_loss_enters_safe :
    after .mlLinkDown closed
      (fun t => t.loop.state == .safe && t.safeOut && t.isPending .loopSafe && t.counter .safeEntries == 1
        && t.counter .unsent == 1) = true := by decide +kernel

theorem test_echo_with_fault_code :
    after (.echoReceived (sealFrame [3, 0, 9, 0, 1, 4, 0, 0]))
        { closed with mirror := { closed.mirror with echoes := [⟨.command, 9, 1000⟩] } }
      (fun t => t.loop.state == .safe && t.mirror.lastDriverStatus == some 4 && t.mirror.echoes == []) = true := by
  decide +kernel

/-- The Poke Engine awaiting the copy of record 0. -/
def awaiting : State := { closed with poke := some ⟨0, none, .push, 0, none⟩ }

theorem test_ill_formed_poke_record_ends_the_engine :
    after (.pokeRecordFetchArrival [])
        { fetching awaiting (.pokeFetch 0) true with
          dram := { node.dram with memory := Memory.blank.writeRun 0 (List.replicate 16 0) } }
      (fun t => t.poke == none && t.counter .illFormedRecords == 1 && t.counter .pokeFaults == 1) = true := by decide +kernel

theorem test_load_column_end_marks_its_segment :
    after .loadColumnWriteEnd (writing (inExecution node (.loadColumn .one 3 2 1) true) .loadColumn true)
      (fun t => (t.bank .one).covered 3 2 && !(t.bank .one).covered 3 1 && t.dram.memory.read? 7 == some 8
        && t.counter .loadsWritten == 1) = true := by decide +kernel

theorem test_bank_setup :
    after .bankSetup (asked node (req 3 0 [1, 0, 16, 0, 0, 2, 5, 0, 9, 0]))
      (fun t => (t.bank .one).state == .loading && (t.bank .one).nb == 16 && (t.bank .one).ab == 512
        && (t.bank .one).scale == 5 && (t.bank .one).label == 9) = true := by decide +kernel

theorem test_bank_setup_of_the_live_bank_is_refused :
    after .bankSetup (asked node (req 3 0 [0, 0, 16, 0, 0, 2, 5, 0, 9, 0]))
      (fun t => (t.bank .zero).state == .live && t.counter .requestsRefused == 1) = true := by decide +kernel

theorem test_swap_of_another_shape_is_refused :
    after .swapBank (asked node (req 6 0 [1, 1, 0, 0]))
      (fun t => (t.bank .one).swapMark == none && t.counter .requestsRefused == 1) = true := by decide +kernel

theorem test_write_of_parameters :
    after .writeNodeParameters (asked linked (req 2 0 [0, 0, 0, 0, 0, 0, 0, 0, 3, 0, 0, 0, 5, 0, 0, 0, 20, 0, 0, 0]))
      (fun t => t.params.role == .tail && t.params.kBad == 20 && t.counter .requestsAccepted == 1) = true := by decide +kernel

theorem test_loop_close_from_held :
    after .loopClose (asked { node with loop := { node.loop with state := .held, badFrames := 3 } } (req 8 2 []))
      (fun t => t.loop.state == .closed && t.loop.badFrames == 0 && t.loop.starvation == some 0) = true := by decide +kernel

theorem test_clear_fault_leaves_safe :
    after .clearFault (asked { closed with
        safeOut := true
        loop := { closed.loop with state := .safe }
        events := { closed.events with pending := fatalSet } } (req 13 0 []))
      (fun t => t.loop.state == .off && !t.safeOut && t.events.pending == 0) = true := by decide +kernel

theorem test_node_reset_frees_the_contexts :
    after .nodeResetBegin { open7 with mgmt := { open7.mgmt with reset := .due } }
      (fun t => (t.ctx .zero).state == .free && t.frames.newestOpened == none && t.mgmt.reset == .none) = true := by
  decide +kernel

/-! ## Witnesses: states and operands that meet the hypotheses of each statement -/

/-- The deadline of `open7` at 300, met and missed by one microsecond. -/
def at7 (t : Time) : State := { open7 with frames := { open7.frames with timebase := t } }

theorem witness_idle_step : State.reset.pending = [] ∧ State.reset.dueCommands = [] ∧ (at7 300).pending = []
    ∧ (at7 300).due (.assemblyDeadline .zero) ∧ (at7 299).dueCommands = [] ∧ ¬(at7 300).due (.deliveryDeadline .zero) :=
  ⟨rfl, by decide +kernel, rfl, ⟨rfl, rfl, by decide⟩, by decide +kernel, fun h => absurd h.2.2 (by decide)⟩

theorem linked_counters (k : Nat) : linked.counters.get k ≤ Config.counterMax := by
  show (Table.blank : Table (0 : Nat)).get k ≤ _
  simp

/-- The laws hold right after power-on reset with the links UP. -/
theorem witness_laws : linked.Inv where
  realtime := by decide
  control := by decide
  requests := by decide
  slopeQueue := by decide
  actuatorQueue := by decide
  echoes := by decide
  echoesAtTail := fun _ => rfl
  misses := by decide
  badFrames := by decide
  satRun := by decide
  safeOut := rfl
  counters := linked_counters
  memory := rfl
  oneLive := by intro h; cases h
  oneSwap := fun _ => rfl
  events := by decide
  entries := fun j => by
    show ((Table.blank : Table ActuatorEntry.powerOn).get j).ordered
    simp [ActuatorEntry.ordered, ActuatorEntry.powerOn]
  integrators := fun j _ => by
    show ((Table.blank : Table ActuatorEntry.powerOn).get j).admits ((Table.blank : Table (0 : Int)).get j)
    simp [ActuatorEntry.admits, ActuatorEntry.powerOn, toState]
  staged := by intro e h; cases h
  rings := by
    intro p
    cases p <;> exact ⟨by decide, by decide, by decide⟩
  slopeCounts := by
    intro p
    cases p <;> exact ⟨by decide, by decide⟩
  actuators := by decide
  deadlines := by decide

theorem witness_counters_never_fall : linked.Inv ∧ (∀ n, Instr.tiLinkUp ≠ .powerOnReset n) ∧ Instr.tiLinkUp ≠ .readCounters :=
  ⟨witness_laws, fun _ h => (nomatch h), by decide⟩

theorem witness_dram_bytes : (∀ n, Instr.telemetryRecordCommit ≠ .powerOnReset n) ∧
    ∀ b, (writing node .telemetryWrite true).arbiter.inProgress = some b → ¬(b.address ≤ 8 ∧ 8 < b.address + b.data.length) :=
  ⟨fun _ h => (nomatch h), by intro b h; cases h; decide⟩

theorem witness_link_down : (receiving.port .zero).linkUp = true ∧ (receiving.port .zero).reception.isSome = true
    ∧ (receiving.port .one).reception = none ∧ linked.trunk.tiUp = true ∧ linked.trunk.toUp = true
    ∧ linked.mirror.up = true ∧ linked.loop.state.applies = false := by decide +kernel

theorem witness_raise : hasEvent fatalSet .loopSafe = true ∧ ({ linked.events with reportEnable := false }).reportEnable = false
    ∧ linked.events.reportEnable = true ∧ linked.events.holdoff = none ∧ linked.mgmt.reset = .none
    ∧ hasEvent (linked.setPending .lateFrame).reportable .lateFrame = true
    ∧ hasEvent (linked.setPending .loopSafe).reportable .loopSafe = true := by decide +kernel

/-- A frame is being sent on TO. -/
def sending : State := { linked with trunk := { linked.trunk with sending := some ⟨⟨[1], true⟩, true⟩ } }

theorem witness_transmitter : sending.trunk.sending = some ⟨⟨[1], true⟩, true⟩ ∧ sending.trunk.toUp = true
    ∧ linked.trunk.sending = none := by decide

/-- Both TO queues with as many frames as asked. -/
def queued (realtime control : Nat) : State := { State.reset with
  trunk := ⟨false, false, List.replicate realtime ⟨[1], false⟩, List.replicate control ⟨[2], false⟩, none⟩ }

theorem witness_full_queues : (queued 24 16).trunk.toUp = false ∧ 16 ≤ (queued 24 16).trunk.control.length
    ∧ 24 ≤ (queued 24 16).trunk.realtime.length ∧ ¬16 ≤ (queued 23 15).trunk.control.length
    ∧ ¬24 ≤ (queued 23 15).trunk.realtime.length := by decide +kernel

theorem witness_header_received : (open7.port .zero).linkUp = true ∧ (open7.port .zero).reception = none
    ∧ headerHolds (headerOf 7 1 1) = true ∧ (open7.port .zero).state = .running
    ∧ 1 ≤ (headerDescriptor (headerOf 7 1 1)).count ∧ (headerDescriptor (headerOf 7 1 1)).count ≤ 256
    ∧ (headerDescriptor (headerOf 7 1 1)).first + (headerDescriptor (headerOf 7 1 1)).count = (open7.port .zero).config.slopeCount
    ∧ footprint (headerDescriptor (headerOf 7 1 1)).count ≤ (open7.port .zero).freeCount
    ∧ open7.ctxOfTag? (headerDescriptor (headerOf 7 1 1)).tag = some .zero ∧ (open7.ctx .zero).state = .assembling := by
  decide +kernel

/-- The node whose port 0 has `n` free words and a ring-full mode. -/
def crowded (n : Nat) (m : RingFullMode) : State := { open7 with
  ports := ⟨{ running with freeCount := n, config := { running.config with fullMode := m } }, running⟩ }

/-- The node with context 0 DONE. -/
def done7 : State := { open7 with frames := ⟨0, some 7, none, [], ⟨{ assembling with state := .done }, Context.free⟩⟩ }

/-- The node with no context open, a newest-opened tag, and no matrix. -/
def bare (t : Tag) : State := { node with
  frames := ⟨0, some t, none, [], ⟨Context.free, Context.free⟩⟩
  bankStore := ⟨⟨Bank.powerOn, Bank.powerOn⟩, none⟩ }

theorem witness_header_discarded : headerHolds [] = false ∧ (linked.port .zero).state ≠ .running
    ∧ ¬1 ≤ (headerDescriptor (headerOf 0 0 0)).count
    ∧ (open7.port .zero).config.slopeCount + 1 = (headerDescriptor (headerOf 8 1 0)).first + (headerDescriptor (headerOf 8 1 0)).count
    ∧ ((crowded 2 .drop).port .zero).freeCount < footprint (headerDescriptor (headerOf 0 1 0)).count
    ∧ ((crowded 2 .stop).port .zero).config.fullMode = .stop
    ∧ done7.ctxOfTag? (headerDescriptor (headerOf 0 1 0)).tag = some .zero ∧ (done7.ctx .zero).state ≠ .assembling
    ∧ (bare 7).ctxOfTag? 7 = none ∧ tagNewerThan 7 (bare 7).frames.newestOpened = false
    ∧ tagNewerThan 7 (bare 6).frames.newestOpened = true ∧ (bare 6).hasMatrix 7 = false := by decide +kernel

/-- The node with a swap to bank 1 scheduled at tag `t`. -/
def swapping (t : Tag) : State := { node with
  bankStore := ⟨⟨{ readyBank with state := .live }, { readyBank with swapMark := some (.tag t) }⟩, none⟩ }

theorem witness_opening : (node.ctx .zero).state = .free ∧ node.reachedSwap? 7 = none ∧ node.liveBank? = some .zero
    ∧ (open7.ctx .zero).state ≠ .free ∧ (open7.ctx .one).state = .free
    ∧ (swapping 7).reachedSwap? 7 = some .one ∧ (swapping 8).reachedSwap? 7 = none := by decide +kernel

/-- The contexts of the node, with the newest-opened tag 6. -/
def tagged (s : State) (x y : Context) : State := { s with frames := ⟨0, some 6, none, [], ⟨x, y⟩⟩ }

/-- Both contexts open: the older assembles tag 5, the newer has accumulated tag 6. -/
def full (s : State) : State :=
  tagged s { assembling with tag := 5 } { assembling with tag := 6, state := .accumulated, job := .ended }

theorem witness_opening_by_packet : (node.port .zero).linkUp = true ∧ (node.port .zero).reception = none
    ∧ headerHolds (headerOf 6 2 1) = true ∧ (node.port .zero).state = .running ∧ 1 ≤ (headerDescriptor (headerOf 6 2 1)).count
    ∧ (headerDescriptor (headerOf 6 2 1)).count ≤ 256
    ∧ (headerDescriptor (headerOf 6 2 1)).first + (headerDescriptor (headerOf 6 2 1)).count = (node.port .zero).config.slopeCount
    ∧ footprint (headerDescriptor (headerOf 6 2 1)).count ≤ (node.port .zero).freeCount
    ∧ (headerDescriptor (headerOf 6 2 1)).tag = 7 ∧ tagNewerThan 7 (some 6) = true
    ∧ (tagged node .free .free).reachedSwap? 7 = none ∧ (tagged node .free .free).liveBank? = some .zero
    ∧ ((tagged node .free .free).ctx .zero).state = .free ∧ ((full node).ctx .zero).state ≠ .free
    ∧ ((full node).ctx .one).state ≠ .free ∧ ((full node).ctx .zero).tag ≠ 7 ∧ ((full node).ctx .one).tag ≠ 7
    ∧ tagNewer ((full node).ctx Ix.zero.other).tag ((full node).ctx .zero).tag = true := by decide +kernel

theorem witness_opening_by_segment : (tagged middle7 .free .free).trunk.tiUp = true
    ∧ lengthsHold (trunkFrame 1 1 15 seg7.encode) = true ∧ crc32Holds (trunkFrame 1 1 15 seg7.encode) = true
    ∧ frameKind (trunkFrame 1 1 15 seg7.encode) = 1 ∧ (tagged middle7 .free .free).params.role = .middle
    ∧ formsSegment (framePayload (trunkFrame 1 1 15 seg7.encode)) = true ∧ (tagged middle7 .free .free).shapeAgrees seg7 = true
    ∧ Segment.decode (framePayload (trunkFrame 1 1 15 seg7.encode)) = seg7 ∧ tagNewerThan seg7.tag (some 6) = true
    ∧ (tagged middle7 .free .free).reachedSwap? 7 = none ∧ (tagged middle7 .free .free).liveBank? = some .zero
    ∧ ((tagged middle7 .free .free).ctx .zero).state = .free := by decide +kernel

theorem witness_displacement : (adding.ctx .zero).state = .assembling
    ∧ adding.engine.work = .packet .zero ⟨7, 0, 1, true, .zero⟩ 1
    ∧ (adding.arbiter.inProgress.map (fun b => b.job.isColumn)) = some true ∧ open7.arbiter.inProgress = none
    ∧ ({ open7 with engine := { open7.engine with work := .job .zero 3 } }).engine.work = .job .zero 3
    ∧ ((full node).ctx .one).state = .accumulated ∧ (full node).isTail = true ∧ done7.telemetry.inFlight = none
    ∧ (done7.ctx .zero).state = .done := by decide +kernel

theorem witness_packet_end : (receiving.port .zero).reception = some ⟨headerOf 0 2 1, ⟨7, 0, 2, true, .zero⟩⟩
    ∧ payloadHolds ⟨headerOf 0 2 1, ⟨7, 0, 2, true, .zero⟩⟩ (restOf (headerOf 0 2 1)) = true
    ∧ payloadHolds ⟨headerOf 0 2 1, ⟨7, 0, 2, true, .zero⟩⟩ [] = false
    ∧ receiving.stillOpen ⟨7, 0, 2, true, .zero⟩ = true ∧ receiving.stillOpen ⟨6, 0, 2, true, .zero⟩ = false := by decide +kernel

/-- The node with the packet held and its context CORRUPT. -/
def corrupt7 : State := holding.setCtx .zero ((holding.ctx .zero).addFlag .corrupt)

theorem witness_engine : holding.engine.work = .idle ∧ holding.frames.jobs = [] ∧ holding.nextRing? = some .zero
    ∧ (holding.port .zero).ring.get (holding.port .zero).readPos = .descriptor ⟨7, 1, 1, true, .zero⟩
    ∧ holding.stillOpen ⟨7, 1, 1, true, .zero⟩ = true ∧ (holding.ctx .zero).state = .assembling ∧ holding.fetches .zero = true
    ∧ ((holding.port .zero).slopeAt 0).toInt = 5 ∧ (holding.ctx .zero).seen.get (holding.localIndex .zero 1) = false
    ∧ clampInt (-32767) 32767 (5 - holding.engine.refs.get (holding.localIndex .zero 1)) ≠ 0
    ∧ (corrupt7.ctx .zero).isCorrupt = true
    ∧ ({ holding with frames := node.frames }).stillOpen ⟨7, 1, 1, true, .zero⟩ = false := by decide +kernel

/-- The node whose hold entry 0 has an age. -/
def aged (n : Nat) : State := { open7 with engine := { node.engine with hold := ⟨[(0, some ⟨9, n⟩)]⟩ } }

/-- A MIDDLE node with IDLE ports and the job of context 0 queued. -/
def jobQueued : State := { middle7 with
  ports := ⟨Port.powerOn, Port.powerOn⟩
  frames := { middle7.frames with jobs := [.zero] } }

theorem witness_substitution : Ix.zero = (aged 3).ownerOf 0 ∧ ((aged 3).port .zero).state ≠ .idle
    ∧ ((aged 3).port .zero).config.policy = .hold ∧ ((aged 3).holdEntry 0).age < ((aged 3).port .zero).config.holdLimit
    ∧ ((aged 4).port .zero).config.holdLimit = ((aged 4).holdEntry 0).age ∧ Ix.one = linked.ownerOf 0
    ∧ (linked.port .one).state = .idle := by decide +kernel

theorem witness_substitution_job : jobQueued.engine.work = .idle ∧ jobQueued.frames.jobs = [.zero]
    ∧ (∀ p : Ix, (jobQueued.port p).state = .idle ∨ (jobQueued.port p).config.policy = .zero) ∧ jobQueued.params.role = .middle
    ∧ 0 < jobQueued.params.actuators ∧ (jobQueued.ctx .zero).deliveryPending = false
    ∧ (jobQueued.ctx .zero).storedOrder = [] ∧ (jobQueued.ctx .zero).slots.get 0 = .empty :=
  ⟨rfl, rfl, by intro p; cases p <;> exact .inl rfl, rfl, by decide, rfl, rfl, rfl⟩

/-- The job of context 0 queued at a node whose hold entry 0 is 9 at age 0. -/
def jobHeld : State := { aged 0 with frames := { (aged 0).frames with jobs := [.zero] } }

/-- R17, R52: the first unseen index of a HOLD port with a held value fetches its column, and ages. -/
theorem test_held_value_fetches_its_column :
    after .substitutionJobRun jobHeld
      (fun t => t.engine.work == .job .zero 1 && t.engine.pass == some ⟨.zero, 0, 9⟩ && t.engine.hold.get 0 == some ⟨9, 1⟩
        && (t.arbiter.inProgress.map (fun b => (b.address, b.length, b.last))) == some (0, 8, true)
        && t.counter (.port .zero .substituted) == 1) = true := by decide +kernel

theorem witness_substitution_job_held : jobHeld.engine.work = .idle ∧ jobHeld.frames.jobs = [.zero]
    ∧ jobHeld.fillFetchedAt .zero 0 = true := by decide

theorem witness_awaits_segments : jobQueued.awaitsSegments .zero := ⟨rfl, by decide, rfl, rfl, rfl⟩

/-- The last burst of the column in hand, for the last slope of the packet in hand. -/
def adding2 : State := { adding with
  arbiter := { adding.arbiter with inProgress := some ⟨.columnFetch .zero .zero 0 0, 0, 4, [], true, false⟩ } }

theorem witness_column_burst : adding.arbiter.inProgress = some ⟨.columnFetch .zero .zero 0 0, 0, 4, [], false, false⟩
    ∧ (∀ k ∈ codewordsOf 0 4, (adding.strike []).dram.errors.get k ≠ .double) ∧ adding.engine.pass = some ⟨.zero, 0, 3⟩
    ∧ (∀ k ∈ codewordsOf 0 4, (adding.strike [⟨0, false⟩]).dram.errors.get k ≠ .double)
    ∧ adding.singles [⟨0, false⟩] ⟨.columnFetch .zero .zero 0 0, 0, 4, [], false, false⟩ = 1
    ∧ adding2.arbiter.inProgress = some ⟨.columnFetch .zero .zero 0 0, 0, 4, [], true, false⟩
    ∧ adding2.engine.work = .packet .zero ⟨7, 0, 1, true, .zero⟩ (Descriptor.count ⟨7, 0, 1, true, .zero⟩) := by decide +kernel

/-- The last burst of a column with the engine at something else in hand: a packet with slopes left, a job, or draining. -/
def goingOn (w : EngineWork) (dropped : Bool) : State := { adding2 with
  arbiter := { adding2.arbiter with inProgress := some ⟨.columnFetch .zero .zero 0 0, 0, 4, [], true, dropped⟩ }
  engine := { adding2.engine with work := w } }

/-- R15, R52: after the last burst of a column the engine goes on to the next slope of its packet that fetches. -/
theorem test_engine_goes_on_to_the_next_slope :
    after (.columnBurstDelivered []) { goingOn (.packet .zero ⟨7, 0, 2, true, .zero⟩ 1) false with
        ports := ⟨{ running with ring := ⟨[(0, .descriptor ⟨7, 0, 2, true, .zero⟩), (1, .descriptorRest), (2, .slopes 3 (some 5))]⟩
                                 visiblePos := 3, writePos := 3, freeCount := 8189 }, running⟩ }
      (fun t => t.engine.work == .packet .zero ⟨7, 0, 2, true, .zero⟩ 2 && t.engine.pass == some ⟨.zero, 1, 5⟩
        && (t.ctx .zero).sums.get 1 == 30 && (t.arbiter.inProgress.map Burst.address) == some 12288
        && (t.port .zero).freeCount == 8189) = true := by decide +kernel

theorem witness_engine_goes_on :
    (goingOn (.packet .zero ⟨7, 0, 2, true, .zero⟩ 1) false).arbiter.inProgress
      = some ⟨.columnFetch .zero .zero 0 0, 0, 4, [], true, false⟩
    ∧ (goingOn (.packet .zero ⟨7, 0, 2, true, .zero⟩ 1) false).engine.work = .packet .zero ⟨7, 0, 2, true, .zero⟩ 1
    ∧ (goingOn (.packet .zero ⟨7, 0, 2, true, .zero⟩ 1) false).engine.pass = some ⟨.zero, 0, 3⟩
    ∧ 1 ≤ Descriptor.count ⟨7, 0, 2, true, .zero⟩
    ∧ (goingOn (.job .zero 1) false).engine.work = .job .zero 1 ∧ 1 ≤ (goingOn (.job .zero 1) false).slopeTotal
    ∧ (goingOn (.draining (some (.zero, ⟨7, 0, 2, true, .zero⟩))) true).engine.work
      = .draining (some (.zero, ⟨7, 0, 2, true, .zero⟩))
    ∧ (goingOn (.draining none) true).arbiter.inProgress = some ⟨.columnFetch .zero .zero 0 0, 0, 4, [], true, true⟩
    ∧ (∀ k ∈ codewordsOf 0 4, ((goingOn (.job .zero 1) false).strike []).dram.errors.get k ≠ .double)
    ∧ (∃ k ∈ codewordsOf 0 4, ((goingOn (.job .zero 1) false).strike [⟨0, true⟩]).dram.errors.get k = .double)
    ∧ (goingOn (.job .zero 1) false).ctx .zero = assembling := by decide +kernel

theorem witness_uncorrectable_column : adding2.arbiter.inProgress = some ⟨.columnFetch .zero .zero 0 0, 0, 4, [], true, false⟩
    ∧ BurstJob.isColumn (.columnFetch .zero .zero 0 0) = true
    ∧ (∃ k ∈ codewordsOf 0 4, (adding2.strike [⟨0, true⟩]).dram.errors.get k = .double)
    ∧ adding2.engine.work = .packet .zero ⟨7, 0, 1, true, .zero⟩ 1 := by decide +kernel

/-- The node with context 0 ACCUMULATED, both deadlines running. -/
def accumulated7 : State := { middle7 with
  frames := { middle7.frames with ctxs := ⟨{ assembling with state := .accumulated, job := .ended }, Context.free⟩ } }

theorem witness_deadlines : (open7.ctx .zero).isOpen = true ∧ (open7.ctx .zero).asmRunning = true
    ∧ (open7.ctx .zero).delRunning = true ∧ (open7.ctx .zero).state = .assembling ∧ (open7.ctx .zero).job = .none
    ∧ (accumulated7.ctx .zero).isOpen = true ∧ (accumulated7.ctx .zero).delRunning = true
    ∧ (accumulated7.ctx .zero).state = .accumulated ∧ (open7.ctx .one).asmRunning = false
    ∧ (open7.ctx .one).delRunning = false := by decide +kernel

/-- The node with a request in execution and `n` more waiting. -/
def crowd (n : Nat) : State :=
  inExecution { node with mgmt := { node.mgmt with queue := List.replicate n (req 13 0 []) } } .pokeWrite true

theorem witness_requests_held : (crowd 7).trunk.tiUp = true ∧ (crowd 7).mgmt.queue.length + 1 = 8
    ∧ (crowd 7).mgmt.executing.isSome = true ∧ (crowd 6).mgmt.queue.length + 1 < 8 := by decide +kernel

theorem witness_trunk_frame : linked.trunk.tiUp = true ∧ lengthsHold [] = false
    ∧ lengthsHold (List.replicate 12 0) = true ∧ crc32Holds (List.replicate 12 0) = false
    ∧ lengthsHold (requestFrame 0 []) = true ∧ crc32Holds (requestFrame 0 []) = true ∧ frameKind (requestFrame 0 []) = 2
    ∧ frameDestination (requestFrame 0 []) = linked.nodeNumber.toNat ∧ frameDestination (requestFrame 15 []) = 15
    ∧ frameDestination (requestFrame 1 []) ≠ linked.nodeNumber.toNat ∧ linked.params.role = .solo := by decide +kernel

/-- A MIDDLE node that holds segment 0 of tag 7 already. -/
def stored7 : State := middle7.setCtx .zero
  { middle7.ctx .zero with slots := ⟨[(0, .stored seg7)]⟩, storedOrder := [0] }

theorem witness_segment : middle7.trunk.tiUp = true ∧ middle7.params.role = .middle
    ∧ lengthsHold (trunkFrame 1 1 15 seg7.encode) = true ∧ crc32Holds (trunkFrame 1 1 15 seg7.encode) = true
    ∧ frameKind (trunkFrame 1 1 15 seg7.encode) = 1 ∧ seg7 = Segment.decode (framePayload (trunkFrame 1 1 15 seg7.encode))
    ∧ formsSegment seg7.encode = true ∧ formsSegment [] = false ∧ middle7.shapeAgrees seg7 = true
    ∧ middle7.shapeAgrees { seg7 with actuators := 5 } = false ∧ middle7.ctxOfTag? seg7.tag = some .zero
    ∧ (middle7.ctx .zero).slots.get 0 = .empty ∧ (stored7.ctx .zero).slots.get 0 ≠ .empty
    ∧ done7.ctxOfTag? 7 = some .zero ∧ (done7.ctx .zero).state = .done ∧ (bare 6).ctxOfTag? 7 = none := by decide +kernel

theorem witness_merge : middle7.mergeCase (middle7.ctx .zero) { seg7 with label := 0 } = .contributes
    ∧ middle7.mergeCase (middle7.ctx .zero) seg7 = .mixed ∧ middle7.mergeCase (middle7.ctx .zero) { seg7 with mask := 1 } = .ownBitPresent
    ∧ corrupt7.mergeCase (corrupt7.ctx .zero) seg7 = .corrupt ∧ (∀ v ∈ seg7.sums, v.natAbs ≤ 70368744177664)
    ∧ (∀ v ∈ middle7.localSums (middle7.ctx .zero) seg7.index, v.natAbs ≤ 8796093022208) := by decide +kernel

/-- A node in a role, its TO DOWN, with `n` segments waiting, and segment 0 of the frame stored or not. -/
def forcing (role : Role) (n : Nat) (held : Bool) : State :=
  { accumulated7 with
    params := { accumulated7.params with role := role }
    trunk := { accumulated7.trunk with toUp := false, realtime := List.replicate n ⟨[1], false⟩ }
    frames := ⟨0, some 7, none, [], ⟨{ assembling with
      state := .accumulated, job := .ended, slots := ⟨if held then [(0, .stored seg7)] else []⟩,
      storedOrder := if held then [0] else [] }, Context.free⟩⟩ }

theorem witness_forced_merge : (forcing .middle 23 true).params.role = .middle ∧ (forcing .tail 23 false).params.role = .tail
    ∧ ((forcing .middle 23 true).ctx .zero).state = .accumulated ∧ ((forcing .middle 23 true).ctx .zero).delRunning = true
    ∧ (forcing .middle 23 true).trunk.toUp = false ∧ ((forcing .middle 23 true).ctx .zero).storedOrder = [0]
    ∧ ((forcing .middle 23 true).ctx .zero).slots.get 0 = .stored seg7 ∧ seg7.index = 0
    ∧ (List.range (segmentCount (forcing .middle 23 true).params.actuators)).filter
        (fun i => ((forcing .middle 23 true).ctx .zero).slots.get i == .empty) = []
    ∧ (forcing .middle 23 true).trunk.realtime.length + 1 + 0 = 24
    ∧ (List.range (segmentCount (forcing .tail 23 false).params.actuators)).filter
        (fun i => ((forcing .tail 23 false).ctx .zero).slots.get i == .empty) = [0]
    ∧ ((forcing .tail 23 false).ctx .zero).storedOrder = [] := by decide +kernel

theorem witness_rounding : 0 < 2 ∧ 2 * ((5 : Int) - 2 * roundRN 5 2).natAbs = 2 := by decide

theorem witness_integrator_bounds : (-2147483648 : Int).natAbs ≤ 2147483648 ∧ 65536 ≤ 65536 ∧ 32768 ≤ 32768 := by decide

/-- Tables with override range 7 freezing actuator 6143, and slave record 0 in use. -/
def classed : Tables := { Tables.powerOn with
  overrides := ⟨[(7, ⟨6143, 1, .frozen, true⟩)]⟩
  slaves := ⟨[(0, ⟨2, [0, 1]⟩)]⟩
  effective := ⟨[(1, .frozen), (2, .slaved), (3, .dead), (4, .slaved)]⟩ }

theorem witness_effective_class : 6143 < 6144 ∧ (classed.overrides.get 7).enabled = true ∧ (classed.overrides.get 7).first ≤ 6143
    ∧ 6143 < (classed.overrides.get 7).first + (classed.overrides.get 7).count := by decide

theorem witness_applied_frame : linked.Inv ∧ linked.mirror.up = true ∧ linked.mirror.sending = none :=
  ⟨witness_laws, rfl, rfl⟩

theorem witness_neighbour_pair : [(100 : Int), 0, 0, 0].length = 4 ∧ 4 ≤ 4 ∧ ¬4 ≤ 3
    ∧ classed.effective.get 3 = .dead ∧ (classed.effective.get 0).movable = true ∧ (classed.effective.get 1).movable = false
    ∧ (classed.effective.get 2).movable = true ∧ ¬((100 : Int) - 0).natAbs ≤ 99 ∧ ((100 : Int) - 0).natAbs ≤ 100 := by decide

theorem witness_classes : classed.effective.get 0 = .active ∧ classed.effective.get 1 = .frozen
    ∧ classed.effective.get 3 = .dead ∧ classed.effective.get 2 = .slaved ∧ (classed.slaves.get 0).masters ≠ []
    ∧ (classed.slaves.get 0).slave = 2 ∧ classed.effective.get 4 = .slaved
    ∧ (classed.slaves.get 0).slave ≠ 4 ∧ (classed.slaves.get 511).masters = [] := by decide

/-- The loop HELD with everything ready for LOOP CLOSE asked. -/
def askedToClose : State := asked { node with loop := { node.loop with state := .held } } (req 8 2 [])

theorem witness_bad_frames : closed.loop.state = .closed ∧ node.loop.state ≠ .closed ∧ closed.loop.snapshotState ≠ .held
    ∧ askedToClose.oldest? .loopClose = some (req 8 2 []) ∧ askedToClose.isTail = true ∧ (req 8 2 []).body = []
    ∧ askedToClose.loop.state.closes = true ∧ askedToClose.loopReady = true
    ∧ ({ open7 with mgmt := { open7.mgmt with reset := .due } }).mgmt.reset = .due := by decide +kernel

theorem witness_bad_frames_trip : closed.params.kBad ≤ min (({ closed with loop := { closed.loop with badFrames := 15 } }).loop.badFrames + 1) 255
    ∧ ¬closed.params.kBad ≤ min (({ closed with loop := { closed.loop with badFrames := 14 } }).loop.badFrames + 1) 255
    ∧ linked.Inv := ⟨by decide, by decide, witness_laws⟩

/-- A CLOSED loop with a saturation run of `n`. -/
def saturated (n : Nat) : State := { closed with loop := { closed.loop with satRun := n } }

theorem witness_saturation : (saturated 49).loop.state = .closed ∧ (saturated 49).params.saturationLimit < 257
    ∧ ¬(saturated 49).params.saturationLimit < 256 ∧ (saturated 49).params.saturationFrames ≤ min ((saturated 49).loop.satRun + 1) 1000
    ∧ ¬(saturated 48).params.saturationFrames ≤ min ((saturated 48).loop.satRun + 1) 1000
    ∧ (saturated 49).loop.snapshotState ≠ .held := by decide

theorem witness_entry_to_safe : node.loop.state = .off ∧ closed.loop.state ≠ .off ∧ closed.loop.state ≠ .safe
    ∧ closed.mirror.up = true ∧ closed.mirror.sending = none := by decide

/-- A CLOSED loop with one echo outstanding and `n` misses counted. -/
def missing (n : Nat) : State := { closed with mirror := { closed.mirror with echoes := [⟨.command, 9, 1000⟩], misses := n } }

theorem witness_mirror_loss : (missing 7).loop.state.applies = true ∧ (missing 7).isPending .mirrorLinkLost = false
    ∧ (missing 7).mirror.up = true
    ∧ takeSoonest (missing 7).now EchoEntry.expiry (missing 7).mirror.echoes = some (⟨.command, 9, 1000⟩, [])
    ∧ (missing 7).params.echoMissLimit ≤ min ((missing 7).mirror.misses + 1) 64
    ∧ ¬(missing 6).params.echoMissLimit ≤ min ((missing 6).mirror.misses + 1) 64 := by decide +kernel

/-- A SAFE loop whose park refresh timer runs. -/
def parked : State := { closed with safeOut := true, loop := { closed.loop with state := .safe, parkRefresh := some 5 } }

/-- A CLOSED loop whose starvation timer runs. -/
def starving : State := { closed with loop := { closed.loop with starvation := some 0 } }

theorem witness_loop_timers : parked.loop.state = .safe ∧ parked.loop.parkRefresh = some 5 ∧ parked.mirror.up = true
    ∧ parked.mirror.sending = none ∧ starving.loop.state.applies = true ∧ starving.loop.starvation = some 0
    ∧ closed.loop.state ≠ .safe ∧ parked.loop.state.applies = false := by decide

/-- A frame being sent on ML, with `n` echoes outstanding, outside OPEN and CLOSED. -/
def mlBusy (n : Nat) : State := { node with mirror := { node.mirror with
  sending := some ⟨.command, 9, [], true⟩, echoes := List.replicate n ⟨.shape, 1, 50⟩ } }

theorem witness_mirror_sends : (mlBusy 3).mirror.sending = some ⟨.command, 9, [], true⟩ ∧ (mlBusy 3).mirror.echoes.length < 4
    ∧ (mlBusy 4).mirror.sending = some ⟨.command, 9, [], true⟩ ∧ (mlBusy 4).loop.state.applies = false
    ∧ ({ mlBusy 4 with params := { node.params with role := .head } }).isTail = false
    ∧ (mlBusy 4).mirror.up = true ∧ node.mirror.up = true ∧ node.mirror.sending = none ∧ State.reset.mirror.up = false := by decide

theorem witness_echo : (missing 0).mirror.up = true ∧ echoHolds [] = false
    ∧ echoHolds (sealFrame [3, 0, 9, 0, 1, 4, 0, 0]) = true
    ∧ (∀ e ∈ (missing 0).mirror.echoes, e.answersTo 2 9 = false)
    ∧ ¬(∀ e ∈ (missing 0).mirror.echoes, e.answersTo 1 9 = false) ∧ (missing 0).isPending .driverFault = false
    ∧ (mlBusy 1).loop.state.applies = false
    ∧ takeSoonest (mlBusy 1).now EchoEntry.expiry (mlBusy 1).mirror.echoes = some (⟨.shape, 1, 50⟩, []) := by decide +kernel

/-- A poke record fetch in progress. -/
def pokeFetching : State := fetching awaiting (.pokeFetch 0) true

theorem witness_poke_fetch : pokeFetching.arbiter.inProgress = some ⟨.pokeFetch 0, 0, 16, [], true, false⟩
    ∧ (BurstJob.pokeFetch 0).isPoke = true ∧ pokeFetching.poke = some ⟨0, none, .push, 0, none⟩
    ∧ (fetching closed (.pokeFetch 0) true).poke = none
    ∧ (∀ k ∈ codewordsOf 0 16, (pokeFetching.strike [⟨1, false⟩]).dram.errors.get k ≠ .double)
    ∧ pokeFetching.singles [⟨1, false⟩] ⟨.pokeFetch 0, 0, 16, [], true, false⟩ = 1
    ∧ (∃ k ∈ codewordsOf 0 16, (pokeFetching.strike [⟨1, true⟩]).dram.errors.get k = .double) := by decide +kernel

/-- A load of segment 11 of column 3 whose last burst is in progress. -/
def loading : State := writing (inExecution node (.loadColumn .one 3 11 1) true) .loadColumn true

theorem witness_load_end : loading.mgmt.executing = some ⟨req 1 0 [], 0, 100000, true, .loadColumn .one 3 11 1⟩ ∧ 11 + 1 ≤ 12
    ∧ loading.arbiter.inProgress = some ⟨.loadColumn, 0, 8, [1, 2, 3, 4, 5, 6, 7, 8], true, false⟩ := by decide

/-- The last read burst of a request in execution. -/
def readingLast (x : Transfer) (j : BurstJob) : State := fetching (inExecution node x true) j true

/-- The last write burst of poke records of a request in execution. -/
def pokeWriting : State := writing (inExecution node .pokeWrite true) .pokeRecordWrite true

theorem witness_read_ends :
    (readingLast (.readback .one 0 0) .readback).mgmt.executing = some ⟨req 1 0 [], 0, 100000, true, .readback .one 0 0⟩
    ∧ (readingLast (.readback .one 0 0) .readback).arbiter.inProgress = some ⟨.readback, 0, 16, [], true, false⟩
    ∧ (readingLast (.pokeRead []) .pokeRecordRead).arbiter.inProgress = some ⟨.pokeRecordRead, 0, 16, [], true, false⟩
    ∧ (readingLast (.pokeRead []) .pokeRecordRead).mgmt.executing = some ⟨req 1 0 [], 0, 100000, true, .pokeRead []⟩
    ∧ pokeWriting.mgmt.executing = some ⟨req 1 0 [], 0, 100000, true, .pokeWrite⟩
    ∧ pokeWriting.arbiter.inProgress = some ⟨.pokeRecordWrite, 0, 8, [1, 2, 3, 4, 5, 6, 7, 8], true, false⟩
    ∧ (∀ k ∈ codewordsOf 0 16, (node.strike [⟨0, false⟩, ⟨1, false⟩]).dram.errors.get k ≠ .double)
    ∧ node.singles [⟨0, false⟩, ⟨1, false⟩] ⟨.readback, 0, 16, [], true, false⟩ = 2
    ∧ (∃ k ∈ codewordsOf 0 16, (node.strike [⟨0, true⟩, ⟨1, false⟩]).dram.errors.get k = .double)
    ∧ node.singles [⟨0, true⟩, ⟨1, false⟩] ⟨.readback, 0, 16, [], true, false⟩ = 1 := by decide +kernel

/-- A record of one unit in flight from context 0, its last burst in progress. -/
def committing (c : CaptureState) (m : CaptureFullMode) : State := writing { done7 with telemetry := { done7.telemetry with
  inFlight := some ⟨.zero, 1⟩, state := c, remaining := 1, config := { done7.telemetry.config with fullMode := m } } }
  .telemetryWrite true

/-- A read of the one held record whose last burst is in progress. -/
def readingRecord : State := fetching (inExecution { node with telemetry := { node.telemetry with lengths := [1] } }
  (.readTelemetry [⟨0, 1, []⟩]) true) (.telemetryRead 0) true

/-- The smallest ring, with one record of one unit held and the largest record in flight. -/
def smallRing : State := { committing .triggered .wrap with telemetry := { (committing .triggered .wrap).telemetry with
  inFlight := some ⟨.zero, 1281⟩, lengths := [1], remaining := 2,
  config := { done7.telemetry.config with ringStart := 4, ringEnd := 2566 } } }

theorem witness_telemetry : (committing .triggered .stop).telemetry.inFlight = some ⟨.zero, 1⟩
    ∧ ((committing .triggered .stop).ctx .zero).state = .done
    ∧ (committing .triggered .stop).arbiter.inProgress = some ⟨.telemetryWrite, 0, 8, [1, 2, 3, 4, 5, 6, 7, 8], true, false⟩
    ∧ (committing .triggered .stop).telemetry.config.fullMode = .stop ∧ (committing .triggered .stop).telemetry.state = .triggered
    ∧ (committing .triggered .stop).telemetry.remaining ≤ 1 ∧ (committing .running .wrap).telemetry.config.fullMode = .wrap
    ∧ (committing .running .wrap).telemetry.config.ringStart + 2562 ≤ (committing .running .wrap).telemetry.config.ringEnd
    ∧ (⟨.zero, 1⟩ : RecordWrite).units ≤ 1281 ∧ (committing .running .wrap).telemetry.state = .running
    ∧ smallRing.telemetry.inFlight = some ⟨.zero, 1281⟩ ∧ smallRing.telemetry.config.ringStart + 2562 = smallRing.telemetry.config.ringEnd
    ∧ smallRing.telemetry.lengths = [1] ∧ smallRing.arbiter.inProgress = (committing .triggered .wrap).arbiter.inProgress
    ∧ 1 < smallRing.telemetry.remaining
    ∧ readingRecord.singles [⟨0, false⟩] ⟨.telemetryRead 0, 0, 16, [], true, false⟩ = 1
    ∧ (∃ k ∈ codewordsOf 0 16, (readingRecord.strike [⟨0, true⟩]).dram.errors.get k = .double)
    ∧ readingRecord.mgmt.executing = some ⟨req 1 0 [], 0, 100000, true, .readTelemetry [⟨0, 1, []⟩]⟩
    ∧ readingRecord.arbiter.inProgress = some ⟨.telemetryRead 0, 0, 16, [], true, false⟩
    ∧ (∀ k ∈ codewordsOf 0 16, (readingRecord.strike [⟨0, false⟩]).dram.errors.get k ≠ .double) := by decide +kernel

theorem witness_other_bursts : (writing node .telemetryWrite false).arbiter.inProgress
      = some ⟨.telemetryWrite, 0, 8, [1, 2, 3, 4, 5, 6, 7, 8], false, false⟩
    ∧ (writing node .loadColumn false).arbiter.inProgress
      = some ⟨.loadColumn, 0, 8, [1, 2, 3, 4, 5, 6, 7, 8], false, false⟩ := by decide

/-- A read burst in the middle of a request in execution. -/
def readingMiddle (x : Transfer) (j : BurstJob) : State := fetching (inExecution node x true) j false

/-- A read burst that has been given up. -/
def givenUp (j : BurstJob) : State := { node with
  arbiter := { node.arbiter with inProgress := some ⟨j, 0, 16, [], true, true⟩ } }

theorem witness_middle_bursts :
    (writing (inExecution node .pokeWrite true) .pokeRecordWrite false).mgmt.executing
      = some ⟨req 1 0 [], 0, 100000, true, .pokeWrite⟩
    ∧ (readingMiddle (.pokeRead []) .pokeRecordRead).arbiter.inProgress = some ⟨.pokeRecordRead, 0, 16, [], false, false⟩
    ∧ (readingMiddle (.pokeRead []) .pokeRecordRead).mgmt.executing = some ⟨req 1 0 [], 0, 100000, true, .pokeRead []⟩
    ∧ (readingMiddle (.readTelemetry [⟨0, 1, []⟩]) (.telemetryRead 0)).arbiter.inProgress
      = some ⟨.telemetryRead 0, 0, 16, [], false, false⟩
    ∧ (readingMiddle (.readTelemetry [⟨0, 1, []⟩]) (.telemetryRead 0)).mgmt.executing
      = some ⟨req 1 0 [], 0, 100000, true, .readTelemetry [⟨0, 1, []⟩]⟩
    ∧ (givenUp (.telemetryRead 0)).arbiter.inProgress = some ⟨.telemetryRead 0, 0, 16, [], true, true⟩
    ∧ (givenUp .readback).arbiter.inProgress = some ⟨.readback, 0, 16, [], true, true⟩
    ∧ (∃ k ∈ codewordsOf 0 16, ((givenUp .readback).strike [⟨1, true⟩]).dram.errors.get k = .double)
    ∧ (∀ k ∈ codewordsOf 0 16, ((givenUp .readback).strike []).dram.errors.get k ≠ .double) := by decide +kernel

/-- R178: the bytes of a middle burst join their record, and nothing is answered. -/
theorem test_middle_read_burst_joins_its_record :
    after (.dramBurstComplete []) (readingMiddle (.pokeRead [1]) .pokeRecordRead)
      (fun t => t.trunk == node.trunk && t.arbiter.inProgress.isNone
        && (t.mgmt.executing.map (fun e => match e.transfer with | .pokeRead d => d.length | _ => 0)) == some 17) = true := by
  decide +kernel

/-- A staged write in each queue, and the event holdoff running. -/
def waiting : State := { node with
  mgmt := { node.mgmt with
    slopeQueue := [⟨req 2 0 [3], 0, 100000, .references 0 [1]⟩]
    actuatorQueue := [⟨req 2 0 [9], 0, 100000, .openShape 0 [1]⟩] }
  events := { node.events with holdoff := some 0, pending := 1 } }

theorem witness_watchdogs :
    (inExecution node .pokeWrite true).mgmt.executing = some ⟨req 1 0 [], 0, 100000, true, .pokeWrite⟩
    ∧ (inExecution node .pokeWrite false).mgmt.executing = some ⟨req 1 0 [], 0, 100000, false, .pokeWrite⟩
    ∧ takeSoonest waiting.now StagedEntry.moment waiting.mgmt.slopeQueue
      = some (⟨req 2 0 [3], 0, 100000, .references 0 [1]⟩, [])
    ∧ takeSoonest waiting.now StagedEntry.moment waiting.mgmt.actuatorQueue
      = some (⟨req 2 0 [9], 0, 100000, .openShape 0 [1]⟩, [])
    ∧ waiting.events.holdoff = some 0 ∧ waiting.events.reportEnable = true ∧ waiting.mgmt.reset = .none
    ∧ waiting.reportable ≠ 0 := by decide +kernel

/-- A READ OBJECT of an object, first index and count. -/
def read (o : Byte) (first count : List Byte) : Request := req 1 0 ([o, 0, 0, 0] ++ first ++ count)

theorem witness_reads : (asked node (read 0 [0, 0, 0, 0] [0, 0, 0, 0])).oldest? .readObject = some (read 0 [0, 0, 0, 0] [0, 0, 0, 0])
    ∧ (asked node (req 1 1 [])).oldest? .readObject = some (req 1 1 []) ∧ (req 1 1 []).form ≠ 0
    ∧ (asked node (req 1 0 [])).oldest? .readObject = some (req 1 0 []) ∧ (req 1 0 []).body = []
    ∧ (asked node (read 20 [0, 0, 0, 0] [0, 0, 0, 0])).oldest? .readObject = some (read 20 [0, 0, 0, 0] [0, 0, 0, 0])
    ∧ 19 < (read 20 [0, 0, 0, 0] [0, 0, 0, 0]).field 0 1 ∧ (read 0 [0, 0, 0, 0] [0, 0, 0]).body.length = 11
    ∧ (req 1 0 [3, 2, 0, 0, 0, 0, 0, 0, 1, 0, 0, 0]).field 1 1 = 2 ∧ (req 1 0 [3, 1, 0, 0, 0, 0, 0, 0, 1, 0, 0, 0]).field 1 1 = 1
    ∧ (read 4 [0xFF, 0x17, 0, 0] [1, 0, 0, 0]).field 4 4 + (read 4 [0xFF, 0x17, 0, 0] [1, 0, 0, 0]).field 8 4 = 6144
    ∧ 6144 < (read 4 [0xFF, 0x17, 0, 0] [2, 0, 0, 0]).field 4 4 + (read 4 [0xFF, 0x17, 0, 0] [2, 0, 0, 0]).field 8 4
    ∧ (asked node (read 18 [141, 0, 0, 0] [1, 0, 0, 0])).oldest? .readCounters = some (read 18 [141, 0, 0, 0] [1, 0, 0, 0])
    ∧ (asked node (req 1 0 [18, 1, 0, 0, 141, 0, 0, 0, 1, 0, 0, 0])).oldest? .readCounters
      = some (req 1 0 [18, 1, 0, 0, 141, 0, 0, 0, 1, 0, 0, 0])
    ∧ (req 1 0 [18, 1, 0, 0, 141, 0, 0, 0, 1, 0, 0, 0]).field 1 1 = 1 := by decide +kernel

/-- The body of the answer to a read of the node. -/
theorem test_read_of_last_outputs :
    { node with lastApplied := some 9, tables := { node.tables with lastOutputs := ⟨[(6143, -2)]⟩ } }.objectBody 14 6143 1
      = [9, 0, 1, 0, 0xFE, 0xFF] := by decide +kernel

/-- The node with segment 0 of column 15 of bank 0 marked. -/
def covered : State := node.setBank .zero { node.bank .zero with coverage := ⟨[(180, true)]⟩ }

/-- A readback of segment 0 of column 15 asked. -/
def readback : State := asked node (read 12 [0, 0, 0, 0] [240, 0, 0, 0])

theorem witness_readbacks :
    readback.oldest? .readMatrixColumnSegment = some (read 12 [0, 0, 0, 0] [240, 0, 0, 0])
    ∧ (read 12 [0, 0, 0, 0] [240, 0, 0, 0]).form = 0 ∧ (read 12 [0, 0, 0, 0] [240, 0, 0, 0]).body.length = 12
    ∧ (read 12 [0, 0, 0, 0] [240, 0, 0, 0]).field 1 1 = 0
    ∧ Ix.ofNat? ((read 12 [0, 0, 0, 0] [240, 0, 0, 0]).field 4 4) = some .zero ∧ (readback.bank .zero).state ≠ .empty
    ∧ (read 12 [0, 0, 0, 0] [240, 0, 0, 0]).field 8 4 / 16 + 1 = (readback.bank .zero).nb
    ∧ (read 12 [0, 0, 0, 0] [240, 0, 0, 0]).field 8 4 % 16 < segmentCount (readback.bank .zero).ab
    ∧ (readback.bank .zero).covered 15 0 = false
    ∧ ((asked covered (read 12 [0, 0, 0, 0] [240, 0, 0, 0])).bank .zero).covered 15 0 = true := by decide +kernel

/-- A LOAD COLUMN of all four actuators of column 0 of bank 1. -/
def loadRequest : Request := req 4 0 [1, 0, 0, 0, 0, 0, 4, 0, 1, 0, 2, 0, 3, 0, 4, 0]

/-- A WRITE OBJECT of poke record 1023, with one entry and END. -/
def pokeRequest : Request := req 2 0 ([10, 0, 0, 0, 0xFF, 3, 0, 0] ++ [1, 0, 1, 0, 0xFF, 0xFF, 0, 0] ++ List.replicate 120 0)

theorem witness_arbiter_requests : (asked node loadRequest).oldest? .loadColumn = some loadRequest ∧ loadRequest.form = 0
    ∧ 8 ≤ loadRequest.body.length ∧ loadRequest.body.length = 8 + 2 * loadRequest.loadCount ∧ loadRequest.bank? = some .one
    ∧ ((asked node loadRequest).bank .one).state = .ready ∧ ((asked node loadRequest).bank .one).useCount = 0 ∧ ((asked node loadRequest).bank .one).swapMark = none
    ∧ loadRequest.loadFits ((asked node loadRequest).bank .one) = true
    ∧ (asked node (read 10 [0xFF, 3, 0, 0] [1, 0, 0, 0])).oldest? .readPokeRecords = some (read 10 [0xFF, 3, 0, 0] [1, 0, 0, 0])
    ∧ (read 10 [0xFF, 3, 0, 0] [1, 0, 0, 0]).form = 0 ∧ (read 10 [0xFF, 3, 0, 0] [1, 0, 0, 0]).body.length = 12
    ∧ (read 10 [0xFF, 3, 0, 0] [1, 0, 0, 0]).field 1 1 = 0 ∧ 1 ≤ (read 10 [0xFF, 3, 0, 0] [1, 0, 0, 0]).field 8 4
    ∧ (read 10 [0xFF, 3, 0, 0] [1, 0, 0, 0]).field 4 4 + (read 10 [0xFF, 3, 0, 0] [1, 0, 0, 0]).field 8 4 = 1024
    ∧ (asked node loadRequest).arbiter = ⟨[], [], [], [], [], none⟩ ∧ (asked adding loadRequest).arbiter.inProgress.isSome = true
    ∧ (asked node pokeRequest).oldest? .writePokeRecords = some pokeRequest ∧ pokeRequest.form = 0
    ∧ 8 < pokeRequest.body.length ∧ (pokeRequest.body.length - 8) % 128 = 0
    ∧ pokeRequest.first + (pokeRequest.elementsOf 8 128).length = 1024
    ∧ (pokeRequest.elementsOf 8 128).all recordValuesHold = true ∧ (pokeRequest.elementsOf 8 128).all recordActuatorsHold = true
    ∧ (asked node pokeRequest).pokeRunFree pokeRequest.first (pokeRequest.elementsOf 8 128).length = true := by decide +kernel

theorem witness_read_telemetry : (asked node (req 12 0 [1, 0, 0, 0])).oldest? .readTelemetry = some (req 12 0 [1, 0, 0, 0])
    ∧ (req 12 0 [1, 0, 0, 0]).body.length = 4 ∧ 1 ≤ (req 12 0 [1, 0, 0, 0]).field 0 2 ∧ (asked node (req 12 0 [1, 0, 0, 0])).telemetry.lengths = []
    ∧ ({ node.telemetry with lengths := [1281] }).lengths = 1281 :: [] ∧ 32 * 1281 ≤ 49140 ∧ (req 12 0 [1, 0, 0, 0]).form = 0
    ∧ node.telemetry.config.ringStart ≤ node.telemetry.readPos ∧ node.telemetry.readPos < node.telemetry.config.ringEnd := by decide +kernel

/-- A WRITE OBJECT of the node parameters that sets one item. -/
def setParam (i v : Byte) : Request := req 2 0 [0, 0, 0, 0, i, 0, 0, 0, v, 0, 0, 0]

theorem witness_parameters : (asked node (setParam 5 20)).oldest? .writeNodeParameters = some (setParam 5 20)
    ∧ firstFailure ((asked node (setParam 5 20)).paramChecks (setParam 5 20)) = none ∧ (setParam 5 20).items = [(5, 20)]
    ∧ firstFailure ((asked node (setParam 0 3)).paramChecks (setParam 0 3)) = some .wrongState ∧ (asked node (setParam 0 3)).quiet = false
    ∧ firstFailure ((asked linked (setParam 0 3)).paramChecks (setParam 0 3)) = none
    ∧ firstFailure ((asked linked (setParam 0 1)).paramChecks (setParam 0 1)) = none ∧ (asked linked (setParam 0 1)).isTail = true
    ∧ (asked linked (setParam 0 1)).oldest? .writeNodeParameters = some (setParam 0 1)
    ∧ firstFailure ((asked linked (setParam 1 0)).paramChecks (setParam 1 0)) = some .badValue := by decide +kernel

/-- A WRITE OBJECT of the node parameters that sets K_bad to 20 and D_max to 300. -/
def setTwoParams : Request := req 2 0 [0, 0, 0, 0, 5, 0, 0, 0, 20, 0, 0, 0, 11, 0, 0, 0, 44, 1, 0, 0]

theorem witness_two_parameters : (asked node setTwoParams).oldest? .writeNodeParameters = some setTwoParams
    ∧ firstFailure ((asked node setTwoParams).paramChecks setTwoParams) = none
    ∧ lastItem setTwoParams.items 5 = some 20 ∧ lastItem setTwoParams.items 11 = some 300
    ∧ lastItem setTwoParams.items 6 = none := by decide +kernel

/-- A WRITE OBJECT of the configuration of port 0 that sets one item. -/
def setPortItem (i v : Byte) : Request := req 2 0 [1, 0, 0, 0, i, 0, 0, 0, v, 0, 0, 0]

theorem witness_port_configuration :
    (asked linked (setPortItem 0 1)).oldest? .writePortConfiguration = some (setPortItem 0 1)
    ∧ firstFailure ((asked linked (setPortItem 0 1)).portChecks (setPortItem 0 1)) = none ∧ (setPortItem 0 1).stagedPort = none
    ∧ (setPortItem 0 1).portOf = .zero
    ∧ (((asked linked (setPortItem 0 1)).port .zero).config.setNow (setPortItem 0 1).items).enabled ≠ ((asked linked (setPortItem 0 1)).port .zero).config.enabled
    ∧ (setPortItem 3 255).stagedPort = some (.portPolicy .zero none (some 255))
    ∧ firstFailure ((asked node (setPortItem 3 255)).portChecks (setPortItem 3 255)) = none ∧ (asked node (setPortItem 3 255)).liveBank?.isSome = true
    ∧ (asked node (setPortItem 3 255)).mgmt.slopeQueue.length < 32 ∧ (asked linked (setPortItem 3 255)).liveBank?.isSome = false ∧ (asked linked (setPortItem 3 255)).anyOpen = false
    ∧ firstFailure ((asked linked (setPortItem 3 255)).portChecks (setPortItem 3 255)) = none ∧ (asked linked (setPortItem 3 255)).mgmt.slopeQueue = [] := by decide +kernel

/-- A WRITE OBJECT of a table from a first index on. -/
def table (o : Byte) (first : List Byte) (run : List Byte) : Request := req 2 0 ([o, 0, 0, 0] ++ first ++ run)

/-- The last actuator entry, with limits 0 and 9 and park 5. -/
def actuatorRun : Request := table 4 [0xFF, 0x17, 0, 0] [0, 0, 9, 0, 5, 0, 1, 15]

theorem witness_staged_actuators : actuatorRun.form = 0
    ∧ (asked node actuatorRun).oldest? .writeActuatorEntries = some actuatorRun ∧ (actuatorRun.holdsRun 8).1 = true
    ∧ (actuatorRun.runWithin 8 6144).1 = true
    ∧ ((actuatorRun.elementsOf 8 8).map ActuatorEntry.decode?).all Option.isSome = true
    ∧ (asked closed actuatorRun).loop.state.applies = true ∧ (asked node actuatorRun).loop.state.applies = false := by decide +kernel

/-- Gain profile 15 at its greatest gain and leak. -/
def gainRun : Request := table 5 [15, 0, 0, 0] [0, 0x80, 0, 0, 0, 0, 1, 0]

/-- Override range 7 over actuators 3 to 3. -/
def overrideRun : Request := table 6 [7, 0, 0, 0] [3, 0, 1, 0, 1, 1, 0, 0]

/-- Slave record 511 with four masters. -/
def slaveRun : Request := table 7 [0xFF, 1, 0, 0] [0, 0, 4, 0, 1, 0, 2, 0, 3, 0, 0xFF, 0x17]

theorem witness_staged_tables : (asked node gainRun).oldest? .writeGainProfiles = some gainRun ∧ (gainRun.holdsRun 8).1 = true
    ∧ (gainRun.runWithin 8 16).1 = true ∧ ((gainRun.elementsOf 8 8).map GainProfile.decode).all GainProfile.inRange = true
    ∧ (asked node overrideRun).oldest? .writeOverrideRanges = some overrideRun ∧ (overrideRun.holdsRun 8).1 = true
    ∧ (overrideRun.runWithin 8 8).1 = true
    ∧ (∀ e ∈ overrideRun.elementsOf 8 8, overrideFits (asked node overrideRun).params.actuators e = true ∧ (OverrideRange.decode? e).isSome = true)
    ∧ (asked node slaveRun).oldest? .writeSlaveRecords = some slaveRun ∧ (slaveRun.holdsRun 12).1 = true
    ∧ (slaveRun.runWithin 12 512).1 = true
    ∧ (∀ e ∈ slaveRun.elementsOf 8 12, fieldAt e 2 1 ≤ 4 ∧ (SlaveRecord.decode e).inRange = true) := by decide +kernel

/-- Neighbour pair 16383, of actuators 0 and 6143, with a pair count of 16384. -/
def pairRun : Request := req 2 0 [8, 0, 0, 0, 0, 0x40, 0, 0, 0xFF, 0x3F, 0, 0, 0, 0, 0xFF, 0x17]

/-- The open shape of actuator 6143. -/
def shapeRun : Request := table 9 [0xFF, 0x17, 0, 0] [0, 0x80]

/-- Reference slope 8191. -/
def referenceRun : Request := table 3 [0xFF, 0x1F, 0, 0] [1, 0x80]

theorem witness_staged_lists : (asked node pairRun).oldest? .writeNeighbourPairs = some pairRun ∧ 12 ≤ pairRun.body.length
    ∧ (pairRun.body.length - 12) % 4 = 0 ∧ pairRun.pairCount = 16384 ∧ pairRun.firstPair + pairRun.pairs.length = 16384
    ∧ (∀ q ∈ pairRun.pairs, q.1 < 6144 ∧ q.2 < 6144)
    ∧ (asked node shapeRun).oldest? .writeOpenShape = some shapeRun ∧ (shapeRun.holdsRun 2).1 = true
    ∧ (shapeRun.runWithin 2 6144).1 = true
    ∧ (asked node referenceRun).oldest? .writeReferenceSlopes = some referenceRun ∧ (referenceRun.holdsRun 2).1 = true
    ∧ (referenceRun.runWithin 2 8192).1 = true ∧ (∀ v ∈ referenceRun.values16, v ≠ -32768)
    ∧ (asked node referenceRun).liveBank?.isSome = true ∧ (asked linked referenceRun).liveBank?.isSome = false ∧ (asked linked referenceRun).anyOpen = false
    ∧ (asked linked referenceRun).mgmt.slopeQueue = [] := by decide +kernel

theorem witness_overwriting : (5 : Nat) ≤ 5 ∧ 5 < 5 + [GainProfile.powerOn].length ∧ ¬(5 ≤ 6 ∧ 6 < 5 + [GainProfile.powerOn].length) := by
  decide

/-- R115: ranges 6 and 7 are written, then range 7 again with enabled no and other fields; it keeps its own. -/
theorem test_disabled_range_keeps_its_fields :
    let s := (node.applyActuator (.overrideRanges 6 [⟨0, 2, .dead, true⟩, ⟨3, 1, .frozen, true⟩])).applyActuator
      (.overrideRanges 7 [⟨9, 4, .dead, false⟩])
    s.tables.overrides.get 6 = ⟨0, 2, .dead, true⟩ ∧ s.tables.overrides.get 7 = ⟨3, 1, .frozen, false⟩ := by decide +kernel

/-- A WRITE OBJECT that sets one item of a parameter object. -/
def setItemOf (o i v : Byte) : Request := req 2 0 [o, 0, 0, 0, i, 0, 0, 0, v, 0, 0, 0]

theorem witness_telemetry_requests :
    (asked node (setItemOf 16 0 9)).oldest? .writeTelemetryConfiguration = some (setItemOf 16 0 9)
    ∧ (setItemOf 16 0 9).form = 0 ∧ ((setItemOf 16 0 9).holdsItems 17).1 = true ∧ ((setItemOf 16 0 9).writesOnly 7).1 = true
    ∧ (setItemOf 16 0 9).items.all (fun i => telemetryInRange i.1 i.2) = true
    ∧ ((asked node (setItemOf 16 0 9)).telemetry.config.setItems (setItemOf 16 0 9).items).ringStart + 2562
      ≤ ((asked node (setItemOf 16 0 9)).telemetry.config.setItems (setItemOf 16 0 9).items).ringEnd
    ∧ (asked (committing .triggered .stop) (req 11 0 [])).telemetry.state = .triggered
    ∧ (asked node (req 11 0 [])).oldest? .telemetryArm = some (req 11 0 [])
    ∧ (asked node (req 11 1 [])).oldest? .telemetryStop = some (req 11 1 []) ∧ (req 11 1 []).body = [] := by decide +kernel

theorem witness_event_and_stop :
    (asked node (setItemOf 17 3 1)).oldest? .writeEventState = some (setItemOf 17 3 1)
    ∧ (setItemOf 17 3 1).form = 0 ∧ ((setItemOf 17 3 1).holdsItems 7).1 = true ∧ ((setItemOf 17 3 1).writesOnly 4).1 = true
    ∧ (setItemOf 17 3 1).items.all (fun i => eventInRange i.1 i.2) = true ∧ (asked waiting (setItemOf 17 3 1)).events.holdoff.isSome = true
    ∧ (asked awaiting (req 10 0 [])).oldest? .pokeStop = some (req 10 0 []) ∧ (req 10 0 []).form = 0
    ∧ (asked awaiting (req 10 0 [])).isTail = true ∧ (req 10 0 []).body = [] ∧ (asked node (req 10 0 [])).poke = none := by decide +kernel

/-- A BANK SETUP of a bank at the greatest Nb, Ab and S. -/
def setupRequest (b : Byte) : Request := req 3 0 [b, 0, 0, 0x20, 0, 0x18, 24, 0, 9, 0]

theorem witness_bank_setup : (setupRequest 1).form = 0 ∧ (asked node (setupRequest 1)).oldest? .bankSetup = some (setupRequest 1)
    ∧ (setupRequest 1).body.length = 10 ∧ (setupRequest 1).bank? = some .one ∧ (setupRequest 2).bank? = none
    ∧ (setupRequest 1).field 2 2 = 8192 ∧ (setupRequest 1).field 4 2 = 6144 ∧ (setupRequest 1).field 6 1 = 24
    ∧ ((asked node (setupRequest 0)).bank .zero).state = .live ∧ ((asked (swapping 9) (setupRequest 1)).bank .one).swapMark ≠ none
    ∧ (asked node (req 7 0 [])).oldest? .retireBank = some (req 7 0 []) ∧ (req 7 0 []).body = []
    ∧ (asked node (req 7 0 [])).liveBank? = some .zero ∧ (asked linked (req 7 0 [])).liveBank? = none ∧ (asked closed (req 7 0 [])).isTail = true ∧ (asked closed (req 7 0 [])).loop.state ≠ .off := by decide +kernel

/-- A CLOSE BANK. -/
def closeRequest (b : Byte) : Request := req 5 0 [b, 0, 0, 0]

/-- The node with bank 1 LOADING and `n` of its eight columns marked. -/
def filling (n : Nat) : State := node.setBank .one { readyBank with
  state := .loading, coverage := ⟨(List.range n).map (fun i => (12 * i, true))⟩ }

theorem witness_close_bank : (asked node (closeRequest 1)).oldest? .closeBank = some (closeRequest 1)
    ∧ (closeRequest 1).form = 0 ∧ (closeRequest 1).body.length = 4 ∧ (closeRequest 1).bank? = some .one
    ∧ (closeRequest 2).bank? = none ∧ ((asked linked (closeRequest 1)).bank .one).state = .empty ∧ ((asked node (closeRequest 1)).bank .one).state = .ready
    ∧ ((asked node (closeRequest 0)).bank .zero).state = .live ∧ ((asked (filling 7) (closeRequest 1)).bank .one).state = .loading
    ∧ (∀ i, i < ((asked (filling 8) (closeRequest 1)).bank .one).nb → ∀ g, g < segmentCount ((asked (filling 8) (closeRequest 1)).bank .one).ab →
        ((asked (filling 8) (closeRequest 1)).bank .one).covered i g = true)
    ∧ ((asked (filling 7) (closeRequest 1)).bank .one).covered 7 0 = false := by decide +kernel

/-- A SWAP BANK to bank 1 at the next tag, and at a tag. -/
def swapRequest (mode : Byte) : Request := req 6 0 [1, mode, 7, 0]

/-- The node with bank 1 of its shape. -/
def matching : State := node.setBank .one { readyBank with nb := 16 }

/-- A SWAP BANK at the next tag asked of it. -/
def swapAsked : State := asked matching (swapRequest 1)

theorem witness_swap_bank : swapAsked.oldest? .swapBank = some (swapRequest 1)
    ∧ (swapRequest 1).form = 0 ∧ (swapRequest 1).body.length = 4 ∧ (swapRequest 1).field 1 1 = 1 ∧ (swapRequest 0).field 1 1 = 0
    ∧ (swapRequest 1).bank? = some .one ∧ (swapAsked.bank .one).state = .ready ∧ (swapAsked.bank .zero).swapMark = none
    ∧ (swapAsked.bank .one).swapMark = none
    ∧ (swapAsked.bank .one).nb = (swapAsked.port .zero).config.slopeCount + (swapAsked.port .one).config.slopeCount
    ∧ (swapAsked.bank .one).ab = swapAsked.params.actuators ∧ swapAsked.params.actuators ≠ 0
    ∧ ((asked node (swapRequest 1)).bank .one).nb ≠ ((asked node (swapRequest 1)).port .zero).config.slopeCount + ((asked node (swapRequest 1)).port .one).config.slopeCount := by decide +kernel

theorem witness_loop_requests : (asked node (req 8 0 [])).isTail = true ∧ (req 8 0 []).body = []
    ∧ (asked closed (req 8 0 [])).oldest? .loopOff = some (req 8 0 []) ∧ (asked closed (req 8 0 [])).loop.state = .closed
    ∧ (asked closed (req 8 1 [])).oldest? .loopOpen = some (req 8 1 []) ∧ (asked closed (req 8 1 [])).loopReady = true
    ∧ ((asked closed (req 8 1 [])).bank .zero).state = .live ∧ 0 < (asked closed (req 8 1 [])).params.actuators
    ∧ (asked closed (req 8 1 [])).mirror.up = true ∧ (asked closed (req 8 1 [])).isPending .mirrorLinkLost = false
    ∧ (asked closed (req 8 1 [])).isPending .driverFault = false
    ∧ (asked (missing 7) (req 8 1 [])).mirror.misses + 1 = (asked (missing 7) (req 8 1 [])).params.echoMissLimit
    ∧ (asked linked (req 8 1 [])).loopReady = false ∧ askedToClose.oldest? .loopClose = some (req 8 2 []) ∧ askedToClose.loop.state = .held ∧ askedToClose.loopReady = true
    ∧ (asked closed (req 8 3 [])).oldest? .loopHold = some (req 8 3 []) ∧ (asked closed (req 8 3 [])).mgmt.actuatorQueue = []
    ∧ (asked node (req 8 4 [])).oldest? .resetIntegrators = some (req 8 4 []) ∧ (asked node (req 8 4 [])).loop.state = .off
    ∧ (asked parked (req 8 0 [])).loop.state = .safe ∧ (asked closed (req 8 0 [])).poke = none := by decide +kernel

/-- A POKE START at record `a + 256 b`. -/
def pokeStartAt (a b : Byte) : Request := req 9 0 [a, b, 0, 0]

theorem witness_poke_start : (asked closed (pokeStartAt 0xFF 3)).oldest? .pokeStart = some (pokeStartAt 0xFF 3)
    ∧ (pokeStartAt 0xFF 3).form = 0 ∧ (pokeStartAt 0xFF 3).body.length = 4 ∧ (pokeStartAt 0xFF 3).field 0 2 = 1023
    ∧ (pokeStartAt 0 4).field 0 2 = 1024 ∧ (asked closed (pokeStartAt 0xFF 3)).params.role = .solo ∧ (asked closed (pokeStartAt 0xFF 3)).poke = none ∧ (asked awaiting (pokeStartAt 0xFF 3)).poke ≠ none
    ∧ (asked node (pokeStartAt 0xFF 3)).loop.state = .off ∧ (asked middle7 (pokeStartAt 0xFF 3)).params.role = .middle := by decide +kernel

theorem witness_clear_fault : (asked parked (req 13 0 [])).oldest? .clearFault = some (req 13 0 []) ∧ (req 13 0 []).form = 0
    ∧ (req 13 0 []).body = [] ∧ (asked parked (req 13 0 [])).isTail = true ∧ (asked parked (req 13 0 [])).loop.state = .safe ∧ (asked middle7 (req 13 0 [])).isTail = false
    ∧ (asked waiting (req 13 0 [])).events.holdoff.isSome = true ∧ (asked middle7 (req 8 0 [])).params.role = .middle
    ∧ (asked middle7 (req 8 0 [])).oldest? .loopOff = some (req 8 0 [])
    ∧ (asked middle7 (req 10 0 [])).oldest? .pokeStop = some (req 10 0 [])
    ∧ (asked node (req 2 0 [18])).oldest? .writeObjectOther = some (req 2 0 [18]) ∧ 4 < (req 2 0 [18]).payload.length
    ∧ (asked node (req 0 0 [])).oldest? .writeObjectOther = some (req 0 0 []) ∧ (req 0 0 []).kind ≠ 2 := by decide +kernel

theorem witness_node_reset : (asked node (req 14 0 [])).oldest? .nodeReset = some (req 14 0 []) ∧ (req 14 0 []).form = 0
    ∧ (req 14 0 []).body = [] ∧ 16 ≤ (asked (queued 24 16) (req 14 0 [])).trunk.control.length ∧ (asked (queued 0 15) (req 14 0 [])).trunk.toUp = false
    ∧ (asked node (req 14 0 [])).trunk.toUp = true ∧ sending.trunk.sending = some ⟨⟨[1], true⟩, true⟩
    ∧ (ToFrame.resetResponse ⟨[1], true⟩) = true ∧ node.mgmt.reset ≠ .due
    ∧ ({ sending with mgmt := { sending.mgmt with reset := .waiting } }).mgmt.reset = .waiting
    ∧ ({ node with mgmt := { node.mgmt with reset := .due } }).mgmt.reset = .due := by decide +kernel

/-- The node with context 0 DONE, in a capture state, at a decimation phase. -/
def offered (c : CaptureState) (phase : Nat) (held : List Nat) (m : CaptureFullMode) : State := { done7 with
  telemetry := { done7.telemetry with
    state := c
    phase := phase
    lengths := held
    readPos := 4
    writePos := 2565
    config := { done7.telemetry.config with fullMode := m, decimation := 2, ringStart := 4, ringEnd := 2566 } } }

/-- The same node with a record of the other context in flight. -/
def overrun : State := { offered .running 0 [] .wrap with
  telemetry := { (offered .running 0 [] .wrap).telemetry with inFlight := some ⟨.one, 1⟩ } }

theorem witness_offer : (done7.ctx .zero).state = .done ∧ done7.telemetry.state = .idle
    ∧ ((offered .running 1 [] .wrap).ctx .zero).state = .done ∧ (offered .running 1 [] .wrap).telemetry.phase = 1
    ∧ (offered .running 0 [] .stop).telemetry.inFlight = none ∧ (offered .running 0 [2561] .stop).telemetry.config.fullMode = .stop
    ∧ (offered .running 0 [2561] .stop).telemetry.ringSize - (offered .running 0 [2561] .stop).telemetry.lengths.sum = 1
    ∧ (offered .running 0 [2562] .stop).telemetry.ringSize - (offered .running 0 [2562] .stop).telemetry.lengths.sum < 1
    ∧ overrun.telemetry.inFlight = some ⟨.one, 1⟩ ∧ (overrun.ctx .zero).state = .done ∧ overrun.telemetry.phase = 0
    ∧ (offered .running 0 [] .wrap).telemetry.writePos + 1 = (offered .running 0 [] .wrap).telemetry.config.ringEnd := by
  decide +kernel

/-- The running capture with the trigger mask of one event and a post-trigger count. -/
def armed (n : Nat) : State := { offered .running 0 [] .wrap with
  telemetry := { (offered .running 0 [] .wrap).telemetry with
    config := { done7.telemetry.config with triggerMask := Event.lateFrame.single, postTrigger := n } } }

theorem witness_trigger : (armed 0).isPending .lateFrame = false ∧ hasEvent (armed 0).telemetry.config.triggerMask .lateFrame = true
    ∧ (armed 0).telemetry.state = .running ∧ (armed 1).telemetry.config.postTrigger ≠ 0
    ∧ hasEvent (armed 0).telemetry.config.triggerMask .lateInput = false := by decide +kernel

theorem test_offer_refused_for_want_of_room :
    ((offered .running 0 [2562] .stop).offer .zero).telemetry.state = .stopped
    ∧ ((offered .running 0 [2561] .stop).offer .zero).telemetry.inFlight = some ⟨.zero, 1⟩ := by decide +kernel

theorem test_reset_response_makes_one_reset_only :
    after .toSendEnd { sending with mgmt := { sending.mgmt with reset := .none } } (fun t => t.mgmt.reset == .none) = true := by
  decide +kernel

end Sys2Proof.Tests
end

/-! SUPPORT. Rules about the shared operations as the slope ports, the links and the port configuration use them, and the
proofs of the statements about slope ingress and the assembly rings (chapter 1). -/

namespace Sys2Proof.Machine

/-! ## Reading a port, a context or a counter after an update of another part -/

theorem port_congr {s t : State} (h : t.ports = s.ports) (p : Ix) : t.port p = s.port p := by unfold State.port; rw [h]

theorem ctx_congr {s t : State} (h : t.frames = s.frames) (c : Ix) : t.ctx c = s.ctx c := by unfold State.ctx; rw [h]

theorem stillOpen_congr {s t : State} (h : t.frames = s.frames) (d : Descriptor) : t.stillOpen d = s.stillOpen d := by
  unfold State.stillOpen; rw [ctx_congr h]

@[simp] theorem State_port_bump (s : State) (k : Counter) (p : Ix) : (s.bump k).port p = s.port p := rfl

@[simp] theorem State_port_raise (s : State) (e : Event) (p : Ix) : (s.raise e).port p = s.port p := port_congr (by simp) p

@[simp] theorem State_port_setCtx (s : State) (c : Ix) (x : Context) (p : Ix) : (s.setCtx c x).port p = s.port p := rfl

@[simp] theorem State_port_completionTest (s : State) (c p : Ix) : (s.completionTest c).port p = s.port p :=
  port_congr (by simp) p

@[simp] theorem State_ctx_setPort (s : State) (p : Ix) (x : Port) (c : Ix) : (s.setPort p x).ctx c = s.ctx c := rfl

@[simp] theorem Pair_set_get {α : Type} (q : Pair α) (i : Ix) : q.set i (q.get i) = q := by cases i <;> rfl

@[simp] theorem Pair_set_set {α : Type} (q : Pair α) (i : Ix) (x y : α) : (q.set i x).set i y = q.set i y := by
  cases i <;> rfl

@[simp] theorem counter_setPort (s : State) (p : Ix) (x : Port) (k : Counter) : (s.setPort p x).counter k = s.counter k := rfl

@[simp] theorem counter_setCtx (s : State) (c : Ix) (x : Context) (k : Counter) : (s.setCtx c x).counter k = s.counter k := rfl

/-- A counter counts one occurrence, whatever has happened before that leaves it alone. -/
theorem counted_bump_of {s t : State} {k : Counter} (h : t.counter k = s.counter k) : s.counted (t.bump k) k 1 := by
  unfold State.counted
  rw [counter_bump, if_pos rfl, h]

theorem counted_bump (s : State) (k : Counter) : s.counted (s.bump k) k 1 := counted_bump_of rfl

/-! ## An event that has been raised -/

/-- Raised on the way from one state to another: what comes before the raising counts no EVENT frame, and what comes after it leaves
events and EVENT frames alone (R190, R191). -/
theorem raised_of_raise {s u t : State} {e : Event} (before : u.counter .eventFrames = s.counter .eventFrames)
    (events : t.events = (u.raise e).events) (after : t.counter .eventFrames = (u.raise e).counter .eventFrames) :
    s.raised t e := by
  have h := (raise_raised u e).1
  unfold State.raised State.isPending at *
  rwa [events, after, ← before]

/-- While TO is DOWN a frame placed in the control queue is not sent (R70). -/
theorem placeControl_toDown {s : State} (f : ToFrame) (h : s.trunk.toUp = false) :
    (s.placeControl f).trunk.sending = s.trunk.sending ∧ (s.placeControl f).trunk.realtime = s.trunk.realtime := by
  unfold State.placeControl
  split
  · exact ⟨rfl, rfl⟩
  · simp [State.grantTo, h]

/-- Raising an event while TO is DOWN sends nothing and leaves the realtime queue (R70). -/
theorem raise_toDown {s : State} (e : Event) (h : s.trunk.toUp = false) :
    (s.raise e).trunk.sending = s.trunk.sending ∧ (s.raise e).trunk.realtime = s.trunk.realtime := by
  have report : ∀ t : State, t.trunk = s.trunk →
      t.reportTest.trunk.sending = s.trunk.sending ∧ t.reportTest.trunk.realtime = s.trunk.realtime := by
    intro t ht
    unfold State.reportTest
    split
    · rw [← ht]; exact placeControl_toDown _ (by rw [ht]; exact h)
    · rw [ht]; exact ⟨rfl, rfl⟩
  unfold State.raise
  dsimp only
  split
  · exact report _ rfl
  · exact report _ (by simp)

/-! ## The completion test -/

/-- A completion test changes nothing of a context but its job (R32). -/
theorem completionTest_ctx (s : State) (c x : Ix) :
    ∃ j, (s.completionTest c).ctx x = { s.ctx x with job := j } := by
  unfold State.completionTest
  dsimp only
  split
  · cases c <;> cases x <;> exact ⟨_, rfl⟩
  · exact ⟨_, rfl⟩

theorem counter_completionTest (s : State) (c : Ix) {k : Counter} (h : k ≠ .assembled) :
    (s.completionTest c).counter k = s.counter k := by
  obtain ⟨_, _, _, _, _, counters⟩ := completionTest_spec s c
  exact counters k h

/-! ## The flush of a packet in reception (R11) -/

/-- A port whose packet in reception has been flushed. -/
def Port.flushed (x : Port) (d : Descriptor) : Port :=
  { x with writePos := x.visiblePos, freeCount := x.freeCount + footprint d.count, reception := none }

theorem flush_eq_of_closed {s : State} (p : Ix) {d : Descriptor} (h : s.stillOpen d = false) :
    s.flush p d = s.setPort p ((s.port p).flushed d) := by
  have h' : (s.setPort p ((s.port p).flushed d)).stillOpen d = false := h
  unfold State.flush
  exact if_neg (by simpa [Port.flushed] using h')

theorem flush_eq_of_open {s : State} (p : Ix) {d : Descriptor} (h : s.stillOpen d = true) :
    s.flush p d = State.completionTest ((s.setPort p ((s.port p).flushed d)).setCtx d.ctx
      { s.ctx d.ctx with heldCount := (s.ctx d.ctx).heldCount.set p ((s.ctx d.ctx).heldCount.get p - 1) }) d.ctx := by
  unfold State.flush
  exact if_pos h

theorem flush_port (s : State) (p : Ix) (d : Descriptor) : (s.flush p d).port p = (s.port p).flushed d := by
  cases h : s.stillOpen d
  · simp [flush_eq_of_closed p h]
  · simp [flush_eq_of_open p h]

theorem flush_port_other (s : State) (p : Ix) (d : Descriptor) : (s.flush p d).port p.other = s.port p.other := by
  cases h : s.stillOpen d
  · simp [flush_eq_of_closed p h]
  · simp [flush_eq_of_open p h]

theorem flush_events (s : State) (p : Ix) (d : Descriptor) : (s.flush p d).events = s.events := by
  cases h : s.stillOpen d
  · simp [flush_eq_of_closed p h]
  · simp [flush_eq_of_open p h]

theorem counter_flush (s : State) (p : Ix) (d : Descriptor) {k : Counter} (hk : k ≠ .assembled) :
    (s.flush p d).counter k = s.counter k := by
  cases h : s.stillOpen d
  · simp [flush_eq_of_closed p h]
  · simp [flush_eq_of_open p h, counter_completionTest _ _ hk]

/-- The context of a flushed packet holds one packet less, if it is still open with the packet's tag; else no context changes. -/
theorem flush_heldCount (s : State) (p : Ix) (d : Descriptor) :
    if s.stillOpen d = true then ((s.flush p d).ctx d.ctx).heldCount.get p = (s.ctx d.ctx).heldCount.get p - 1
    else (s.flush p d).frames = s.frames := by
  cases h : s.stillOpen d
  · simp [flush_eq_of_closed p h]
  · rw [flush_eq_of_open p h]
    obtain ⟨j, hj⟩ := completionTest_ctx ((s.setPort p ((s.port p).flushed d)).setCtx d.ctx
      { s.ctx d.ctx with heldCount := (s.ctx d.ctx).heldCount.set p ((s.ctx d.ctx).heldCount.get p - 1) }) d.ctx d.ctx
    simp [hj]

/-! ## Changes of a link -/

/-- Settles O9. -/
theorem linkUpCommandsOnlyReportTheLink : Obligations.LinkUpCommandsOnlyReportTheLink :=
  fun _ => ⟨fun _ => rfl, rfl, rfl⟩

/-- The state in which the fall of a slope link has been counted and raised, before a packet in reception is flushed (R4). -/
def State.slFell (s : State) (p : Ix) : State :=
  ((s.setPort p { s.port p with linkUp := false }).bump (.port p .linkDown)).raise .linkDown

theorem slLinkDown_idle {s : State} {p : Ix} (hup : (s.port p).linkUp = true) (hr : (s.port p).reception = none) :
    exec (.slLinkDown p) s = .next (s.slFell p) := by
  show execSlLinkDown p s = _
  simp [execSlLinkDown, hup, hr, State.slFell]

theorem slLinkDown_receiving {s : State} {p : Ix} {r : Reception} (hup : (s.port p).linkUp = true)
    (hr : (s.port p).reception = some r) :
    exec (.slLinkDown p) s = .next (((s.slFell p).flush p r.descriptor).bump (.port p .truncated)) := by
  show execSlLinkDown p s = _
  simp [execSlLinkDown, hup, hr, State.slFell]

@[simp] theorem slFell_port (s : State) (p : Ix) : (s.slFell p).port p = { s.port p with linkUp := false } := by
  simp [State.slFell]

theorem counter_slFell (s : State) (p : Ix) (k : PortCounter) : (s.slFell p).counter (.port p k)
    = if k = .linkDown then min (s.counter (.port p .linkDown) + 1) Config.counterMax else s.counter (.port p k) := by
  simp [State.slFell, counter_raise, counter_bump]

/-- The fall of a slope link has raised LINK_DOWN, whatever follows it that leaves the events alone (R4). -/
theorem slFell_raised {s t : State} (p : Ix) (he : t.events = (s.slFell p).events)
    (hc : t.counter .eventFrames = (s.slFell p).counter .eventFrames) : s.raised t .linkDown :=
  raised_of_raise (by simp [counter_bump]) he hc

theorem slLinkDown_spec {s : State} {p : Ix} (hup : (s.port p).linkUp = true) :
    ∃ t, exec (.slLinkDown p) s = .next t ∧ (t.port p).linkUp = false
      ∧ (t.port p).state = (s.port p).state ∧ (t.port p).reception = none ∧ s.counted t (.port p .linkDown) 1
      ∧ s.raised t .linkDown ∧ t.counter (.port p .payloadErrors) = s.counter (.port p .payloadErrors)
      ∧ (match (s.port p).reception with
        | some r => s.counted t (.port p .truncated) 1 ∧ (t.port p).writePos = (s.port p).visiblePos
            ∧ (t.port p).freeCount = (s.port p).freeCount + footprint r.descriptor.count
        | none => t.counter (.port p .truncated) = s.counter (.port p .truncated) ∧ (t.port p).writePos = (s.port p).writePos
            ∧ (t.port p).freeCount = (s.port p).freeCount) := by
  cases hr : (s.port p).reception with
  | none =>
    refine ⟨_, slLinkDown_idle hup hr, ?_⟩
    simp [hr, State.counted, counter_slFell, slFell_raised p]
  | some r =>
    refine ⟨_, slLinkDown_receiving hup hr, ?_⟩
    have raised : s.raised (((s.slFell p).flush p r.descriptor).bump (.port p .truncated)) .linkDown :=
      slFell_raised p (by simp [flush_events]) (by simp [counter_bump, counter_flush])
    simp [raised, State.counted, counter_bump, counter_flush, counter_slFell, flush_port, Port.flushed]

theorem tiLinkDown_spec {s : State} (hup : s.trunk.tiUp = true) (b : Bool) :
    ∃ t, exec (.tiLinkDown b) s = .next t ∧ t.trunk.tiUp = false
      ∧ s.counted t .tiLinkDown 1 ∧ s.raised t .linkDown ∧ s.countedIf t b .truncatedTi := by
  generalize hu : ({ s with trunk := { s.trunk with tiUp := false } } : State) = u
  have same (k : Counter) : u.counter k = s.counter k := by subst hu; rfl
  refine ⟨((u.raise .linkDown).bump .tiLinkDown).bumpIf b .truncatedTi, ?_, ?_, ?_, ?_, ?_⟩
  · show execTiLinkDown b s = _
    simp [execTiLinkDown, hup, hu]
  · simp [← hu]
  · simp [State.counted, counter_bumpIf, counter_bump, counter_raise, same]
  · exact raised_of_raise (same _) (by simp) (by simp [counter_bumpIf, counter_bump])
  · cases b <;> simp [State.countedIf, counter_bumpIf, counter_bump, counter_raise, same]

theorem toLinkDown_spec {s : State} (hup : s.trunk.toUp = true) :
    ∃ t, exec .toLinkDown s = .next t ∧ t.trunk.toUp = false ∧ t.trunk.sending = none
      ∧ t.trunk.realtime = s.trunk.realtime ∧ s.counted t .toLinkDown 1 ∧ s.raised t .linkDown
      ∧ s.countedIf t s.trunk.sending.isSome .transmitAborted := by
  generalize hu : ({ s with trunk := { s.trunk with toUp := false, sending := none } } : State) = u
  have same (k : Counter) : u.counter k = s.counter k := by subst hu; rfl
  have down : u.trunk.toUp = false := by subst hu; rfl
  have kept := raise_toDown .linkDown down
  generalize hv : ((u.raise .linkDown).bump .toLinkDown).bumpIf s.trunk.sending.isSome .transmitAborted = v
  have trunk : v.trunk = (u.raise .linkDown).trunk := by simp [← hv]
  have events : v.events = (u.raise .linkDown).events := by simp [← hv]
  have frames : v.counter .eventFrames = (u.raise .linkDown).counter .eventFrames := by
    simp [← hv, counter_bumpIf, counter_bump]
  have counted : s.counted v .toLinkDown 1 := by
    simp [← hv, State.counted, counter_bumpIf, counter_bump, counter_raise, same]
  have aborted : s.countedIf v s.trunk.sending.isSome .transmitAborted := by
    cases hs : s.trunk.sending <;>
      simp [← hv, hs, State.countedIf, counter_bumpIf, counter_bump, counter_raise, same]
  have step : exec .toLinkDown s = .next (if v.mgmt.reset = .waiting then v.resetDue else v) := by
    show execToLinkDown s = _
    simp [execToLinkDown, hup, hu, hv]
  rw [step]
  split
  all_goals
    refine ⟨_, rfl, ?_, ?_, ?_, counted, raised_of_raise (same _) events frames, aborted⟩
    · exact (congrArg Trunk.toUp trunk).trans (by simp [down])
    · exact (congrArg Trunk.sending trunk).trans (kept.1.trans (by simp [← hu]))
    · exact (congrArg Trunk.realtime trunk).trans (kept.2.trans (by simp [← hu]))

/-- In the loop states in which no frame is applied the loss of ML is no more than the fall of a link (R147). -/
theorem mlLinkDown_spec {s : State} (hup : s.mirror.up = true) (happ : s.loop.state.applies = false) :
    ∃ t, exec .mlLinkDown s = .next t ∧ t.mirror.up = false
      ∧ t.mirror.sending = none ∧ t.mirror.waiting = none ∧ s.counted t .mlLinkDown 1 ∧ s.raised t .linkDown
      ∧ s.countedIf t s.mirror.sending.isSome .mlTransmitAborted
      ∧ s.countedIf t s.mirror.waiting.isSome .unsent := by
  generalize hu : ({ s with mirror := { s.mirror with up := false, sending := none, waiting := none } } : State) = u
  have same (k : Counter) : u.counter k = s.counter k := by subst hu; rfl
  have idle : u.loop.state.applies = false := by subst hu; exact happ
  refine ⟨(((u.raise .linkDown).bump .mlLinkDown).bumpIf s.mirror.sending.isSome .mlTransmitAborted).bumpIf
    s.mirror.waiting.isSome .unsent, ?_, ?_, ?_, ?_, ?_, ?_, ?_, ?_⟩
  · show execMlLinkDown s = _
    simp [execMlLinkDown, hup, hu, idle]
  · simp [← hu]
  · simp [← hu]
  · simp [← hu]
  · simp [State.counted, counter_bumpIf, counter_bump, counter_raise, same]
  · exact raised_of_raise (same _) (by simp) (by simp [counter_bumpIf, counter_bump])
  · cases s.mirror.sending <;> simp [State.countedIf, counter_bumpIf, counter_bump, counter_raise, same]
  · cases s.mirror.waiting <;> simp [State.countedIf, counter_bumpIf, counter_bump, counter_raise, same]

/-- Settles O10, link by link. -/
theorem linkDownCommandsCountAndRaise : Obligations.LinkDownCommandsCountAndRaise :=
  fun _ => ⟨fun _ hup => slLinkDown_spec hup, fun hup b => tiLinkDown_spec hup b, toLinkDown_spec, mlLinkDown_spec⟩

/-! ## Words written into a ring (R6) -/

/-- A write of a run of words leaves every word outside the run. -/
theorem get_writeWords_outside (ring : Table RingWord.blank) (pos i : Nat) (ws : List RingWord)
    (h : ∀ k, k < ws.length → i ≠ (pos + k) % 8192) : (writeWords ring pos ws).get i = ring.get i := by
  induction ws generalizing ring pos with
  | nil => rfl
  | cons w ws ih =>
    have outside : ∀ k, k < ws.length → i ≠ (pos + 1 + k) % 8192 := fun k hk => by
      have := h (k + 1) (by simpa using hk)
      rwa [Nat.add_assoc, Nat.add_comm 1 k]
    rw [writeWords, ih _ _ outside]
    exact Table_get_set_ne _ (h 0 (by simp)) _

/-- A run of words no longer than the ring stands in it from its position on. -/
theorem get_writeWords (ring : Table RingWord.blank) (pos k : Nat) (ws : List RingWord) (hlen : ws.length ≤ 8192)
    (hk : k < ws.length) : (writeWords ring pos ws).get ((pos + k) % 8192) = ws[k] := by
  induction ws generalizing ring pos k with
  | nil => simp at hk
  | cons w ws ih =>
    simp only [List.length_cons] at hlen hk
    rw [writeWords]
    cases k with
    | zero =>
      rw [get_writeWords_outside _ _ _ _ (fun j hj => by omega)]
      exact Table_get_set_same _ _ _
    | succ k =>
      rw [← Nat.add_assoc, Nat.add_right_comm]
      exact ih _ _ _ (by omega) (by omega)

theorem length_slopeWords (vs : List (BitVec 16)) : (slopeWords vs).length = ceilDiv vs.length 2 := by
  induction vs using slopeWords.induct with
  | case1 => rfl
  | case2 a => simp [slopeWords, ceilDiv]
  | case3 a b rest ih => simp only [slopeWords, List.length_cons, ih, ceilDiv]; omega

/-- Slopes stand two to a word, the lower-indexed one in the lower half (R6). -/
theorem slopeWords_half (vs : List (BitVec 16)) (k : Nat) (hk : k < vs.length) :
    ∃ lower upper, (slopeWords vs)[k / 2]? = some (.slopes lower upper)
      ∧ (if k % 2 = 0 then lower else upper.getD 0) = vs[k] := by
  induction vs using slopeWords.induct generalizing k with
  | case1 => simp at hk
  | case2 a =>
    obtain rfl : k = 0 := by simpa using hk
    exact ⟨a, none, rfl, rfl⟩
  | case3 a b rest ih =>
    match k, hk with
    | 0, _ => exact ⟨a, some b, rfl, rfl⟩
    | 1, _ => exact ⟨a, some b, rfl, rfl⟩
    | k + 2, hk =>
      obtain ⟨lower, upper, word, half⟩ := ih k (by simpa using hk)
      exact ⟨lower, upper, by simpa [slopeWords, Nat.add_div_right] using word, by simpa using half⟩

theorem length_splitElements (size n : Nat) (bs : List Byte) : (splitElements size n bs).length = n := by
  induction n generalizing bs with
  | zero => rfl
  | succ n ih => simp [splitElements, ih]

theorem getElem_splitElements (size n k : Nat) (bs : List Byte) (hk : k < (splitElements size n bs).length) :
    (splitElements size n bs)[k] = (bs.drop (size * k)).take size := by
  induction n generalizing bs k with
  | zero => simp [splitElements] at hk
  | succ n ih =>
    cases k with
    | zero => simp [splitElements]
    | succ k => simp [splitElements, ih, Nat.mul_succ, Nat.add_comm]

@[simp] theorem length_slopesOf (n : Nat) (bs : List Byte) : (slopesOf n bs).length = n := by
  simp [slopesOf, length_splitElements]

theorem getElem_slopesOf (n k : Nat) (bs : List Byte) (hk : k < (slopesOf n bs).length) :
    (slopesOf n bs)[k] = BitVec.ofNat 16 (fieldAt bs (2 * k) 2) := by
  simp [slopesOf, getElem_splitElements, fieldAt]

/-- A packet's slopes as they stand in a ring to which they have been appended (R6). -/
theorem append_slopes (x : Port) (n k : Nat) (bs : List Byte) (hn : n ≤ 256) (hk : k < n) :
    ∃ lower upper, (x.append (slopeWords (slopesOf n bs))).ring.get ((x.writePos + k / 2) % 8192) = .slopes lower upper
      ∧ (if k % 2 = 0 then lower else upper.getD 0) = BitVec.ofNat 16 (fieldAt bs (2 * k) 2) := by
  obtain ⟨lower, upper, word, half⟩ := slopeWords_half (slopesOf n bs) k (by simpa using hk)
  obtain ⟨inside, word⟩ := List.getElem?_eq_some_iff.mp word
  have short : (slopeWords (slopesOf n bs)).length ≤ 8192 := by
    rw [length_slopeWords, length_slopesOf, ceilDiv]; omega
  exact ⟨lower, upper, (get_writeWords _ _ _ _ short inside).trans word, half.trans (getElem_slopesOf _ _ _ _)⟩

/-! ## The end of a packet (R10, R11) -/

theorem slopePacketEnd_eq {s : State} {p : Ix} {r : Reception} (bytes : List Byte) (hr : (s.port p).reception = some r) :
    exec (.slopePacketEnd p bytes) s = .next (s.packetEnd p r bytes) := by
  show execSlopePacketEnd p bytes s = _
  simp [execSlopePacketEnd, hr]

/-- The report of a last packet changes no port and no counter but that of assembled frames, and sets the flag (R10, R32). -/
theorem reportLast_spec (s : State) (p : Ix) (d : Descriptor) :
    (s.reportLast p d).ports = s.ports ∧ (∀ k, k ≠ .assembled → (s.reportLast p d).counter k = s.counter k)
    ∧ (if d.last = true ∧ s.stillOpen d = true then ((s.reportLast p d).ctx d.ctx).lastDelivered.get p = true
      else (s.reportLast p d).frames = s.frames) := by
  unfold State.reportLast
  cases h : d.last && s.stillOpen d
  · rw [if_neg (by simp)]
    exact ⟨rfl, fun _ _ => rfl, by rw [if_neg (by simpa using h)]⟩
  · rw [if_pos rfl, if_pos (by simpa using h)]
    refine ⟨by simp, fun k hk => by simp [counter_completionTest _ _ hk], ?_⟩
    obtain ⟨j, hj⟩ := completionTest_ctx (s.setCtx d.ctx
      { s.ctx d.ctx with lastDelivered := (s.ctx d.ctx).lastDelivered.set p true }) d.ctx d.ctx
    simp [hj]

/-- A port whose packet in reception has become visible. -/
def Port.shown (x : Port) (d : Descriptor) (bytes : List Byte) : Port :=
  { x.append (slopeWords (slopesOf d.count bytes)) with
    visiblePos := (x.append (slopeWords (slopesOf d.count bytes))).writePos, reception := none }

theorem makeVisible_eq (s : State) (p : Ix) (d : Descriptor) (bytes : List Byte) : s.makeVisible p d bytes
    = ((s.setPort p ((s.port p).shown d bytes)).reportLast p d).bump (.port p .accepted) := rfl

/-- A packet that holds: its slopes are in the ring and visible, and it is counted (R10). -/
theorem makeVisible_spec (s : State) (p : Ix) (d : Descriptor) (bytes : List Byte) :
    (s.makeVisible p d bytes).port p = (s.port p).shown d bytes
    ∧ (s.makeVisible p d bytes).port p.other = s.port p.other
    ∧ s.counted (s.makeVisible p d bytes) (.port p .accepted) 1
    ∧ (if d.last = true ∧ s.stillOpen d = true then ((s.makeVisible p d bytes).ctx d.ctx).lastDelivered.get p = true
      else (s.makeVisible p d bytes).frames = s.frames) := by
  obtain ⟨ports, counters, frames⟩ := reportLast_spec (s.setPort p ((s.port p).shown d bytes)) p d
  rw [makeVisible_eq]
  refine ⟨?_, ?_, ?_, frames⟩
  · simp [port_congr ports]
  · simp [port_congr ports]
  · simp [State.counted, counter_bump, counters]

/-- A packet that does not hold: it is flushed, counted and raised (R10, R11). -/
theorem badPacket_spec (s : State) (p : Ix) (d : Descriptor) :
    ∃ t, t = ((s.flush p d).bump (.port p .payloadErrors)).raise .linkCrc
    ∧ t.port p = (s.port p).flushed d ∧ t.port p.other = s.port p.other
    ∧ s.counted t (.port p .payloadErrors) 1 ∧ s.raised t .linkCrc ∧ t.frames = (s.flush p d).frames := by
  refine ⟨_, rfl, ?_, ?_, ?_, ?_, ?_⟩
  · simp [flush_port]
  · simp [flush_port_other]
  · simp [State.counted, counter_raise, counter_bump, counter_flush]
  · exact raised_of_raise (by simp [counter_bump, counter_flush]) rfl rfl
  · simp

/-- Settles O17, by the two outcomes of the payload check. -/
theorem packetEndMakesVisibleOrFlushes : Obligations.PacketEndMakesVisibleOrFlushes := by
  intro p bytes s r hr
  refine ⟨_, slopePacketEnd_eq bytes hr, ?_⟩
  unfold State.packetEnd
  by_cases holds : payloadHolds r bytes = true
  · obtain ⟨port, other, counted, frames⟩ := makeVisible_spec s p r.descriptor bytes
    rw [if_pos holds, if_pos holds, port]
    refine ⟨rfl, other, counted, rfl, ?_, rfl, rfl, fun short k hk => append_slopes _ _ _ _ short hk, frames⟩
    simp [Port.shown, Port.append, length_slopeWords, Config.ringWords]
  · obtain ⟨t, ht, port, other, counted, raised, frames⟩ := badPacket_spec s p r.descriptor
    rw [if_neg holds, if_neg holds, ← ht, port]
    refine ⟨rfl, other, counted, raised, rfl, rfl, rfl, ?_⟩
    rw [frames, ctx_congr frames]
    exact flush_heldCount s p r.descriptor

/-! ## Reservation and the resolution of a packet's tag (R9, R24) -/

theorem slopePacketHeader_eq {s : State} {p : Ix} (h : List Byte) (hup : (s.port p).linkUp = true)
    (hr : (s.port p).reception = none) : exec (.slopePacketHeader p h) s = .next (s.header p h) := by
  show execSlopePacketHeader p h s = _
  simp [execSlopePacketHeader, hup, hr]

/-- The state with the footprint of a packet reserved (R9). -/
def State.reserve (s : State) (p : Ix) (n : Nat) : State :=
  s.setPort p { s.port p with freeCount := (s.port p).freeCount - footprint n }

@[simp] theorem State_setPort_setPort (s : State) (p : Ix) (x y : Port) : (s.setPort p x).setPort p y = s.setPort p y := by
  simp [State.setPort]

@[simp] theorem State_setPort_port (s : State) (p : Ix) : s.setPort p (s.port p) = s := by
  simp [State.setPort, State.port]

/-- A reservation that is returned leaves nothing (log entry 36). -/
theorem reserve_returned {s : State} {p : Ix} {n : Nat} (room : footprint n ≤ (s.port p).freeCount) :
    (s.reserve p n).setPort p { (s.reserve p n).port p with freeCount := ((s.reserve p n).port p).freeCount + footprint n }
      = s := by
  unfold State.reserve
  simp only [State_port_setPort, Nat.sub_add_cancel room, State_setPort_setPort]
  exact State_setPort_port s p

theorem resolveSlope_assembling {s : State} {g : Tag} {c : Ix} (hc : s.ctxOfTag? g = some c)
    (ha : (s.ctx c).state = .assembling) : s.resolveSlope g = (.accepted c, s) := by
  unfold State.resolveSlope; rw [hc]; exact if_pos ha

theorem resolveSlope_past {s : State} {g : Tag} {c : Ix} (hc : s.ctxOfTag? g = some c)
    (ha : (s.ctx c).state ≠ .assembling) : s.resolveSlope g = (.late, s) := by
  unfold State.resolveSlope; rw [hc]; exact if_neg ha

theorem resolveSlope_old {s : State} {g : Tag} (hc : s.ctxOfTag? g = none)
    (old : tagNewerThan g s.frames.newestOpened = false) : s.resolveSlope g = (.late, s) := by
  unfold State.resolveSlope State.resolveNew; rw [hc]; simp [old]

theorem resolveSlope_noMatrix {s : State} {g : Tag} (hc : s.ctxOfTag? g = none)
    (new : tagNewerThan g s.frames.newestOpened = true) (lacks : s.hasMatrix g = false) :
    s.resolveSlope g = (.noMatrix, s) := by
  unfold State.resolveSlope State.resolveNew; rw [hc]; simp [new, lacks]

theorem resolvePacket_accepted {s : State} {p c : Ix} {h : List Byte}
    (hc : s.ctxOfTag? (headerDescriptor h).tag = some c) (ha : (s.ctx c).state = .assembling) :
    s.resolvePacket p h = (s.reserve p (headerDescriptor h).count).beginReception p c h := by
  have resolved := resolveSlope_assembling (s := s.reserve p (headerDescriptor h).count) hc ha
  unfold State.reserve at resolved ⊢
  simp only [State.resolvePacket, resolved]

theorem resolvePacket_late {s : State} {p : Ix} {h : List Byte}
    (room : footprint (headerDescriptor h).count ≤ (s.port p).freeCount)
    (late : (s.reserve p (headerDescriptor h).count).resolveSlope (headerDescriptor h).tag
      = (.late, s.reserve p (headerDescriptor h).count)) :
    s.resolvePacket p h = (s.bump (.port p .lateAtArrival)).raise .lateInput := by
  have returned := reserve_returned room
  unfold State.reserve at late returned
  simp only [State.resolvePacket, late, returned]

theorem resolvePacket_noMatrix {s : State} {p : Ix} {h : List Byte}
    (room : footprint (headerDescriptor h).count ≤ (s.port p).freeCount)
    (noMatrix : (s.reserve p (headerDescriptor h).count).resolveSlope (headerDescriptor h).tag
      = (.noMatrix, s.reserve p (headerDescriptor h).count)) :
    s.resolvePacket p h = s.bump (.port p .noMatrix) := by
  have returned := reserve_returned room
  unfold State.reserve at noMatrix returned
  simp only [State.resolvePacket, noMatrix, returned]

/-! ## The checks of a header, in their order (R5, R7) -/

theorem header_damaged {s : State} {p : Ix} {h : List Byte} (bad : headerHolds h = false) :
    s.header p h = (s.bump (.port p .headerErrors)).raise .linkCrc := by simp [State.header, bad]

section
variable {s : State} {p : Ix} {h : List Byte} (good : headerHolds h = true)
include good

theorem header_notRunning (idle : (s.port p).state ≠ .running) : s.header p h = s.bump (.port p .notRunning) := by
  simp [State.header, good, idle]

variable (running : (s.port p).state = .running)
include running

theorem header_outOfRange (range : ¬(1 ≤ (headerDescriptor h).count ∧ (headerDescriptor h).count ≤ 256
      ∧ (headerDescriptor h).first + (headerDescriptor h).count ≤ (s.port p).config.slopeCount)) :
    s.header p h = s.bump (.port p .rangeErrors) := by
  have outside : (headerDescriptor h).count < 1 ∨ 256 < (headerDescriptor h).count
      ∨ (s.port p).config.slopeCount < (headerDescriptor h).first + (headerDescriptor h).count := by omega
  unfold State.header
  dsimp only
  rw [if_neg (by simp [good]), if_neg (by simp [running]), if_pos outside]

variable (range : 1 ≤ (headerDescriptor h).count ∧ (headerDescriptor h).count ≤ 256
  ∧ (headerDescriptor h).first + (headerDescriptor h).count ≤ (s.port p).config.slopeCount)
include range

theorem header_inRange : s.header p h
    = if (s.port p).freeCount < footprint (headerDescriptor h).count then s.noRoom p else s.resolvePacket p h := by
  have inside : ¬((headerDescriptor h).count < 1 ∨ 256 < (headerDescriptor h).count
      ∨ (s.port p).config.slopeCount < (headerDescriptor h).first + (headerDescriptor h).count) := by omega
  unfold State.header
  dsimp only
  rw [if_neg (by simp [good]), if_neg (by simp [running]), if_neg inside]

end

/-! ## What a discard leaves (R5, R7, R8, R9) -/

/-- A packet that is counted at its port and for which an event is raised changes no port and no context. -/
theorem discarded_spec (s : State) (p : Ix) (k : PortCounter) (e : Event) :
    s.counted ((s.bump (.port p k)).raise e) (.port p k) 1 ∧ s.raised ((s.bump (.port p k)).raise e) e
    ∧ ((s.bump (.port p k)).raise e).ports = s.ports ∧ ((s.bump (.port p k)).raise e).frames = s.frames := by
  refine ⟨?_, raised_of_raise ?_ rfl rfl, by simp, by simp⟩
  · simp [State.counted, counter_raise, counter_bump]
  · simp [counter_bump]

theorem noRoom_drop {s : State} {p : Ix} (mode : (s.port p).config.fullMode = .drop) :
    s.noRoom p = (s.bump (.port p .droppedFull)).raise .packetDropped := by simp [State.noRoom, mode]

theorem fatal_portStopped (p : Ix) : hasEvent fatalSet (portStopped p) = true := by cases p <;> decide

theorem counter_completionTests (s : State) {k : Counter} (h : k ≠ .assembled) :
    s.completionTests.counter k = s.counter k :=
  (counter_completionTest _ _ h).trans (counter_completionTest _ _ h)

/-- Too little room in STOP mode: the port is STOPPED and its fatal event latched (R8). -/
theorem noRoom_stop_spec {s : State} {p : Ix} (mode : (s.port p).config.fullMode = .stop) :
    s.counted (s.noRoom p) (.port p .stoppedDiscard) 1 ∧ (s.noRoom p).isPending (portStopped p) = true
    ∧ (s.noRoom p).port p = { s.port p with state := .stopped } ∧ (s.noRoom p).port p.other = s.port p.other := by
  generalize hu : (s.bump (.port p .stoppedDiscard)).setPort p { s.port p with state := .stopped } = u
  have eq : s.noRoom p = (u.raise (portStopped p)).completionTests := by simp [State.noRoom, mode, hu]
  have latched := (raise_raised u (portStopped p)).2 (fatal_portStopped p)
  rw [eq]
  refine ⟨?_, ?_, ?_, ?_⟩
  · simp [State.counted, counter_completionTests, counter_raise, ← hu, counter_bump]
  · simpa [State.isPending, State.completionTests] using latched
  · simp [State.completionTests, ← hu]
  · simp [State.completionTests, ← hu]

/-- Settles O15, check by check in the order of R5, R7 and R24. -/
theorem slopeHeaderThatFailsIsDiscarded : Obligations.SlopeHeaderThatFailsIsDiscarded := by
  intro p h s hup hr
  refine ⟨_, slopePacketHeader_eq h hup hr, ?_⟩
  split
  · next bad =>
    obtain ⟨counted, raised, ports, _⟩ := discarded_spec s p .headerErrors .linkCrc
    rw [header_damaged bad]
    exact ⟨counted, raised, ports⟩
  next good =>
  rw [Bool.not_eq_false] at good
  split
  · next idle =>
    rw [header_notRunning good idle]
    exact ⟨counted_bump _ _, rfl⟩
  next running =>
  rw [not_not] at running
  split
  · next outside =>
    rw [header_outOfRange good running outside]
    exact ⟨counted_bump _ _, rfl⟩
  next range =>
  rw [not_not] at range
  rw [header_inRange good running range]
  split
  · cases mode : (s.port p).config.fullMode with
    | drop =>
      obtain ⟨counted, raised, ports, _⟩ := discarded_spec s p .droppedFull .packetDropped
      rw [noRoom_drop mode]
      exact ⟨counted, raised, ports⟩
    | stop => exact noRoom_stop_spec mode
  next room =>
  rw [Nat.not_lt] at room
  cases hc : s.ctxOfTag? (headerDescriptor h).tag with
  | some c =>
    intro past
    rw [resolvePacket_late room (resolveSlope_past hc past)]
    exact discarded_spec _ _ _ _
  | none =>
    refine ⟨fun old => ?_, fun new lacks => ?_⟩
    · rw [resolvePacket_late room (resolveSlope_old hc old)]
      exact discarded_spec _ _ _ _
    · rw [resolvePacket_noMatrix room (resolveSlope_noMatrix hc new lacks)]
      exact ⟨counted_bump _ _, rfl, rfl⟩

/-! ## A packet taken into reception (R9) -/

/-- The two words of a descriptor stand at the old write position (R6). -/
theorem append_descriptor (x : Port) (d : Descriptor) :
    (x.append [.descriptor d, .descriptorRest]).ring.get (x.writePos % 8192) = .descriptor d
    ∧ (x.append [.descriptor d, .descriptorRest]).ring.get ((x.writePos + 1) % 8192) = .descriptorRest :=
  ⟨get_writeWords x.ring x.writePos 0 _ (by simp) (by simp), get_writeWords x.ring x.writePos 1 _ (by simp) (by simp)⟩

/-- A port that has taken a packet into reception. -/
def Port.receiving (x : Port) (d : Descriptor) (h : List Byte) : Port :=
  { x.append [.descriptor d, .descriptorRest] with
    freeCount := x.freeCount - footprint d.count, reception := some ⟨h, d⟩ }

theorem beginReception_reserve (s : State) (p c : Ix) (h : List Byte) :
    (s.reserve p (headerDescriptor h).count).beginReception p c h
      = (s.setPort p ((s.port p).receiving { headerDescriptor h with ctx := c } h)).setCtx c
        { s.ctx c with heldCount := (s.ctx c).heldCount.set p ((s.ctx c).heldCount.get p + 1) } := by
  unfold State.beginReception State.reserve
  simp only [State_port_setPort, State_ctx_setPort, State_setPort_setPort]
  rfl

/-- Settles O14: the header passes every check, and the packet is resolved to its open context. -/
theorem slopeHeaderOfAnOpenTagIsReceived : Obligations.SlopeHeaderOfAnOpenTagIsReceived := by
  intro p c h s hup hr good running least most fits room hc assembling
  have eq : s.header p h = (s.reserve p (headerDescriptor h).count).beginReception p c h := by
    rw [header_inRange good running ⟨least, most, fits⟩, if_neg (Nat.not_lt.mpr room), resolvePacket_accepted hc assembling]
  refine ⟨_, slopePacketHeader_eq h hup hr, ?_⟩
  obtain ⟨first, second⟩ := append_descriptor (s.port p) { headerDescriptor h with ctx := c }
  rw [eq, beginReception_reserve, State_port_setCtx, State_port_setPort]
  exact ⟨rfl, rfl, first, second, rfl, rfl, rfl, running, hup, by simp, by simp, by simp, rfl⟩

/-! ## Taking a packet (R13) -/

/-- The held-packet count of a context that is still open with the packet's tag falls by one (R13). -/
theorem releasePacket_heldCount {s : State} (p : Ix) {d : Descriptor} (h : s.stillOpen d = true) :
    ((s.releasePacket p d).ctx d.ctx).heldCount.get p = (s.ctx d.ctx).heldCount.get p - 1 := by
  obtain ⟨j, hj⟩ := completionTest_ctx ((s.setPort p ((s.port p).releaseWords d.count)).setCtx d.ctx
    { s.ctx d.ctx with heldCount := (s.ctx d.ctx).heldCount.set p ((s.ctx d.ctx).heldCount.get p - 1) }) d.ctx d.ctx
  have eq : s.releasePacket p d = State.completionTest ((s.setPort p ((s.port p).releaseWords d.count)).setCtx d.ctx
      { s.ctx d.ctx with heldCount := (s.ctx d.ctx).heldCount.set p ((s.ctx d.ctx).heldCount.get p - 1) }) d.ctx := if_pos h
  rw [eq, hj]
  simp

theorem takePacket_exec {s : State} {p : Ix} {d : Descriptor} (idle : s.engine.work = .idle) (jobs : s.frames.jobs = [])
    (ring : s.nextRing? = some p) (oldest : (s.port p).ring.get (s.port p).readPos = .descriptor d) :
    exec .columnEngineTakePacket s = .next (s.takePacket p d) := by
  show execColumnEngineTakePacket s = _
  simp [execColumnEngineTakePacket, idle, jobs, ring, oldest]

/-- A packet whose context is not ASSEMBLING with its tag is skipped: counted, raised and released (R13). -/
theorem takePacket_skips {s : State} (p : Ix) {d : Descriptor}
    (past : ¬(s.stillOpen d = true ∧ (s.ctx d.ctx).state = .assembling)) :
    let t := s.takePacket p d
    t.engine = { s.engine with lastPort := p } ∧ t.arbiter = s.arbiter
    ∧ s.counted t (.port p .lateAtConsumption) 1 ∧ s.raised t .lateInput ∧ s.releases t p d
    ∧ (s.stillOpen d = true → (t.ctx d.ctx).heldCount.get p = (s.ctx d.ctx).heldCount.get p - 1) := by
  generalize hu : ({ s with engine := { s.engine with lastPort := p } } : State) = u
  have eq : s.takePacket p d = ((u.bump (.port p .lateAtConsumption)).raise .lateInput).releasePacket p d := by
    subst hu; exact if_neg past
  have frames : u.frames = s.frames := by subst hu; rfl
  have port : u.port p = s.port p := by subst hu; rfl
  have same (k : Counter) : u.counter k = s.counter k := by subst hu; rfl
  obtain ⟨releases, _, engine, arbiter, events, counters⟩ :=
    releasePacket_spec ((u.bump (.port p .lateAtConsumption)).raise .lateInput) p d
  dsimp only
  rw [eq]
  refine ⟨?_, ?_, ?_, ?_, ?_, fun hopen => ?_⟩
  · rw [engine]; simp [← hu]
  · rw [arbiter]; simp [← hu]
  · simp [State.counted, counters, counter_raise, counter_bump, same]
  · exact raised_of_raise (by simp [counter_bump, same]) events (counters _ (by simp))
  · unfold State.releases at releases ⊢
    simpa [port] using releases
  · have still : ((u.bump (.port p .lateAtConsumption)).raise .lateInput).stillOpen d = true := by
      rw [stillOpen_congr (s := s) (by simp [frames])]; exact hopen
    rw [releasePacket_heldCount p still, ctx_congr (s := s) (by simp [frames])]

/-- The treatment of a slope touches neither the ring taken from last, nor the pass in hand, nor the sums of a context (R15). -/
theorem treatSlope_keeps (s : State) (p : Ix) (d : Descriptor) (k : Nat) :
    (s.treatSlope p d k).2.engine.lastPort = s.engine.lastPort ∧ (s.treatSlope p d k).2.engine.pass = s.engine.pass
    ∧ ∀ x, ((s.treatSlope p d k).2.ctx x).sums = (s.ctx x).sums := by
  have accept : ∀ (c : Ix) (i : Nat) (v : Int), (s.acceptSlope p c i v).engine.lastPort = s.engine.lastPort
      ∧ (s.acceptSlope p c i v).engine.pass = s.engine.pass
      ∧ ∀ x, ((s.acceptSlope p c i v).ctx x).sums = (s.ctx x).sums := by
    intro c i v
    unfold State.acceptSlope State.bumpIf Context.addFlagIf
    dsimp only
    split <;> exact ⟨rfl, rfl, fun x => by cases c <;> cases x <;> rfl⟩
  unfold State.treatSlope
  dsimp only
  split
  · exact ⟨rfl, rfl, fun _ => rfl⟩
  · split
    · exact ⟨rfl, rfl, fun _ => rfl⟩
    · exact accept _ _ _

/-- Going on with a packet keeps the ring taken from last and every sum; with nothing fetched, also the pass (R13, R15, R52). -/
theorem continuePacket_keeps (s : State) (p : Ix) (d : Descriptor) (k n : Nat) :
    let t := s.continuePacket p d k n
    t.engine.lastPort = s.engine.lastPort ∧ (t.engine.work = .idle → t.engine.pass = s.engine.pass)
    ∧ ∀ x, (t.ctx x).sums = (s.ctx x).sums := by
  induction n generalizing s k with
  | zero =>
    obtain ⟨_, contexts, engine, _⟩ := releasePacket_spec { s with engine := { s.engine with work := .idle } } p d
    dsimp only [State.continuePacket]
    rw [engine]
    refine ⟨rfl, fun _ => rfl, fun x => ?_⟩
    obtain ⟨_, _, _, sums, _⟩ := contexts x
    exact sums
  | succ n ih =>
    obtain ⟨port, pass, sums⟩ := treatSlope_keeps s p d k
    dsimp only
    unfold State.continuePacket
    dsimp only
    split
    · generalize hw : ({ (s.treatSlope p d k).2 with
        engine := { (s.treatSlope p d k).2.engine with work := .packet p d (k + 1) } } : State) = w
      obtain ⟨_, engine, frames, _⟩ := startColumn_spec w d.ctx (s.localIndex p (d.first + k)) (s.treatSlope p d k).1
      rw [engine]
      refine ⟨by rw [← hw]; exact port, fun h => by simp [← hw] at h, fun x => ?_⟩
      rw [ctx_congr frames, ← hw]
      exact sums x
    · obtain ⟨port', pass', sums'⟩ := ih (s.treatSlope p d k).2 (k + 1)
      exact ⟨port'.trans port, fun h => (pass' h).trans pass, fun x => (sums' x).trans (sums x)⟩

/-- A packet of an ASSEMBLING context is processed from its first slope on (R13, R15). -/
theorem takePacket_goesOn {s : State} (p : Ix) {d : Descriptor} (still : s.stillOpen d = true)
    (assembling : (s.ctx d.ctx).state = .assembling) :
    let t := s.takePacket p d
    t.engine.lastPort = p ∧ s.goesOn t s.arbiter p d 0 ∧ (t.engine.work = .idle → t.engine.pass = s.engine.pass)
    ∧ ∀ x : Ix, (t.ctx x).sums = (s.ctx x).sums := by
  generalize hu : ({ s with engine := { s.engine with lastPort := p, work := .packet p d 0 } } : State) = u
  have eq : s.takePacket p d = u.continuePacket p d 0 d.count := by subst hu; exact if_pos ⟨still, assembling⟩
  obtain ⟨port, pass, sums⟩ := continuePacket_keeps u p d 0 d.count
  have treated : s.treats u p d 0 0 := by
    subst hu; exact treats_congr (treats_refl s p d 0) rfl rfl rfl rfl (fun _ _ => rfl)
  dsimp only
  rw [eq]
  refine ⟨port.trans (by rw [← hu]), ?_, fun h => (pass h).trans (by rw [← hu]),
    fun x => (sums x).trans (by rw [← hu]; rfl)⟩
  exact continuePacket_goesOn d.count 0 u (Nat.le_refl _) (by omega) (by rw [← hu])
    (by subst hu; exact ⟨rfl, rfl, rfl, rfl, rfl, rfl⟩) treated (fun x _ h => by omega)

/-- For a CORRUPT context no column is fetched (R55). -/
theorem fetchedAt_corrupt {s : State} (p : Ix) {d : Descriptor} (corrupt : (s.ctx d.ctx).isCorrupt = true) (j : Nat) :
    s.fetchedAt p d j = false := by simp [State.fetchedAt, State.fetches, corrupt]

/-- Settles O18: a packet is skipped or processed, and one of a CORRUPT context can only go to its end. -/
theorem engineTakesOrSkipsTheOldestPacket : Obligations.EngineTakesOrSkipsTheOldestPacket := by
  intro s p d idle jobs ring oldest
  refine ⟨_, takePacket_exec idle jobs ring oldest, ?_⟩
  by_cases taken : s.stillOpen d = true ∧ (s.ctx d.ctx).state = .assembling
  · obtain ⟨still, assembling⟩ := taken
    obtain ⟨port, goes, pass, sums⟩ := takePacket_goesOn p still assembling
    refine ⟨port, fun h => absurd ⟨still, assembling⟩ h, fun _ _ => ⟨goes, pass, sums⟩, fun _ _ corrupt => ?_⟩
    rcases goes with ⟨j, _, _, fetched, _⟩ | ⟨_, _, work, arbiter, readPos, freeCount⟩
    · simp [fetchedAt_corrupt p corrupt] at fetched
    · exact ⟨work, readPos, freeCount, sums _, arbiter⟩
  · obtain ⟨engine, arbiter, counted, raised, ⟨readPos, freeCount⟩, held⟩ := takePacket_skips p taken
    refine ⟨by rw [engine], fun _ => ⟨counted, raised, by rw [engine]; exact idle, readPos, freeCount, held,
      by rw [engine], arbiter⟩, fun h h' => absurd ⟨h, h'⟩ taken, fun h h' => absurd ⟨h, h'⟩ taken⟩

/-! ## One substitution (R17, R18) -/

theorem substitute_zero {s : State} (c : Ix) {i : Nat} (h : s.fillOf i = .zero) : s.substitute c i
    = (0, (s.setCtx c { s.ctx c with slopes := (s.ctx c).slopes.set i 0 }).bump (.port (s.ownerOf i) .missing)) := by
  unfold State.substitute; rw [h]

theorem substitute_lost {s : State} (c : Ix) {i : Nat} (h : s.fillOf i = .lost) : s.substitute c i
    = (0, (s.setCtx c { (s.ctx c).addFlag .slopesLost with slopes := (s.ctx c).slopes.set i 0 }).bump
      (.port (s.ownerOf i) .lost)) := by
  unfold State.substitute; rw [h]

theorem substitute_sums (s : State) (c : Ix) (i : Nat) : ((s.substitute c i).2.ctx c).sums = (s.ctx c).sums := by
  unfold State.substitute
  dsimp only
  split <;> cases c <;> rfl

theorem heldAt_zero {s : State} {i : Nat} (h : (s.port (s.ownerOf i)).state = .idle
    ∨ (s.port (s.ownerOf i)).config.policy = .zero) : s.heldAt i = false := by
  rcases h with h | h <;> simp [State.heldAt, h]

theorem lostAt_zero {s : State} {i : Nat} (h : (s.port (s.ownerOf i)).state = .idle
    ∨ (s.port (s.ownerOf i)).config.policy = .zero) : s.lostAt i = false := by
  rcases h with h | h <;> simp [State.lostAt, h]

/-- With the owning port IDLE or of policy ZERO the index is missing, and the engine's tables stay (R17). -/
theorem substitute_engine_of_not_held {s : State} (c : Ix) {i : Nat} (h : s.heldAt i = false) :
    (s.substitute c i).2.engine = s.engine := by
  have fill : s.fillOf i = .lost ∨ s.fillOf i = .zero := by
    rw [fillOf_eq, if_neg (by simp [h])]
    split
    · exact .inl rfl
    · exact .inr rfl
  rcases fill with lost | zero
  · rw [substitute_lost c lost]; rfl
  · rw [substitute_zero c zero]; rfl

theorem counted_of_countedIf {s t : State} {b : Bool} {k : Counter} (hb : b = true) (h : s.countedIf t b k) :
    s.counted t k 1 := by simpa [State.countedIf, State.counted, hb] using h

/-- The table of R17 for one index. -/
theorem substitute_table (s : State) (c i : Ix) (k : Nat) (hi : i = s.ownerOf k) :
    (((s.substitute c k).2.ctx c).seen = (s.ctx c).seen ∧ ((s.substitute c k).2.ctx c).sums = (s.ctx c).sums)
    ∧ ((s.port i).state = .idle ∨ (s.port i).config.policy = .zero →
      (s.substitute c k).1 = 0 ∧ ((s.substitute c k).2.ctx c).slopes.get k = 0
      ∧ (s.substitute c k).2.engine = s.engine ∧ s.counted (s.substitute c k).2 (.port i .missing) 1)
    ∧ ((s.port i).state ≠ .idle → (s.port i).config.policy = .hold →
      (s.holdEntry k).age < (s.port i).config.holdLimit →
      (s.substitute c k).1 = (s.holdEntry k).value ∧ ((s.substitute c k).2.ctx c).slopes.get k = (s.holdEntry k).value
      ∧ (s.substitute c k).2.engine.hold.get k = some ⟨(s.holdEntry k).value, (s.holdEntry k).age + 1⟩
      ∧ ((s.substitute c k).2.ctx c).hasFlag .slopesSubstituted = true
      ∧ s.counted (s.substitute c k).2 (.port i .substituted) 1)
    ∧ ((s.port i).state ≠ .idle → (s.port i).config.policy = .hold →
      (s.port i).config.holdLimit ≤ (s.holdEntry k).age →
      (s.substitute c k).1 = 0 ∧ ((s.substitute c k).2.ctx c).slopes.get k = 0
      ∧ (s.substitute c k).2.engine = s.engine ∧ ((s.substitute c k).2.ctx c).hasFlag .slopesLost = true
      ∧ s.counted (s.substitute c k).2 (.port i .lost) 1) := by
  subst hi
  obtain ⟨_, value, seen, _, slopes, flags, hold, counts⟩ := substitute_spec s c k
  obtain ⟨substituted, lost, missing⟩ := counts (s.ownerOf k)
  have slope := slopes k
  rw [if_pos rfl] at slope
  refine ⟨⟨seen, substitute_sums s c k⟩, fun zero => ?_, fun busy policy young => ?_, fun busy policy old => ?_⟩
  · have notHeld := heldAt_zero zero
    have notLost := lostAt_zero zero
    simp only [notHeld, Bool.false_eq_true, if_false] at value slope
    exact ⟨value, slope, substitute_engine_of_not_held c notHeld, counted_of_countedIf (by simp [notHeld, notLost]) missing⟩
  · have held : s.heldAt k = true := by simp [State.heldAt, busy, policy, young]
    have aged := hold k
    simp only [held, and_self, if_true] at value slope aged
    exact ⟨value, slope, aged, by simp [flags, held], counted_of_countedIf (by simp [held]) substituted⟩
  · have notHeld : s.heldAt k = false := by simp [State.heldAt, old]
    have isLost : s.lostAt k = true := by simp [State.lostAt, busy, policy, old]
    simp only [notHeld, Bool.false_eq_true, if_false] at value slope
    exact ⟨value, slope, substitute_engine_of_not_held c notHeld, by simp [flags, isLost],
      counted_of_countedIf (by simp [isLost]) lost⟩

/-! ## A substitution job (R17, R18) -/

/-- A substitution touches neither the job queue nor the job of its context. -/
theorem substitute_jobs (s : State) (c : Ix) (i : Nat) : (s.substitute c i).2.frames.jobs = s.frames.jobs
    ∧ ((s.substitute c i).2.ctx c).job = (s.ctx c).job := by
  unfold State.substitute
  dsimp only
  split <;> cases c <;> exact ⟨rfl, rfl⟩

/-- Going on with a job leaves the job queue, and, where it ends in a fetch, the job of its context (R18, R52). -/
theorem continueJob_jobs (s : State) (c : Ix) (i n : Nat) :
    (s.continueJob c i n).frames.jobs = s.frames.jobs
    ∧ ((s.continueJob c i n).engine.work ≠ .idle → ((s.continueJob c i n).ctx c).job = (s.ctx c).job) := by
  induction n generalizing s i with
  | zero =>
    have moves := accumulated_moves { s with engine := { s.engine with work := .idle } } c
    have engine := moves.frame .engine (by decide)
    simp only [Part.same, Prod.mk.injEq] at engine
    exact ⟨(moves.frame .jobs (by decide)).symm, fun h => absurd engine.2.1.symm h⟩
  | succ n ih =>
    obtain ⟨jobs, job⟩ := substitute_jobs s c i
    unfold State.continueJob
    dsimp only
    split
    · exact ih s (i + 1)
    · split
      · generalize hw : ({ (s.substitute c i).2 with
          engine := { (s.substitute c i).2.engine with work := .job c (i + 1) } } : State) = w
        obtain ⟨_, _, frames, _⟩ := startColumn_spec w c i (s.substitute c i).1
        rw [frames, ctx_congr frames, ← hw]
        exact ⟨jobs, fun _ => job⟩
      · obtain ⟨jobs', job'⟩ := ih (s.substitute c i).2 (i + 1)
        exact ⟨jobs'.trans jobs, fun h => (job' h).trans job⟩

/-- Where both ports are IDLE or of policy ZERO a job leaves the hold table as it was (R17). -/
theorem continueJob_hold_of_zero (s : State) (c : Ix) (i n : Nat)
    (zero : ∀ p : Ix, (s.port p).state = .idle ∨ (s.port p).config.policy = .zero) :
    (s.continueJob c i n).engine.hold = s.engine.hold := by
  induction n generalizing s i with
  | zero => exact ((accumulated_moves { s with engine := { s.engine with work := .idle } } c).frame .hold (by decide)).symm
  | succ n ih =>
    have engine := substitute_engine_of_not_held c (heldAt_zero (i := i) (zero _))
    have ports := (substitute_spec s c i).1.ports
    unfold State.continueJob
    dsimp only
    split
    · exact ih s (i + 1) zero
    · split
      · obtain ⟨_, fetching, _⟩ := startColumn_spec { (s.substitute c i).2 with
          engine := { (s.substitute c i).2.engine with work := .job c (i + 1) } } c i (s.substitute c i).1
        rw [fetching]
        have hold := congrArg Engine.hold engine
        exact hold
      · rw [ih _ _ (fun p => by rw [port_congr ports]; exact zero p), engine]

/-- The state in which the job queued first, that of context `c`, has begun to run (R18). -/
def State.jobBegun (s : State) (c : Ix) (rest : List Ix) : State :=
  State.setCtx { s with frames := { s.frames with jobs := rest }, engine := { s.engine with work := .job c 0 } } c
    { s.ctx c with job := .running }

theorem substitutionJobRun_exec {s : State} {c : Ix} {rest : List Ix} (idle : s.engine.work = .idle)
    (jobs : s.frames.jobs = c :: rest) :
    exec .substitutionJobRun s = .next ((s.jobBegun c rest).continueJob c 0 s.slopeTotal) := by
  show execSubstitutionJobRun s = _
  unfold execSubstitutionJobRun
  rw [idle, jobs]
  rfl

@[simp] theorem jobBegun_ctx (s : State) (c : Ix) (rest : List Ix) :
    (s.jobBegun c rest).ctx c = { s.ctx c with job := .running } := by simp [State.jobBegun]

theorem jobBegun_ground (s : State) (c : Ix) (rest : List Ix) : s.SameGround (s.jobBegun c rest) c :=
  ⟨rfl, rfl, rfl, rfl, by rw [jobBegun_ctx]; rfl, by rw [jobBegun_ctx]⟩

theorem jobBegun_ages (s : State) (c : Ix) (rest : List Ix) : s.ages (s.jobBegun c rest) c 0 0 :=
  fun j => by rw [if_neg (by omega)]; rfl

theorem jobBegun_fills (s : State) (c : Ix) (rest : List Ix) : s.fills (s.jobBegun c rest) c 0 0 := by
  have same (k : Counter) : (s.jobBegun c rest).counter k = s.counter k := rfl
  refine ⟨by simp, fun j => by simp, fun j _ h => by omega, fun q => ?_⟩
  simp [State.countedTimes, State.unseenCount, same]

theorem jobBegun_awaits {s : State} {c : Ix} (rest : List Ix) (h : s.awaitsSegments c) :
    (s.jobBegun c rest).awaitsSegments c := by
  unfold State.awaitsSegments at h ⊢
  rwa [jobBegun_ctx]

/-- A job that has begun goes on from index 0 (R17, R52). -/
theorem jobBegun_goesOn (s : State) (c : Ix) (rest : List Ix) :
    s.goesOnFilling ((s.jobBegun c rest).continueJob c 0 s.slopeTotal) s.arbiter c 0 :=
  continueJob_goesOn s.slopeTotal 0 _ (Nat.le_refl _) (by omega) rfl (jobBegun_ground s c rest) (jobBegun_ages s c rest)
    (jobBegun_fills s c rest) (by simp) (jobBegun_awaits rest) (fun x _ h => by omega)

/-- Settles O19: the table of R17 for one index, and a job from index 0 on. -/
theorem substitutionFillsUnseenSlopes : Obligations.SubstitutionFillsUnseenSlopes := by
  refine ⟨substitute_table, fun s c rest idle jobs => ⟨_, substitutionJobRun_exec idle jobs, ?_⟩⟩
  obtain ⟨queue, job⟩ := continueJob_jobs (s.jobBegun c rest) c 0 s.slopeTotal
  have goes := jobBegun_goesOn s c rest
  refine ⟨queue, goes, fun h => (job h).trans (by simp), fun zero => ?_⟩
  have notHeld (j : Nat) : s.heldAt j = false := heldAt_zero (zero _)
  rcases goes with ⟨j, _, _, fetched, _⟩ | ⟨_, ⟨_, work, ended⟩, arbiter⟩
  · simp [State.fillFetchedAt, notHeld] at fetched
  · refine ⟨work, continueJob_hold_of_zero (s.jobBegun c rest) c 0 _ zero, fun waits => ?_⟩
    obtain ⟨⟨_, slopes, _⟩, state, _⟩ := ended waits
    refine ⟨state, arbiter waits, fun k hk => ?_⟩
    rw [slopes k]
    cases (s.ctx c).seen.get k <;> simp [hk, notHeld]

/-! ## A scheduled swap after a change of shape (R49) -/

/-- Two states differ at most in a swap mark and in the counter of cancelled swaps. -/
structure State.SameButSwap (s t : State) : Prop where
  live : t.liveBank? = s.liveBank?
  counters : ∀ k, k ≠ .swapsCancelled → t.counter k = s.counter k
  rest : ∃ banks counters, t = { s with bankStore := banks, counters := counters }

theorem State.SameButSwap.refl (s : State) : s.SameButSwap s := ⟨rfl, fun _ _ => rfl, _, _, rfl⟩

theorem cancelSwap_sameButSwap (s : State) : s.SameButSwap s.cancelSwap := by
  unfold State.cancelSwap
  split
  · next b _ _ =>
    refine ⟨by cases b <;> rfl, fun k hk => ?_, _, _, rfl⟩
    rw [counter_bump, if_neg hk]
    rfl
  · exact .refl s

theorem recheckSwap_sameButSwap (s : State) : s.SameButSwap s.recheckSwap := by
  unfold State.recheckSwap
  split
  · split
    · exact .refl s
    · exact cancelSwap_sameButSwap s
  · exact .refl s

/-! ## A port configuration takes effect (R2, R3, R12, R16) -/

/-- What the immediate fields of a port configuration change: the port, and, where its shape changes, its ring, the hold table, the
engine's work and a scheduled swap. -/
structure State.Reconfigured (s t : State) (p : Ix) (new : PortConfig) : Prop where
  config : (t.port p).config = new
  portState : (t.port p).state = (s.port p).state.afterEnable (s.port p).config.enabled new.enabled
  other : t.port p.other = s.port p.other
  emptied : (s.port p).config.reshapes new = true → (t.port p).readPos = 0 ∧ (t.port p).visiblePos = 0
    ∧ (t.port p).writePos = 0 ∧ (t.port p).freeCount = 8192 ∧ (t.port p).reception = none
    ∧ ∀ i, t.engine.hold.get i = none
  live : t.liveBank? = s.liveBank?
  staged : t.counter .stagedPlaced = s.counter .stagedPlaced
  frames : t.frames = s.frames
  params : t.params = s.params
  mgmt : t.mgmt = s.mgmt
  trunk : t.trunk = s.trunk
  node : t.nodeNumber = s.nodeNumber

theorem State.Reconfigured.waits {s t : State} {p : Ix} {new : PortConfig} (h : s.Reconfigured t p new) :
    t.slopeWaits = s.slopeWaits := by
  unfold State.slopeWaits State.anyOpen
  rw [h.live, ctx_congr h.frames, ctx_congr h.frames]

/-- A scheduled swap that is then cancelled changes none of this. -/
theorem State.Reconfigured.recheckSwap {s t : State} {p : Ix} {new : PortConfig} (h : s.Reconfigured t p new) :
    s.Reconfigured t.recheckSwap p new := by
  obtain ⟨live, counters, banks, table, eq⟩ := recheckSwap_sameButSwap t
  have ports : t.recheckSwap.ports = t.ports := by rw [eq]
  have hold : t.recheckSwap.engine.hold = t.engine.hold := by rw [eq]
  refine ⟨?_, ?_, ?_, fun shape => ?_, live.trans h.live, (counters _ (by decide)).trans h.staged, ?_, ?_, ?_, ?_, ?_⟩
  · rw [port_congr ports]; exact h.config
  · rw [port_congr ports]; exact h.portState
  · rw [port_congr ports]; exact h.other
  · rw [port_congr ports, hold]; exact h.emptied shape
  · rw [eq]; exact h.frames
  · rw [eq]; exact h.params
  · rw [eq]; exact h.mgmt
  · rw [eq]; exact h.trunk
  · rw [eq]; exact h.node

theorem setPortNow_reconfigures (s : State) (p : Ix) (new : PortConfig) : s.Reconfigured (s.setPortNow p new) p new := by
  unfold State.setPortNow
  dsimp only
  split
  · apply State.Reconfigured.recheckSwap
    cases p <;> exact ⟨rfl, rfl, rfl, fun _ => ⟨rfl, rfl, rfl, rfl, rfl, fun _ => rfl⟩, rfl, rfl, rfl, rfl, rfl, rfl, rfl⟩
  · next same =>
    cases p <;> exact ⟨rfl, rfl, rfl, fun shape => absurd shape same, rfl, rfl, rfl, rfl, rfl, rfl, rfl⟩

/-- The same where the request has been counted as accepted first. -/
theorem setPortNow_bump_reconfigures (s : State) (p : Ix) (new : PortConfig) :
    s.Reconfigured ((s.bump .requestsAccepted).setPortNow p new) p new := by
  have h := setPortNow_reconfigures (s.bump .requestsAccepted) p new
  exact ⟨h.config, h.portState, h.other, h.emptied, h.live, h.staged.trans (by simp [counter_bump]), h.frames, h.params,
    h.mgmt, h.trunk, h.node⟩

theorem afterEnable_eq (x : PortState) (was now : Bool) :
    x.afterEnable was now = if now = was then x else if now = true then .running else .idle := by
  cases was <;> cases now <;> rfl

theorem reshapes_iff (f g : PortConfig) :
    f.reshapes g = true ↔ g.enabled ≠ f.enabled ∨ g.slopeCount ≠ f.slopeCount := by
  unfold PortConfig.reshapes
  rw [Bool.or_eq_true, bne_iff_ne, bne_iff_ne, ne_comm, ne_comm (a := f.slopeCount)]

/-! ## The staged part of a port configuration (R28, R187) -/

theorem slopeWaits_iff (s : State) : s.slopeWaits = true ↔ s.liveBank?.isSome = true ∨ s.anyOpen = true := by
  simp [State.slopeWaits]

theorem drainSlope_nil {s : State} (e : Option Tag) (h : s.mgmt.slopeQueue = []) : s.drainSlope e = s := by
  have eq : ({ s with mgmt := { s.mgmt with slopeQueue := [] } } : State) = s := by rw [← h]
  unfold State.drainSlope
  rw [eq, h]
  rfl

theorem applyPolicy_spec (s : State) (p : Ix) (policy : Option MissingPolicy) (limit : Option Nat) :
    let t := s.applyPolicy p policy limit
    (t.port p).config = { (s.port p).config with
      policy := policy.getD (s.port p).config.policy, holdLimit := limit.getD (s.port p).config.holdLimit }
    ∧ t.port p.other = s.port p.other ∧ t.mgmt = s.mgmt ∧ t.trunk = s.trunk ∧ t.nodeNumber = s.nodeNumber := by
  unfold State.applyPolicy
  dsimp only
  split <;> cases p <;> exact ⟨rfl, rfl, rfl, rfl, rfl⟩

theorem stageSlope_placed {s : State} (r : Request) (w : SlopeWrite) (waits : s.slopeWaits = true)
    (room : s.mgmt.slopeQueue.length < Config.stagedCapacity) : s.stageSlope r w = State.bump (State.bump
      { s with mgmt := { s.mgmt with slopeQueue := s.mgmt.slopeQueue ++ [s.stagedEntry r w] } } .requestsAccepted)
      .stagedPlaced := by
  unfold State.stageSlope
  rw [if_pos waits, if_neg (Nat.not_le.mpr room)]

theorem stageSlope_at_once {s : State} (r : Request) (w : SlopeWrite) (waits : s.slopeWaits = false)
    (empty : s.mgmt.slopeQueue = []) :
    s.stageSlope r w = ((s.bump .requestsAccepted).applySlope w).respond r .done none [] := by
  have drained : (s.bump .requestsAccepted).drainSlope none = s.bump .requestsAccepted := drainSlope_nil none empty
  unfold State.stageSlope State.done
  rw [if_neg (by simp [waits]), drained]

/-! ## The write of a port configuration (R2, R187) -/

theorem writePort_exec {s : State} {r : Request} (oldest : s.oldest? .writePortConfiguration = some r)
    (passed : firstFailure (s.portChecks r) = none) :
    exec .writePortConfiguration s = .next (s.dequeue.writePortChecked r) := by
  have passed' : firstFailure (s.dequeue.portChecks r) = none := passed
  show execWritePortConfiguration s = _
  unfold execWritePortConfiguration
  rw [serve_eq _ oldest, State.writePort, State.judgeStaged, passed']

/-- The immediate fields that a write of a port configuration gives its port. -/
def State.configNow (s : State) (r : Request) : PortConfig := (s.port r.portOf).config.setNow r.items

section
variable (s : State) {r : Request} {w : SlopeWrite}

theorem writePortChecked_immediate (staged : r.stagedPort = none) : s.writePortChecked r
    = ((s.bump .requestsAccepted).setPortNow r.portOf (s.configNow r)).respond r .done none [] := by
  unfold State.writePortChecked; rw [staged]; rfl

/-- A write that finds the slope-side queue full is answered BUSY and changes no port (R187). -/
theorem writePortChecked_full (staged : r.stagedPort = some w) (waits : s.slopeWaits = true)
    (full : Config.stagedCapacity ≤ s.mgmt.slopeQueue.length) :
    s.writePortChecked r = (s.bump .stagedFull).respond r .busy none [] := by
  have turnedAway : (s.slopeWaits && Config.stagedCapacity ≤ s.mgmt.slopeQueue.length) = true := by
    rw [waits, Bool.true_and]; exact decide_eq_true full
  unfold State.writePortChecked
  rw [staged]
  exact if_pos turnedAway

theorem writePortChecked_staged (staged : r.stagedPort = some w)
    (room : s.slopeWaits = false ∨ s.mgmt.slopeQueue.length < Config.stagedCapacity) :
    s.writePortChecked r = (s.setPortNow r.portOf (s.configNow r)).stageSlope r w := by
  have placed : (s.slopeWaits && Config.stagedCapacity ≤ s.mgmt.slopeQueue.length) = false := by
    rcases room with waits | room
    · rw [waits, Bool.false_and]
    · rw [decide_eq_false (Nat.not_le.mpr room), Bool.and_false]
  unfold State.writePortChecked
  rw [staged]
  exact if_neg (by rw [placed]; decide)

theorem stagedPort_eq (staged : r.stagedPort = some w) :
    w = .portPolicy r.portOf (policyOf r.items) (lastItem r.items 3) := by
  unfold Request.stagedPort at staged
  split at staged
  · exact (Option.some.inj staged).symm
  · cases staged

/-- A write that names neither policy nor hold limit is answered DONE once its fields are in effect (R2). -/
theorem writePort_immediate (staged : r.stagedPort = none) : ∃ u, s.Reconfigured u r.portOf (s.configNow r)
    ∧ s.writePortChecked r = u.respond r .done none [] :=
  ⟨_, setPortNow_bump_reconfigures s _ _, writePortChecked_immediate s staged⟩

/-- A write that waits for an opening: its immediate fields are in effect, and its staged part joins the queue (R28, R187). -/
theorem writePort_waits (staged : r.stagedPort = some w) (waits : s.slopeWaits = true)
    (room : s.mgmt.slopeQueue.length < Config.stagedCapacity) : ∃ u, s.Reconfigured u r.portOf (s.configNow r)
    ∧ s.writePortChecked r = State.bump (State.bump
      { u with mgmt := { s.mgmt with slopeQueue := s.mgmt.slopeQueue ++ [s.stagedEntry r w] } } .requestsAccepted)
      .stagedPlaced := by
  have h := setPortNow_reconfigures s r.portOf (s.configNow r)
  have entry : (s.setPortNow r.portOf (s.configNow r)).stagedEntry r w = s.stagedEntry r w := by
    unfold State.stagedEntry State.watchdogNow State.now; rw [h.frames, h.params]
  refine ⟨_, h, ?_⟩
  rw [writePortChecked_staged s staged (.inr room),
    stageSlope_placed r w (h.waits.trans waits) (by rw [h.mgmt]; exact room), entry, h.mgmt]

/-- A write that need not wait takes effect whole, behind an empty queue (R28). -/
theorem writePort_at_once (staged : r.stagedPort = some w) (waits : s.slopeWaits = false) (empty : s.mgmt.slopeQueue = []) :
    ∃ u, s.Reconfigured u r.portOf (s.configNow r)
    ∧ s.writePortChecked r = ((u.bump .requestsAccepted).applyPolicy r.portOf (policyOf r.items) (lastItem r.items 3)).respond
      r .done none [] := by
  have h := setPortNow_reconfigures s r.portOf (s.configNow r)
  refine ⟨_, h, ?_⟩
  rw [writePortChecked_staged s staged (.inl waits), stageSlope_at_once r w (h.waits.trans waits) (by rw [h.mgmt]; exact empty),
    stagedPort_eq staged]
  rfl

end

/-- Settles O49, by the staged part that the write names and by what the write then finds. -/
theorem portConfigurationWritesApplyAndStage : Obligations.PortConfigurationWritesApplyAndStage := by
  intro s r p new oldest passed hp hnew
  have hnew' : new = s.dequeue.configNow r := by rw [hnew, hp]; rfl
  clear hnew
  subst hp
  refine ⟨_, writePort_exec oldest passed, ?_⟩
  cases staged : r.stagedPort with
  | none =>
    obtain ⟨u, h, eq⟩ := writePort_immediate s.dequeue staged
    rw [eq, port_congr (State_respond_ports u ..), port_congr (State_respond_ports u ..), hnew']
    refine ⟨answered_of (by simp [h.mgmt]) rfl h.trunk h.node, h.config, h.other, rfl, rfl, ?_, fun shape => ?_⟩
    · rw [h.portState, afterEnable_eq]; rfl
    · rw [State_respond_engine]
      exact h.emptied ((reshapes_iff _ _).mpr shape)
  | some w =>
    dsimp only
    split
    · next waiting =>
      have waits : s.dequeue.slopeWaits = true := (slopeWaits_iff s).mpr waiting
      split
      · next full =>
        rw [writePortChecked_full s.dequeue staged waits full]
        exact ⟨port_congr (by simp) _, answered_of (by simp) rfl rfl rfl, by simp,
          (counter_respond _ _ _ _ _ (by decide)).trans (counted_bump s.dequeue .stagedFull)⟩
      · next room =>
        obtain ⟨u, h, eq⟩ := writePort_waits s.dequeue staged waits (Nat.not_le.mp room)
        rw [eq, hnew']
        refine ⟨h.other, h.config, rfl, h.trunk, rfl, counted_bump_of ?_⟩
        rw [counter_bump, if_neg (by decide)]
        exact h.staged
    · next quiet =>
      intro empty
      have waits : s.dequeue.slopeWaits = false := by
        rw [← Bool.not_eq_true]; exact fun h => quiet ((slopeWaits_iff s).mp h)
      obtain ⟨u, h, eq⟩ := writePort_at_once s.dequeue staged waits empty
      obtain ⟨config, other, mgmt, trunk, node⟩ :=
        applyPolicy_spec (u.bump .requestsAccepted) r.portOf (policyOf r.items) (lastItem r.items 3)
      rw [eq, port_congr (State_respond_ports _ ..), port_congr (State_respond_ports _ ..), hnew']
      refine ⟨answered_of ?_ rfl (trunk.trans h.trunk) (node.trans h.node), other.trans h.other, ?_⟩
      · simp [mgmt, h.mgmt]
      · rw [config, State_port_bump, h.config]

end Sys2Proof.Machine

/-! SUPPORT. The proofs of the statements about loop frames and tags (chapter 2): the tick, the two deadlines, the staged writes, and
the opening and displacement of a context. -/

namespace Sys2Proof.Machine

/-! ## The tick (R20, log entry 1) -/

theorem mem_dueOnes (s : State) (moments : List Time) (i c : Instr) :
    i ∈ s.dueOnes moments c ↔ i = c ∧ ∃ m ∈ moments, hasReached s.now m = true := by
  simp only [State.dueOnes, List.mem_map, List.mem_filter]
  constructor
  · rintro ⟨m, due, rfl⟩; exact ⟨rfl, m, due⟩
  · rintro ⟨rfl, m, due⟩; exact ⟨m, due, rfl⟩

theorem mem_dueDeadlines (s : State) (x : Ix) (i : Instr) : i ∈ s.dueDeadlines x ↔
    (i = .assemblyDeadline x ∨ i = .deliveryDeadline x) ∧ s.due i := by
  unfold State.dueDeadlines
  dsimp only
  split
  · next isOpen =>
    rw [List.mem_append, mem_dueOnes, mem_dueOnes]
    constructor
    · rintro (⟨rfl, m, hm, due⟩ | ⟨rfl, m, hm, due⟩)
      all_goals
        split at hm
        · next running =>
          cases List.mem_singleton.mp hm
          exact ⟨by simp, isOpen, running, due⟩
        · cases hm
    · rintro ⟨rfl | rfl, _, running, due⟩
      · exact .inl ⟨rfl, _, by rw [if_pos running]; exact List.mem_singleton_self _, due⟩
      · exact .inr ⟨rfl, _, by rw [if_pos running]; exact List.mem_singleton_self _, due⟩
  · next shut =>
    refine ⟨fun h => (List.not_mem_nil h).elim, ?_⟩
    rintro ⟨rfl | rfl, isOpen, _⟩ <;> exact absurd isOpen shut

theorem applies_iff (l : LoopState) : l.applies = true ↔ l = .opened ∨ l = .closed := by
  cases l <;> simp [LoopState.applies]

theorem mem_starvationMoment (s : State) (m : Time) : m ∈ s.starvationMoment?.toList ↔
    (s.loop.state = .opened ∨ s.loop.state = .closed)
      ∧ ∃ u, s.loop.starvation = some u ∧ after u (1000 * s.params.starvationInterval) = m := by
  unfold State.starvationMoment?
  rw [← applies_iff]
  split <;> simp_all [millis]

theorem mem_parkMoment (s : State) (m : Time) : m ∈ s.parkMoment?.toList ↔
    s.loop.state = .safe ∧ ∃ u, s.loop.parkRefresh = some u ∧ after u 10000 = m := by
  unfold State.parkMoment?
  split <;> simp_all [Config.parkRefresh]

/-- The tick offers exactly the expiries that are due. -/
theorem mem_dueCommands (s : State) (i : Instr) : i ∈ s.dueCommands ↔ s.due i := by
  unfold State.dueCommands
  simp only [List.mem_append, mem_dueDeadlines, mem_dueOnes, mem_starvationMoment, mem_parkMoment]
  cases i
  case assemblyDeadline c => cases c <;> simp
  case deliveryDeadline c => cases c <;> simp
  case requestWatchdogExpiry w =>
    cases w <;> simp [State.due, Execution.moment, StagedEntry.moment, and_assoc]
  all_goals simp [State.due, State.holdoffMoment?, millis, and_assoc]

/-- An idle step offers the first expiry that is due, or is one microsecond (R20). -/
theorem tick_cases (s : State) :
    (∃ c, s.due c ∧ s.tick = { s with pending := [c] })
    ∨ ((∀ c, ¬ s.due c) ∧ s.tick = { s with frames := { s.frames with timebase := s.frames.timebase + 1 } }) := by
  cases h : s.dueCommands with
  | cons c rest => exact .inl ⟨c, (mem_dueCommands s c).mp (by rw [h]; exact List.mem_cons_self), by unfold State.tick; rw [h]⟩
  | nil =>
    refine .inr ⟨fun c due => ?_, by unfold State.tick; rw [h]⟩
    have := (mem_dueCommands s c).mpr due
    rw [h] at this
    exact List.not_mem_nil this

/-- Settles O2, by what is due. -/
theorem idleStepPassesOneMicrosecond : Obligations.IdleStepPassesOneMicrosecond := by
  intro s idle
  refine ⟨s.tick, by unfold step; rw [idle], ?_⟩
  rcases tick_cases s with ⟨c, due, eq⟩ | ⟨none, eq⟩
  · rw [eq]
    refine ⟨fun p notPending _ => ?_, .inr ⟨rfl, c, rfl, due⟩, fun h => (List.cons_ne_nil c [] h).elim, fun h => (h c due).elim⟩
    cases p with
    | pending => exact absurd rfl notPending
    | _ => rfl
  · rw [eq]
    refine ⟨fun p _ notTime => ?_, .inl ⟨idle, rfl⟩, fun _ => none, fun _ => idle⟩
    exact (timebase_moves s _).frame p (by simpa using notTime)

/-! ## Staged writes taking effect (R28, R115, R118, R120) -/

/-- A run of values overwrites the entries from its first index on, and no other. -/
theorem Table_get_setRun_getD {α : Type} [DecidableEq α] {d : α} (t : Table d) (k i : Nat) (vs : List α) (e : α) :
    (t.setRun k vs).get i = if k ≤ i ∧ i < k + vs.length then vs.getD (i - k) e else t.get i := by
  rw [Table_get_setRun]
  split
  · next h => rw [List.getD_eq_getElem]
  · rfl

theorem rewritten_eq (old new : OverrideRange) :
    old.rewritten new = if new.enabled = true then new else { old with enabled := false } := rfl

/-- The integrator state of an actuator whose entry changes from `old` to `new` (R120). -/
def limitedState (old new : ActuatorEntry) (x : Int) : Int :=
  if new.lo = old.lo ∧ new.hi = old.hi then x else clampInt (new.lo * 65536) (new.hi * 65536) x

theorem limitClamp_tables (s : State) (j : Nat) (old new : ActuatorEntry) (i : Nat) :
    (s.limitClamp j old new).tables.actuators = s.tables.actuators
    ∧ { (s.limitClamp j old new).tables with integrators := s.tables.integrators } = s.tables
    ∧ (s.limitClamp j old new).tables.integrators.get i =
      if i = j then limitedState old new (s.tables.integrators.get j) else s.tables.integrators.get i := by
  have kept (clamped : s.limitClamp j old new = s)
      (state : limitedState old new (s.tables.integrators.get j) = s.tables.integrators.get j) :
      (s.limitClamp j old new).tables.integrators.get i =
        if i = j then limitedState old new (s.tables.integrators.get j) else s.tables.integrators.get i := by
    rw [clamped, state]; split <;> simp_all
  by_cases same : old.lo = new.lo ∧ old.hi = new.hi
  · have clamped : s.limitClamp j old new = s := by unfold State.limitClamp; exact if_pos same
    have state := kept clamped (if_pos ⟨same.1.symm, same.2.symm⟩)
    exact ⟨by rw [clamped], by rw [clamped], state⟩
  have changed : limitedState old new (s.tables.integrators.get j)
      = clampInt (toState new.lo) (toState new.hi) (s.tables.integrators.get j) :=
    if_neg fun h => same ⟨h.1.symm, h.2.symm⟩
  by_cases inside : clampInt (toState new.lo) (toState new.hi) (s.tables.integrators.get j) = s.tables.integrators.get j
  · have clamped : s.limitClamp j old new = s := by unfold State.limitClamp; rw [if_neg same]; exact if_pos inside
    have state := kept clamped (changed.trans inside)
    exact ⟨by rw [clamped], by rw [clamped], state⟩
  · unfold State.limitClamp
    rw [if_neg same, changed]
    dsimp only
    rw [if_neg inside]
    exact ⟨rfl, rfl, Table_get_set _ _ _ _⟩

/-- An actuator entry that takes effect changes nothing of the tables but itself and its actuator's integrator state (R114, R120). -/
theorem putActuator_tables (s : State) (j : Nat) (e : ActuatorEntry) (i : Nat) :
    { (s.putActuator j e).tables with actuators := s.tables.actuators, integrators := s.tables.integrators } = s.tables
    ∧ (s.putActuator j e).actuator i = (if i = j then e else s.actuator i)
    ∧ (s.putActuator j e).tables.integrators.get i =
      if i = j then limitedState (s.actuator j) e (s.tables.integrators.get j) else s.tables.integrators.get i := by
  obtain ⟨entries, rest, states⟩ := limitClamp_tables
    { s with tables := { s.tables with actuators := s.tables.actuators.set j e } } j (s.actuator j) e i
  unfold State.putActuator
  refine ⟨?_, ?_, states⟩
  · exact congrArg (fun t : Tables => { t with actuators := s.tables.actuators }) rest
  · exact (congrArg (·.get i) entries).trans (Table_get_set _ _ _ _)

/-- A run of actuator entries changes nothing of the tables but the entries that it names and their actuators' integrator states. -/
theorem putActuators_tables (s : State) (k : Nat) (es : List ActuatorEntry) (i : Nat) :
    { (s.putActuators k es).tables with actuators := s.tables.actuators, integrators := s.tables.integrators } = s.tables
    ∧ (s.putActuators k es).actuator i = (if k ≤ i ∧ i < k + es.length then es.getD (i - k) .powerOn else s.actuator i)
    ∧ (s.putActuators k es).tables.integrators.get i =
      if k ≤ i ∧ i < k + es.length then limitedState (s.actuator i) (es.getD (i - k) .powerOn) (s.tables.integrators.get i)
      else s.tables.integrators.get i := by
  induction es generalizing s k with
  | nil =>
    have outside : ¬(k ≤ i ∧ i < k + ([] : List ActuatorEntry).length) := by simp
    rw [if_neg outside, if_neg outside]
    exact ⟨rfl, rfl, rfl⟩
  | cons e es ih =>
    obtain ⟨rest, entry, state⟩ := ih (s.putActuator k e) (k + 1)
    obtain ⟨rest1, entry1, state1⟩ := putActuator_tables s k e i
    rw [State.putActuators, entry, state, entry1, state1]
    refine ⟨?_, ?_⟩
    · rw [← rest1]
      exact congrArg
        (fun t : Tables => { t with actuators := s.tables.actuators, integrators := s.tables.integrators }) rest
    · by_cases first : i = k
      · subst first
        simp
      · by_cases named : k + 1 ≤ i ∧ i < k + 1 + es.length
        · have named' : k ≤ i ∧ i < k + (e :: es).length := by simp only [List.length_cons]; omega
          have next : i - k = i - (k + 1) + 1 := by omega
          simp only [if_pos named, if_pos named', if_neg first, next, List.getD_cons_succ, and_self]
        · have named' : ¬(k ≤ i ∧ i < k + (e :: es).length) := by simp only [List.length_cons]; omega
          simp only [if_neg named, if_neg named', if_neg first, and_self]

/-- Settles O51, table by table. -/
theorem stagedWritesOverwriteWhatTheyName : Obligations.StagedWritesOverwriteWhatTheyName := by
  intro s k
  refine ⟨fun vs => ⟨rfl, fun i => Table_get_setRun_getD _ _ _ _ _⟩, fun vs => ⟨rfl, fun i => ?_⟩,
    fun vs => ⟨rfl, fun i => Table_get_setRun_getD _ _ _ _ _⟩, fun n vs => ⟨rfl, fun i => Table_get_setRun_getD _ _ _ _ _⟩,
    fun vs => ⟨rfl, fun i => Table_get_setRun_getD _ _ _ _ _⟩, fun es => ⟨_, rfl, ?_, fun i => ?_⟩,
    fun vs i => Table_get_setRun_getD _ _ _ _ _⟩
  · rw [overrides_applyActuator, rewritten_eq]
  · exact (putActuators_tables s k es 0).1
  · obtain ⟨-, entry, state⟩ := putActuators_tables s k es i
    refine ⟨fun named => ?_, fun outside => ?_⟩
    · rw [if_pos named] at entry state
      refine ⟨entry, ?_⟩
      rw [show (s.applyActuator (.actuatorEntries k es)).actuator i = _ from entry]
      exact state
    · rw [if_neg outside] at entry state
      exact ⟨entry, state⟩

/-! ## Staged writes at acceptance (R28, R118, R119, R187) -/

theorem check_passes {c : Bool × Status} {rest : List (Bool × Status)} (h : c.1 = true) (k : firstFailure rest = none) :
    firstFailure (c :: rest) = none := by unfold firstFailure; rw [if_pos h, k]

/-- A staged write whose checks pass is staged. -/
theorem serve_passed {s : State} {i : Instr} {r : Request} {f : State → Request → State} {g : State → State}
    {checks : List (Bool × Status)} (oldest : s.oldest? i = some r) (judged : f s.dequeue r = s.dequeue.judgeStaged r checks g)
    (passed : firstFailure checks = none) : s.serve i f = g s.dequeue := by
  rw [serve_eq f oldest, judged, State.judgeStaged, passed]

/-- What an actuator-side write makes of the tables depends on the tables alone. -/
theorem applyActuator_tables_congr {s t : State} (h : t.tables = s.tables) (w : ActuatorWrite) :
    (t.applyActuator w).tables = (s.applyActuator w).tables := by
  cases w with
  | actuatorEntries k es =>
    show (t.putActuators k es).tables = (s.putActuators k es).tables
    induction es generalizing s t k with
    | nil => exact h
    | cons e es ih =>
      refine ih (k := k + 1) ?_
      unfold State.putActuator State.limitClamp State.actuator
      dsimp only
      rw [h]
      split
      · rfl
      · split <;> rfl
  | _ => unfold State.applyActuator; rw [h]

theorem recomputeClasses_tables_congr {s t : State} (h : t.tables = s.tables) :
    t.recomputeClasses.tables = s.recomputeClasses.tables := by unfold State.recomputeClasses; rw [h]

theorem counter_putActuators (s : State) (k : Nat) (es : List ActuatorEntry) {c : Counter} (h : c ≠ .limitClamps) :
    (s.putActuators k es).counter c = s.counter c := by
  induction es generalizing s k with
  | nil => rfl
  | cons e es ih =>
    rw [State.putActuators, ih]
    unfold State.putActuator State.limitClamp
    dsimp only
    split
    · rfl
    · split
      · rfl
      · exact (counter_bump _ .limitClamps c).trans (if_neg h)

/-- A write that takes effect on the actuator side counts limit clamps only (R120). -/
theorem counter_applyActuator (s : State) (w : ActuatorWrite) {c : Counter} (h : c ≠ .limitClamps) :
    (s.applyActuator w).counter c = s.counter c := by
  cases w with
  | actuatorEntries k es => exact counter_putActuators s k es h
  | _ => rfl

/-- An actuator-side write answers nothing itself. -/
theorem applyActuator_rest (s : State) (w : ActuatorWrite) :
    (s.applyActuator w).trunk = s.trunk ∧ (s.applyActuator w).mgmt = s.mgmt
    ∧ (s.applyActuator w).nodeNumber = s.nodeNumber := by
  cases w with
  | actuatorEntries k es =>
    show (s.putActuators k es).trunk = s.trunk ∧ (s.putActuators k es).mgmt = s.mgmt
      ∧ (s.putActuators k es).nodeNumber = s.nodeNumber
    induction es generalizing s k with
    | nil => exact ⟨rfl, rfl, rfl⟩
    | cons e es ih =>
      obtain ⟨trunk, mgmt, node⟩ := ih (s.putActuator k e) (k + 1)
      rw [State.putActuators, trunk, mgmt, node]
      unfold State.putActuator State.limitClamp
      dsimp only
      split
      · exact ⟨rfl, rfl, rfl⟩
      · split <;> exact ⟨rfl, rfl, rfl⟩
  | _ => exact ⟨rfl, rfl, rfl⟩

/-- The state in which a write has taken effect, with the classes computed anew where it calls for that (R116). -/
def State.tookEffect (s : State) (w : ActuatorWrite) : State :=
  if w.changesClasses = true then (s.applyActuator w).recomputeClasses else s.applyActuator w

theorem tookEffect_spec (s : State) (w : ActuatorWrite) :
    (s.tookEffect w).trunk = s.trunk ∧ (s.tookEffect w).mgmt = s.mgmt ∧ (s.tookEffect w).nodeNumber = s.nodeNumber
    ∧ ∀ c, c ≠ .limitClamps → (s.tookEffect w).counter c = s.counter c := by
  obtain ⟨trunk, mgmt, node⟩ := applyActuator_rest s w
  unfold State.tookEffect
  split
  · exact ⟨by simpa using trunk, by simpa using mgmt, by simpa using node,
      fun c hc => (counter_congr (State_recomputeClasses_counters _) c).trans (counter_applyActuator s w hc)⟩
  · exact ⟨trunk, mgmt, node, fun c hc => counter_applyActuator s w hc⟩

theorem tookEffect_tables_congr (s : State) {t : State} (h : t.tables = s.tables) (w : ActuatorWrite) :
    (t.tookEffect w).tables
      = (if w.changesClasses = true then (s.applyActuator w).recomputeClasses else s.applyActuator w).tables := by
  unfold State.tookEffect
  split
  · exact recomputeClasses_tables_congr (applyActuator_tables_congr h w)
  · exact applyActuator_tables_congr h w

theorem stageActuator_full {s : State} (r : Request) (w : ActuatorWrite) (applies : s.loop.state.applies = true)
    (full : Config.stagedCapacity ≤ s.mgmt.actuatorQueue.length) :
    s.stageActuator r w = (s.bump .stagedFull).respond r .busy none [] := by
  unfold State.stageActuator; rw [if_pos applies, if_pos full]; rfl

theorem stageActuator_placed {s : State} (r : Request) (w : ActuatorWrite) (applies : s.loop.state.applies = true)
    (room : s.mgmt.actuatorQueue.length < Config.stagedCapacity) : s.stageActuator r w = State.bump (State.bump
      { s with mgmt := { s.mgmt with actuatorQueue := s.mgmt.actuatorQueue ++ [s.stagedEntry r w] } } .requestsAccepted)
      .stagedPlaced := by
  unfold State.stageActuator; rw [if_pos applies, if_neg (Nat.not_le.mpr room)]

theorem stageActuator_at_once {s : State} (r : Request) (w : ActuatorWrite) (rests : ¬ s.loop.state.applies = true) :
    s.stageActuator r w = ((s.bump .requestsAccepted).tookEffect w).respond r .done none [] := by
  unfold State.stageActuator; rw [if_neg rests]; rfl

/-- A staged write that a full queue turns away changes nothing but the trunk, the request queue and the counters (R187). -/
theorem turnedAway_spec (s : State) (r : Request) :
    let t := (s.dequeue.bump .stagedFull).respond r .busy none []
    s.answered t r .busy none [] ∧ s.counted t .stagedFull 1 ∧ t.tables = s.tables ∧ t.engine = s.engine
    ∧ t.mgmt = s.dequeue.mgmt :=
  ⟨answered_of (by simp) rfl rfl rfl, (counter_respond _ _ _ _ _ (by decide)).trans (counted_bump s.dequeue .stagedFull),
    by simp, by simp, by simp⟩

/-- An actuator-side write at acceptance: turned away, placed, or taking effect at once (R118, R119, R187). -/
theorem stageActuator_stages (s : State) (r : Request) (w : ActuatorWrite) : s.stages (s.dequeue.stageActuator r w) r w := by
  unfold State.stages
  split
  · next applies =>
    split
    · next full =>
      obtain ⟨answered, counted, tables, -, mgmt⟩ := turnedAway_spec s r
      rw [stageActuator_full (s := s.dequeue) r w applies full]
      exact ⟨tables, answered, counted, by rw [mgmt]; rfl⟩
    · next room =>
      rw [stageActuator_placed (s := s.dequeue) r w applies (Nat.not_le.mp room)]
      refine ⟨rfl, rfl, rfl, rfl, counted_bump_of ?_, ?_⟩
      · rw [counter_bump, if_neg (by decide)]; rfl
      · unfold State.counted
        rw [counter_bump, if_neg (by decide), counter_bump, if_pos rfl]; rfl
  · next rests =>
    obtain ⟨trunk, mgmt, node, counters⟩ := tookEffect_spec (s.dequeue.bump .requestsAccepted) w
    rw [stageActuator_at_once (s := s.dequeue) r w rests]
    refine ⟨answered_of (by simp [mgmt]) rfl trunk node, ?_, by rw [State_respond_mgmt, mgmt]; rfl, ?_⟩
    · rw [State.counted, counter_respond _ _ _ _ _ (by decide), counters _ (by decide)]
      exact counted_bump s.dequeue .requestsAccepted
    · rw [State_respond_tables]
      exact tookEffect_tables_congr s (t := s.dequeue.bump .requestsAccepted) rfl w

theorem serve_stages {s : State} {i : Instr} {r : Request} {f : State → Request → State} {w : ActuatorWrite}
    {checks : List (Bool × Status)} (oldest : s.oldest? i = some r)
    (judged : f s.dequeue r = s.dequeue.judgeStaged r checks (fun t => t.stageActuator r w))
    (passed : firstFailure checks = none) :
    ∃ t, (.next (s.serve i f) : Host.Outcome State Fault Refusal) = .next t ∧ s.stages t r w :=
  ⟨_, rfl, by rw [serve_passed oldest judged passed]; exact stageActuator_stages s r w⟩

theorem stageSlope_full {s : State} (r : Request) (w : SlopeWrite) (waits : s.slopeWaits = true)
    (full : Config.stagedCapacity ≤ s.mgmt.slopeQueue.length) :
    s.stageSlope r w = (s.bump .stagedFull).respond r .busy none [] := by
  unfold State.stageSlope; rw [if_pos waits, if_pos full]; rfl

/-- The reference slopes after a write of them that takes effect at once (R14, R28). -/
theorem applySlope_references (s : State) (k : Nat) (vs : List Int) :
    (s.applySlope (.references k vs)).trunk = s.trunk ∧ (s.applySlope (.references k vs)).mgmt = s.mgmt
    ∧ (s.applySlope (.references k vs)).nodeNumber = s.nodeNumber
    ∧ ∀ i, (s.applySlope (.references k vs)).engine.refs.get i =
      if k ≤ i ∧ i < k + vs.length then vs.getD (i - k) 0 else s.engine.refs.get i :=
  ⟨rfl, rfl, rfl, fun _ => Table_get_setRun_getD _ _ _ _ _⟩

/-- A write of reference slopes at acceptance (R14, R28, R187). -/
theorem stageReferences_spec (s : State) (r : Request) (k : Nat) (vs : List Int) :
    let t := s.dequeue.stageSlope r (.references k vs)
    if s.liveBank?.isSome = true ∨ s.anyOpen = true then
      t.engine = s.engine ∧
      (if 32 ≤ s.mgmt.slopeQueue.length then
        s.answered t r .busy none [] ∧ s.counted t .stagedFull 1 ∧ t.mgmt.slopeQueue = s.mgmt.slopeQueue
      else t.mgmt.queue = s.mgmt.queue.drop 1 ∧ t.trunk = s.trunk ∧ s.counted t .stagedPlaced 1
        ∧ t.mgmt.slopeQueue = s.mgmt.slopeQueue ++ [⟨r, s.now, 1000 * s.params.requestWatchdog, .references k vs⟩])
    else (s.mgmt.slopeQueue = [] → s.answered t r .done none [] ∧ ∀ i, t.engine.refs.get i =
      if k ≤ i ∧ i < k + vs.length then vs.getD (i - k) 0 else s.engine.refs.get i) := by
  dsimp only
  split
  · next waiting =>
    have waits : s.dequeue.slopeWaits = true := (slopeWaits_iff s).mpr waiting
    split
    · next full =>
      obtain ⟨answered, counted, -, engine, mgmt⟩ := turnedAway_spec s r
      rw [stageSlope_full r _ waits full]
      exact ⟨engine, answered, counted, by rw [mgmt]; rfl⟩
    · next room =>
      rw [stageSlope_placed r _ waits (Nat.not_le.mp room)]
      refine ⟨rfl, rfl, rfl, counted_bump_of ?_, rfl⟩
      rw [counter_bump, if_neg (by decide)]; rfl
  · next quiet =>
    intro empty
    have waits : s.dequeue.slopeWaits = false := by
      rw [← Bool.not_eq_true]; exact fun h => quiet ((slopeWaits_iff s).mp h)
    obtain ⟨trunk, mgmt, node, refs⟩ := applySlope_references (s.dequeue.bump .requestsAccepted) k vs
    rw [stageSlope_at_once r _ waits empty]
    refine ⟨answered_of (by simp [mgmt]) rfl trunk node, fun i => ?_⟩
    rw [State_respond_engine, refs]
    rfl

/-- Settles O50: each write passes its checks, and is then staged on its side. -/
theorem stagedWritesWaitOrTakeEffect : Obligations.StagedWritesWaitOrTakeEffect := by
  intro s r form
  have plain : r.plain.1 = true := beq_iff_eq.mpr form
  refine ⟨fun oldest run fits values => ?_, fun oldest run fits values => ?_, fun oldest run fits values => ?_,
    fun oldest run fits values => ?_, fun oldest long whole count fits values => ?_, fun oldest run fits => ?_,
    fun oldest run fits values => ?_⟩
  · have decoded : (r.elementsOf 8 8).filterMap ActuatorEntry.decode?
        = ((r.elementsOf 8 8).map ActuatorEntry.decode?).filterMap id := by rw [List.filterMap_map]; rfl
    rw [decoded]
    exact serve_stages oldest rfl
      (check_passes plain (check_passes run (check_passes fits (check_passes values rfl))))
  · exact serve_stages oldest rfl
      (check_passes plain (check_passes run (check_passes fits (check_passes values rfl))))
  · have ranges : (r.elementsOf 8 8).all (overrideFits s.params.actuators) = true :=
      List.all_eq_true.mpr fun e he => (values e he).1
    have codes : (r.elementsOf 8 8).all (fun e => (OverrideRange.decode? e).isSome) = true :=
      List.all_eq_true.mpr fun e he => (values e he).2
    exact serve_stages oldest rfl
      (check_passes plain (check_passes run (check_passes fits (check_passes ranges (check_passes codes rfl)))))
  · have masters : (r.elementsOf 8 12).all (fun e => fieldAt e 2 1 ≤ 4) = true :=
      List.all_eq_true.mpr fun e he => decide_eq_true (values e he).1
    have actuators : (r.elementsOf 8 12).all (fun e => (SlaveRecord.decode e).inRange) = true :=
      List.all_eq_true.mpr fun e he => (values e he).2
    exact serve_stages oldest rfl
      (check_passes plain (check_passes run (check_passes fits (check_passes masters (check_passes actuators rfl)))))
  · have form : (12 ≤ r.body.length && (r.body.length - 12) % 4 == 0) = true := by simp [long, whole]
    have actuators : r.pairs.all (fun q => q.1 < Config.maxActuators && q.2 < Config.maxActuators) = true :=
      List.all_eq_true.mpr fun q hq =>
        Bool.and_eq_true_iff.mpr ⟨decide_eq_true (values q hq).1, decide_eq_true (values q hq).2⟩
    exact serve_stages oldest rfl (check_passes plain (check_passes form (check_passes (decide_eq_true count)
      (check_passes (decide_eq_true fits) (check_passes actuators rfl)))))
  · exact serve_stages oldest rfl (check_passes plain (check_passes run (check_passes fits rfl)))
  · have valid : r.values16.all (fun v => v != -32768) = true := by simpa using values
    have staged := serve_passed (f := State.writeReferences) oldest rfl
      (check_passes plain (check_passes run (check_passes fits (check_passes valid rfl))))
    exact ⟨_, congrArg Host.Outcome.next staged, stageReferences_spec s r _ _⟩

/-! ## The release of a context (R23) -/

theorem ix_eq_or_other (c x : Ix) : x = c ∨ x = c.other := by cases c <;> cases x <;> decide

/-- A context that is released is FREE. -/
theorem release_ctx_state (s : State) (c : Ix) : ((s.release c).ctx c).state = .free := by
  unfold State.release
  dsimp only
  split
  · assumption
  · rw [State_ctx_setCtx]; rfl

theorem release_ctx_other (s : State) (c : Ix) : (s.release c).ctx c.other = s.ctx c.other := by
  unfold State.release
  dsimp only
  split
  · rfl
  · rw [State_ctx_setCtx_other]; rfl

/-- A frame that is past its finishing: its context is DONE, or FREE again. -/
def Context.isPast (x : Context) : Prop := x.state = .done ∨ x.state = .free

theorem release_isPast {s : State} (c : Ix) {x : Ix} (h : (s.ctx x).isPast) : ((s.release c).ctx x).isPast := by
  rcases ix_eq_or_other c x with rfl | rfl
  · exact .inr (release_ctx_state s x)
  · rwa [release_ctx_other]

theorem isPast_congr {s t : State} {x : Ix} (h : t.frames = s.frames) (k : (s.ctx x).isPast) : (t.ctx x).isPast := by
  rwa [ctx_congr h]

theorem withdrawRecord_isPast {s : State} {x : Ix} (h : (s.ctx x).isPast) : (s.withdrawRecord.ctx x).isPast := by
  unfold State.withdrawRecord
  split
  · exact h
  · exact release_isPast _ h

theorem dropRecord_isPast {s : State} {x : Ix} (h : (s.ctx x).isPast) : (s.dropRecord.ctx x).isPast := by
  unfold State.dropRecord
  split
  · exact withdrawRecord_isPast h
  · exact h

theorem beginRecord_isPast {s : State} (c : Ix) (n : BitVec 32) {x : Ix} (h : (s.ctx x).isPast) :
    ((s.beginRecord c n).ctx x).isPast := by
  unfold State.beginRecord
  dsimp only
  split
  · refine release_isPast c (isPast_congr ?_ h)
    simp
  · exact isPast_congr (by simp) h

/-- An offer leaves a finished frame's context DONE, or releases it (R173). -/
theorem offer_isPast {s : State} (c : Ix) {x : Ix} (h : (s.ctx x).isPast) : ((s.offer c).ctx x).isPast := by
  unfold State.offer
  dsimp only
  split
  · split
    · exact beginRecord_isPast c _ (dropRecord_isPast h)
    · exact release_isPast c h
  · exact release_isPast c h

/-- A context whose work is complete is DONE, or released already (R36). -/
theorem contextDone_isPast (s : State) (c : Ix) : ((s.contextDone c).ctx c).isPast := by
  unfold State.contextDone
  dsimp only
  apply offer_isPast
  split
  · left; cases c <;> rfl
  · left; cases c <;> rfl

theorem complete_isPast (s : State) (c : Ix) (displaced : Bool) : ((s.complete c displaced).ctx c).isPast := by
  unfold State.complete State.finish
  split <;> exact contextDone_isPast _ c

/-- A forced merge ends with the context DONE, whatever the role (R87). -/
theorem forcedMerge_isPast (s : State) (c : Ix) (displaced : Bool) : ((s.forcedMerge c displaced).ctx c).isPast := by
  unfold State.forcedMerge State.finish
  split
  · exact contextDone_isPast _ c
  · exact contextDone_isPast _ c
  · exact complete_isPast _ c displaced
  · exact complete_isPast _ c displaced

/-! ## The deadlines of a context (R33, R35) -/

theorem advanceTo_now (s : State) (m : Time) : (s.advanceTo m).now = if hasReached s.now m = true then s.now else m := by
  unfold State.advanceTo; split <;> rfl

theorem advanceTo_ctx (s : State) (m : Time) (x : Ix) : (s.advanceTo m).ctx x = s.ctx x := by
  unfold State.advanceTo; split <;> rfl

theorem advanceTo_jobs (s : State) (m : Time) : (s.advanceTo m).frames.jobs = s.frames.jobs := by
  unfold State.advanceTo; split <;> rfl

theorem advanceTo_counters (s : State) (m : Time) : (s.advanceTo m).counters = s.counters := by
  unfold State.advanceTo; split <;> rfl

theorem timebase_of_moves {ps : List Part} {s t : State} (h : Moves ps s t) (kept : Part.timebase ∉ ps := by decide) :
    t.now = s.now := (h.frame .timebase kept).symm

/-- An assembly deadline that expires: the job is queued where the context is ASSEMBLING without one (R33). -/
theorem assemblyExpires_spec (s : State) (c : Ix) :
    (s.assemblyExpires c).ctx c.other = s.ctx c.other
    ∧ (if (s.ctx c).state = .assembling ∧ (s.ctx c).job = .none then
        (s.assemblyExpires c).ctx c = { (s.ctx c).addFlag .assemblyDeadline with asmRunning := false, job := .queued }
        ∧ (s.assemblyExpires c).frames.jobs = s.frames.jobs ++ [c] ∧ s.counted (s.assemblyExpires c) .assemblyDeadlines 1
      else (s.assemblyExpires c).ctx c = { s.ctx c with asmRunning := false }
        ∧ (s.assemblyExpires c).frames.jobs = s.frames.jobs ∧ (s.assemblyExpires c).counters = s.counters) := by
  unfold State.assemblyExpires
  dsimp only
  split
  · refine ⟨?_, ?_, rfl, counted_bump_of rfl⟩ <;> cases c <;> rfl
  · exact ⟨State_ctx_setCtx_other _ _ _, State_ctx_setCtx _ _ _, rfl, rfl⟩

/-- A delivery deadline that expires marks an ASSEMBLING context (R35). -/
theorem deliveryExpires_assembling {s : State} {c : Ix} (h : (s.ctx c).state = .assembling) :
    (s.deliveryExpires c).ctx c = { (s.ctx c).addFlag .deliveryDeadline with delRunning := false, deliveryPending := true }
    ∧ s.counted (s.deliveryExpires c) .lateAccumulations 1 := by
  unfold State.deliveryExpires
  dsimp only
  split
  · refine ⟨?_, counted_bump_of rfl⟩
    cases c <;> rfl
  all_goals next k => exact absurd (h.symm.trans k) (by decide)

/-- A delivery deadline that expires completes a context that has its local sums (R35). -/
theorem deliveryExpires_summed {s : State} {c : Ix} (h : (s.ctx c).state = .accumulated ∨ (s.ctx c).state = .merging) :
    ((s.deliveryExpires c).ctx c).isPast := by
  unfold State.deliveryExpires
  dsimp only
  split
  · next k => simp [k] at h
  · exact forcedMerge_isPast _ c false
  · exact forcedMerge_isPast _ c false
  · next k => simp [k] at h
  · next k => simp [k] at h

/-- Settles O22: the timebase is brought to the deadline's moment, and the deadline then expires. -/
theorem deadlinesOfAnOpenContext : Obligations.DeadlinesOfAnOpenContext := by
  intro c s
  refine ⟨fun isOpen running => ?_, fun isOpen running => ?_, fun idle => ?_, fun idle => ?_⟩
  · have step : exec (.assemblyDeadline c) s = .next ((s.advanceTo (s.ctx c).asmMoment).assemblyExpires c) := by
      show execAssemblyDeadline c s = _
      simp [execAssemblyDeadline, isOpen, running]
    obtain ⟨other, expired⟩ := assemblyExpires_spec (s.advanceTo (s.ctx c).asmMoment) c
    simp only [advanceTo_ctx, advanceTo_jobs, advanceTo_counters, State.counted,
      counter_congr (advanceTo_counters s _)] at other expired
    exact ⟨_, step, (timebase_of_moves (assemblyExpires_moves _ c)).trans (advanceTo_now s _), other, expired⟩
  · have step : exec (.deliveryDeadline c) s = .next ((s.advanceTo (s.ctx c).delMoment).deliveryExpires c) := by
      show execDeliveryDeadline c s = _
      simp [execDeliveryDeadline, isOpen, running]
    have assembling := deliveryExpires_assembling (s := s.advanceTo (s.ctx c).delMoment) (c := c)
    have past := deliveryExpires_summed (s := s.advanceTo (s.ctx c).delMoment) (c := c)
    simp only [advanceTo_ctx, State.counted, counter_congr (advanceTo_counters s _)] at assembling past
    exact ⟨_, step, (timebase_of_moves (deliveryExpires_moves _ c)).trans (advanceTo_now s _), assembling, past⟩
  · show execAssemblyDeadline c s = _
    simp [execAssemblyDeadline, idle]
  · show execDeliveryDeadline c s = _
    simp [execDeliveryDeadline, idle]

/-! ## What the work on other frames spares

An opening is judged by a few counters, by the events that it raises and by the LIVE bank and the scheduled swap. The work that comes
between, from the merging of segments to the entry to SAFE, leaves them alone: `State.Spares` says so once, and each shared operation
has one lemma. -/

/-- The counters by which openings and displacements are judged (R37, R60, R94). -/
def Counter.ofOpening : Counter → Bool
  | .contextsOpened | .abandoned | .forcedByDisplacement | .lateFrames | .lateByDeadline | .lateByDisplacement
  | .storedSegments | .swaps => true
  | _ => false

/-- Two states with the same LIVE banks and the same scheduled swap (R42, R48). -/
structure State.SameSwap (s t : State) : Prop where
  live : ∀ b, (t.bank b).state = .live ↔ (s.bank b).state = .live
  mark : ∀ b, (t.bank b).swapMark = (s.bank b).swapMark

/-- `t` comes from `s` by work that counts none of the counters of an opening, takes no event out of pending but into an EVENT frame,
and leaves the LIVE banks and the scheduled swap. -/
structure State.Spares (s t : State) : Prop where
  counters : ∀ k : Counter, k.ofOpening = true → t.counter k = s.counter k
  pending : ∀ e, s.isPending e = true → s.raised t e
  reports : min (s.counter .eventFrames) Config.counterMax ≤ t.counter .eventFrames
  banks : s.SameSwap t

theorem State.SameSwap.of_banks {s t : State} (h : t.bankStore.banks = s.bankStore.banks) : s.SameSwap t :=
  ⟨fun b => by unfold State.bank; rw [h], fun b => by unfold State.bank; rw [h]⟩

theorem State.SameSwap.trans {s u t : State} (h : s.SameSwap u) (k : u.SameSwap t) : s.SameSwap t :=
  ⟨fun b => (k.live b).trans (h.live b), fun b => (k.mark b).trans (h.mark b)⟩

/-- An event that has been raised stays raised (R190, R191). -/
theorem State.Spares.raised {s u t : State} {e : Event} (k : u.Spares t)
    (before : min (s.counter .eventFrames) Config.counterMax ≤ u.counter .eventFrames) (h : s.raised u e) : s.raised t e := by
  have reports := k.reports
  have later := k.pending e
  unfold State.raised at h later ⊢
  rcases h with pending | reported
  · rcases later pending with pending | reported
    · exact .inl pending
    · right; omega
  · right; omega

theorem State.Spares.trans {s u t : State} (h : s.Spares u) (k : u.Spares t) : s.Spares t :=
  ⟨fun c hc => (k.counters c hc).trans (h.counters c hc), fun e he => k.raised h.reports (h.pending e he),
    by have := h.reports; have := k.reports; omega, h.banks.trans k.banks⟩

/-- The last work of a chain, taken first. -/
theorem State.Spares.after {s u t : State} (k : u.Spares t) (h : s.Spares u) : s.Spares t := h.trans k

/-- Work that leaves the banks and the pending events and counts none of these counters. -/
theorem State.Spares.of_counts {s t : State} (banks : t.bankStore.banks = s.bankStore.banks)
    (events : t.events.pending = s.events.pending)
    (counters : ∀ k : Counter, k.ofOpening = true ∨ k = .eventFrames → t.counter k = s.counter k) : s.Spares t :=
  ⟨fun k hk => counters k (.inl hk), fun e he => .inl (by unfold State.isPending at *; rwa [events]),
    by rw [counters _ (.inr rfl)]; exact Nat.min_le_left _ _, .of_banks banks⟩

theorem State.Spares.of_same {s t : State} (banks : t.bankStore.banks = s.bankStore.banks)
    (events : t.events.pending = s.events.pending) (counters : t.counters = s.counters) : s.Spares t :=
  .of_counts banks events fun k _ => counter_congr counters k

theorem State.Spares.refl (s : State) : s.Spares s := .of_same rfl rfl rfl

theorem pending_of_moves {ps : List Part} {s t : State} (h : Moves ps s t) (kept : Part.events ∉ ps) :
    t.events.pending = s.events.pending := (congrArg Events.pending (h.frame .events kept)).symm

/-- A move of parts that hold none of these. -/
theorem Moves.spares {ps : List Part} {s t : State} (h : Moves ps s t)
    (kept : Part.counters ∉ ps ∧ Part.events ∉ ps ∧ Part.banks ∉ ps := by decide) : s.Spares t :=
  .of_same (h.frame .banks kept.2.2).symm (pending_of_moves h kept.2.1) (h.frame .counters kept.1).symm

/-- A move that counts, but none of these counters. -/
theorem Moves.spares_of_counts {ps : List Part} {s t : State} (h : Moves ps s t)
    (counters : ∀ k : Counter, k.ofOpening = true ∨ k = .eventFrames → t.counter k = s.counter k)
    (kept : Part.events ∉ ps ∧ Part.banks ∉ ps := by decide) : s.Spares t :=
  .of_counts (h.frame .banks kept.2).symm (pending_of_moves h kept.1) counters

/-- A counter outside those that are spared. -/
theorem ne_of_spared {k c : Counter} (h : k.ofOpening = true ∨ k = .eventFrames)
    (hc : (c.ofOpening = false ∧ c ≠ .eventFrames) := by decide) : k ≠ c := by
  rintro rfl
  rcases h with h | h
  · exact absurd (h.symm.trans hc.1) (by decide)
  · exact hc.2 h

section
variable (s : State)

theorem bumpBy_spares (c : Counter) (n : Nat) (hc : (c.ofOpening = false ∧ c ≠ .eventFrames) := by decide) :
    s.Spares (s.bumpBy c n) :=
  (bumpBy_moves s c n).spares_of_counts fun k hk => by rw [counter_bumpBy, if_neg (ne_of_spared hk hc)]

theorem bump_spares (c : Counter) (hc : (c.ofOpening = false ∧ c ≠ .eventFrames) := by decide) : s.Spares (s.bump c) :=
  bumpBy_spares s c 1 hc

theorem bumpIf_spares (b : Bool) (c : Counter) (hc : (c.ofOpening = false ∧ c ≠ .eventFrames) := by decide) :
    s.Spares (s.bumpIf b c) := by
  cases b
  · exact .refl s
  · exact bump_spares s c hc

theorem placeControl_spares (f : ToFrame) : s.Spares (s.placeControl f) :=
  (placeControl_moves s f).spares_of_counts fun _ hk => counter_placeControl s f (ne_of_spared hk)

theorem respond_spares (r : Request) (st : Status) (e : Option Tag) (b : List Byte) : s.Spares (s.respond r st e b) :=
  placeControl_spares s _

theorem placeRealtime_spares (b : List Byte) : s.Spares (s.placeRealtime b) :=
  (placeRealtime_moves s b).spares_of_counts fun _ hk => counter_placeRealtime s b (ne_of_spared hk)

/-! ### Events (R190, R191) -/

theorem counter_eventFrames_reportTest :
    min (s.counter .eventFrames) Config.counterMax ≤ s.reportTest.counter .eventFrames := by
  unfold State.reportTest
  split
  · unfold State.placeEvent
    dsimp only
    rw [counter_bump, if_pos rfl]
    have : (s.placeControl ⟨s.eventFrame s.reportable, false⟩).counter .eventFrames = s.counter .eventFrames :=
      counter_placeControl s _ (by decide)
    exact le_min ((Nat.min_le_left _ _).trans (Nat.le_succ_of_le this.ge)) (Nat.min_le_right _ _)
  · exact Nat.min_le_left _ _

theorem reportTest_spares : s.Spares s.reportTest where
  counters k hk := counter_reportTest s (ne_of_spared (.inl hk)) (fun h => absurd (h ▸ hk) (by decide))
  pending e he := by
    rcases isPending_reportTest s e with kept | ⟨_, reported⟩
    · exact .inl (kept.trans he)
    · exact .inr reported.ge
  reports := counter_eventFrames_reportTest s
  banks := .of_banks (by simp)

theorem triggerCapture_spares (e : Event) : s.Spares (s.triggerCapture e) where
  counters k hk := counter_triggerCapture s e (ne_of_spared (.inl hk))
  pending f hf := .inl (isPending_triggerCapture s e f hf)
  reports := by rw [counter_triggerCapture s e (by decide)]; exact Nat.min_le_left _ _
  banks := .of_banks (by simp)

theorem setPending_spares (e : Event) : s.Spares (s.setPending e) where
  counters _ _ := rfl
  pending f hf := .inl (by simp only [State.isPending, State.setPending, hasEvent_or] at *; simp [hf])
  reports := Nat.min_le_left _ _
  banks := .of_banks rfl

theorem raise_spares (e : Event) : s.Spares (s.raise e) := by
  unfold State.raise
  dsimp only
  refine (reportTest_spares _).after ?_
  split
  · exact setPending_spares s e
  · exact (triggerCapture_spares _ e).after ((joinLaterCauses_moves _ e).spares.after (setPending_spares s e))

/-! ### Banks and records (R23, R58, R173 to R176) -/

theorem sameSwap_setBank (b : Ix) (x : Bank) (live : x.state = .live ↔ (s.bank b).state = .live)
    (mark : x.swapMark = (s.bank b).swapMark) : s.SameSwap (s.setBank b x) := by
  refine ⟨fun k => ?_, fun k => ?_⟩ <;> rcases ix_eq_or_other b k with rfl | rfl <;> simp [live, mark]

theorem setBank_spares (b : Ix) (x : Bank) (live : x.state = .live ↔ (s.bank b).state = .live)
    (mark : x.swapMark = (s.bank b).swapMark) : s.Spares (s.setBank b x) :=
  ⟨fun _ _ => rfl, fun _ he => .inl he, Nat.min_le_left _ _, sameSwap_setBank s b x live mark⟩

theorem release_spares (c : Ix) : s.Spares (s.release c) := by
  unfold State.release
  dsimp only
  split
  · exact .refl s
  · exact (setCtx_moves _ c _).spares.after (setBank_spares s _ _ Iff.rfl rfl)

theorem beginBurst_spares (j : BurstJob) : s.Spares (s.beginBurst j) := by
  have begun : s.Spares s.markBegun := (markBegun_moves s).spares
  have loads (t : State) : t.Spares t.beginLoad := by
    unfold State.beginLoad
    split
    · split
      · next ready => exact setBank_spares t _ _ (by simp [ready]) rfl
      · exact .refl t
    · exact .refl t
  unfold State.beginBurst
  split
  · exact (loads _).after begun
  · exact begun
  · exact begun
  · exact begun
  · exact begun
  · exact .refl s

theorem grantDram_spares : s.Spares s.grantDram := by
  unfold State.grantDram
  split
  · exact .refl s
  · split
    · exact .refl s
    · exact (beginBurst_spares _ _).after (setArbiter_moves s _).spares

theorem queueBursts_spares (bs : List Burst) : s.Spares (s.queueBursts bs) :=
  (grantDram_spares _).after (setArbiter_moves s _).spares

theorem withdrawRecord_spares : s.Spares s.withdrawRecord := by
  unfold State.withdrawRecord
  split
  · exact .refl s
  · exact (release_spares _ _).after (.of_same rfl rfl rfl)

theorem dropRecord_spares : s.Spares s.dropRecord := by
  unfold State.dropRecord
  split
  · exact (bump_spares _ .telemetryDropped).after (withdrawRecord_spares s)
  · exact .refl s

theorem beginRecord_spares (c : Ix) (n : BitVec 32) : s.Spares (s.beginRecord c n) := by
  unfold State.beginRecord
  dsimp only
  split
  · exact (release_spares _ c).after ((bump_spares _ .refusedFull).after
      ((raise_spares _ .telemetryFull).after (.of_same rfl rfl rfl)))
  · exact (queueBursts_spares _ _).after (.of_same rfl rfl rfl)

theorem offer_spares (c : Ix) : s.Spares (s.offer c) := by
  unfold State.offer
  dsimp only
  split
  · split
    · exact (beginRecord_spares _ c _).after ((dropRecord_spares _).after (.of_same rfl rfl rfl))
    · exact (release_spares _ c).after (.of_same rfl rfl rfl)
  · exact release_spares s c

theorem contextDone_spares (c : Ix) : s.Spares (s.contextDone c) := by
  unfold State.contextDone
  dsimp only
  refine (offer_spares _ c).after ?_
  split
  · exact .of_same rfl rfl rfl
  · exact (bump_spares _ .outOfOrderDeliveries).after (setCtx_moves s c _).spares

theorem releaseEarly_spares (c : Ix) : s.Spares (s.releaseEarly c) := by
  unfold State.releaseEarly
  split
  · split
    · exact (release_spares _ c).after (dropRecord_spares s)
    · exact release_spares s c
  · exact release_spares s c

/-! ### Drains (R28, R118, R119) -/

theorem drainEntries_spares {α : Type} {apply : State → α → State} (h : ∀ (s : State) (w : α), s.Spares (apply s w))
    (e : Option Tag) (es : List (StagedEntry α)) : s.Spares (State.drainEntries apply e s es) := by
  induction es generalizing s with
  | nil => exact .refl s
  | cons x es ih =>
    exact (ih _).after ((bump_spares _ .stagedDrained).after ((respond_spares _ x.request .done e []).after (h s x.write)))

theorem drainSlope_spares (e : Option Tag) : s.Spares (s.drainSlope e) :=
  (drainEntries_spares _ (fun t w => (applySlope_moves t w).spares) e _).after (emptySlopeQueue_moves s).spares

theorem applyActuator_spares (w : ActuatorWrite) : s.Spares (s.applyActuator w) :=
  .of_counts (applyActuator_frame s w .banks (by decide)).symm
    (congrArg Events.pending (applyActuator_frame s w .events (by decide))).symm
    fun _ hk => counter_applyActuator s w (ne_of_spared hk)

theorem drainActuator_spares (e : Option Tag) : s.Spares (s.drainActuator e) := by
  have drained : s.Spares (State.drainEntries State.applyActuator e { s with mgmt := { s.mgmt with actuatorQueue := [] } }
      s.mgmt.actuatorQueue) :=
    (drainEntries_spares _ applyActuator_spares e _).after (emptyActuatorQueue_moves s).spares
  unfold State.drainActuator
  dsimp only
  split
  · exact (recomputeClasses_moves _).spares.after drained
  · exact drained

/-! ### The entry to SAFE and the report of a frame (R141, R142, R144) -/

theorem handToMirror_spares (f : MlFrame) : s.Spares (s.handToMirror f) := by
  unfold State.handToMirror
  split
  · exact bump_spares s .unsent
  · split
    · exact .of_same rfl rfl rfl
    · exact (bumpIf_spares s s.mirror.waiting.isSome .superseded).trans (.of_same rfl rfl rfl)

theorem buildShape_spares : s.Spares s.buildShape :=
  (handToMirror_spares _ _).after (.of_same rfl rfl rfl)

theorem abortPoke_spares : s.Spares s.abortPoke := by
  unfold State.abortPoke
  split
  · exact (reportTest_spares _).after ((bump_spares _ .sequencesAborted).after (pokeIdle_moves s).spares)
  · exact .refl s

theorem enterSafe_spares (k : SafeCause) : s.Spares (s.enterSafe k) := by
  unfold State.enterSafe
  dsimp only
  split
  · have safe : s.Spares { s.fillSnapshot k with loop := { (s.fillSnapshot k).loop with state := .safe }, safeOut := true } :=
      (fillSnapshot_moves s k).spares.trans (.of_same rfl rfl rfl)
    have counted := (raise_spares _ .loopSafe).after ((bump_spares _ .safeEntries).after safe)
    have drained := (drainActuator_spares _ none).after ((abortPoke_spares _).after counted)
    exact (buildShape_spares _).after (drained.trans (.of_same rfl rfl rfl))
  · exact .refl s

theorem report_spares (bad applied : Bool) (clamps : Nat) : s.Spares (s.report bad applied clamps) := by
  unfold State.report
  dsimp only
  generalize hu : ({ s with loop := { s.loop with
    lastFinish := some s.now
    starvation := if s.loop.state.applies then some s.now else s.loop.starvation } } : State) = u
  have counted : s.Spares ((u.countBad bad applied).countSaturation applied clamps) :=
    (countSaturation_moves _ applied clamps).spares.after ((countBad_moves u bad applied).spares.after
      (by subst hu; exact .of_same rfl rfl rfl))
  split
  · exact (enterSafe_spares _ .badFrames).after counted
  · split
    · exact (enterSafe_spares _ .saturation).after counted
    · exact counted

/-! ### Merging (R82, R85 to R87) -/

theorem placeMerged_spares (c : Ix) (g : Segment) : s.Spares (s.placeMerged c g) := by
  unfold State.placeMerged
  dsimp only
  split
  · exact (setCtx_moves s c _).spares
  · exact (placeRealtime_spares _ _).after (setCtx_moves s c _).spares

theorem mergeOne_spares (c : Ix) (g : Segment) : s.Spares (s.mergeOne c g) := by
  unfold State.mergeOne
  refine (placeMerged_spares _ c _).after ?_
  cases s.mergeCase (s.ctx c) g with
  | corrupt => exact .refl s
  | ownBitPresent => exact bump_spares s .ownBitPresent
  | mixed => exact bump_spares s .mixedSegments
  | contributes => exact bump_spares s .contributingMerges

theorem mergeStored_spares (c : Ix) (is : List Nat) : s.Spares (s.mergeStored c is) := by
  induction is generalizing s with
  | nil => exact .refl s
  | cons i is ih =>
    unfold State.mergeStored
    split
    · exact (ih _).after (mergeOne_spares s c _)
    · exact ih s

theorem mergeAllStored_spares (c : Ix) : s.Spares (s.mergeAllStored c) :=
  (mergeStored_spares _ c _).after (setCtx_moves s c _).spares

theorem makeMissing_spares (c : Ix) (is : List Nat) : s.Spares (s.makeMissing c is) := by
  induction is generalizing s with
  | nil => exact .refl s
  | cons i is ih =>
    unfold State.makeMissing
    split
    · exact (ih _).after ((placeMerged_spares _ c _).after (bump_spares s .forcedSegments))
    · exact ih s

theorem buildHead_spares (c : Ix) (is : List Nat) : s.Spares (s.buildHead c is) := by
  induction is generalizing s with
  | nil => exact .refl s
  | cons i is ih => exact (ih _).after (placeMerged_spares s c _)

theorem computeResiduals_spares (c : Ix) (v : List Int) : s.Spares (s.computeResiduals c v) :=
  (bumpIf_spares _ _ .residualSaturatedFrames).after ((bump_spares _ .residualsComputed).after (setCtx_moves s c _).spares)

theorem completionTest_spares (c : Ix) : s.Spares (s.completionTest c) :=
  (completionTest_moves s c).spares_of_counts fun _ hk => counter_completionTest s c (ne_of_spared hk)

end

/-! ## The opening of a context (R27, R28, R49, R55) -/

theorem ctx_of_moves {ps : List Part} {s t : State} (h : Moves ps s t) (x : Ix) (kept : Part.contexts ∉ ps := by decide) :
    t.ctx x = s.ctx x := congrArg (Pair.get · x) (h.frame .contexts kept).symm

theorem bank_congr {s t : State} (h : t.bankStore.banks = s.bankStore.banks) (b : Ix) : t.bank b = s.bank b :=
  congrArg (Pair.get · b) h

/-- A context just opened, but for its flags (R22). -/
theorem freshContext_eq (s : State) (g : Tag) (b : Ix) : ∃ f, s.freshContext g b = { Context.free with
    state := .assembling, tag := g, bank := b, label := (s.bank b).label, scale := (s.bank b).scale, openTime := s.now
    dAsm := s.params.dAsm, dDel := s.params.dDel, asmRunning := true, delRunning := true, flags := f } := by
  unfold State.freshContext
  cases s.isPending .matrixUncorrectable <;> exact ⟨_, rfl⟩

/-- A context is opened CORRUPT exactly while MATRIX_UNCORRECTABLE is latched (R55). -/
theorem freshContext_isCorrupt (s : State) (g : Tag) (b : Ix) :
    (s.freshContext g b).isCorrupt = s.isPending .matrixUncorrectable := by
  unfold State.freshContext Context.isCorrupt
  dsimp only
  rw [hasFlag_addFlagIf]
  simp [Context.hasFlag, Context.free]

/-! ### The steps of an opening with a LIVE bank -/

/-- The context is entered and the use of its bank is counted: steps 3 to 5 of an opening (R27). -/
def State.entered (s : State) (c b : Ix) (g : Tag) : State :=
  (s.setBank b { s.bank b with useCount := (s.bank b).useCount + 1 }).setCtx c (s.freshContext g b)

/-- The opening as far as its completion test: the slope-side writes are drained where the other context does not assemble, and the
tag is the newest opened (R27, R28). -/
def State.begun (s : State) (c b : Ix) (g : Tag) : State :=
  let s1 := s.entered c b g
  let s2 := if (s1.ctx c.other).state = .assembling then s1 else s1.drainSlope (some g)
  { s2 with frames := { s2.frames with newestOpened := some g } }

section
variable (s : State) (c b : Ix) (g : Tag)

theorem begun_moves : Moves [.references, .portConfigs, .hold, .queues, .counters, .slopeQueue, .newestOpened]
    (s.entered c b g) (s.begun c b g) :=
  (newestOpened_moves _ _).after (Moves.ite (fun _ => .refl _ _) fun _ => (drainSlope_moves _ _).widen)

theorem begun_spares : (s.entered c b g).Spares (s.begun c b g) := by
  unfold State.begun
  dsimp only
  split
  · exact .of_same rfl rfl rfl
  · exact (drainSlope_spares _ _).trans (.of_same rfl rfl rfl)

theorem begun_tested_spares : (s.entered c b g).Spares ((s.begun c b g).completionTest c) :=
  (completionTest_spares _ c).after (begun_spares s c b g)

variable {s b} (live : s.liveBank? = some b)
include live

theorem openIn_eq : s.openIn c g = ((s.begun c b g).completionTest c).bump .contextsOpened := by
  unfold State.openIn State.begun State.entered
  rw [live]

theorem openIn_ctx : ∃ j, (s.openIn c g).ctx c = { s.freshContext g b with job := j } := by
  obtain ⟨j, tested⟩ := completionTest_ctx (s.begun c b g) c c
  refine ⟨j, ?_⟩
  have entered : (s.begun c b g).ctx c = s.freshContext g b :=
    (ctx_of_moves (begun_moves s c b g) c).trans (State_ctx_setCtx _ _ _)
  rw [openIn_eq c g live, ← entered, ← tested]
  rfl

theorem openIn_newestOpened : (s.openIn c g).frames.newestOpened = some g := by
  rw [openIn_eq c g live]
  exact ((completionTest_moves _ c).frame .newestOpened (by decide)).symm

theorem openIn_banks : (s.openIn c g).bankStore.banks = (s.entered c b g).bankStore.banks := by
  rw [openIn_eq c g live]
  exact (congrArg BankStore.banks (State_completionTest_bankStore _ c)).trans ((begun_moves s c b g).frame .banks (by decide)).symm

theorem openIn_bank : (s.openIn c g).bank b = { s.bank b with useCount := (s.bank b).useCount + 1 } :=
  (bank_congr (openIn_banks c g live) b).trans (State_bank_setBank _ _ _)

theorem openIn_bank_other : (s.openIn c g).bank b.other = s.bank b.other :=
  (bank_congr (openIn_banks c g live) b.other).trans (State_bank_setBank_other _ _ _)

theorem openIn_counter {k : Counter} (spared : k.ofOpening = true) (other : k ≠ .contextsOpened) :
    (s.openIn c g).counter k = s.counter k := by
  rw [openIn_eq c g live, counter_bump, if_neg other]
  exact (begun_tested_spares s c b g).counters k spared

theorem openIn_counted : s.counted (s.openIn c g) .contextsOpened 1 := by
  rw [openIn_eq c g live]
  exact counted_bump_of ((begun_tested_spares s c b g).counters _ rfl)

theorem openIn_ports : Part.ports.same s (s.openIn c g) := by
  rw [openIn_eq c g live]
  exact ((begun_moves s c b g).frame .ports (by decide)).trans ((completionTest_moves _ c).frame .ports (by decide))

/-- An event raised before the steps of an opening stays raised. -/
theorem openIn_raised {u : State} {e : Event} (before : min (u.counter .eventFrames) Config.counterMax ≤ s.counter .eventFrames)
    (h : u.raised s e) : u.raised (s.openIn c g) e := by
  have raised : u.raised ((s.begun c b g).completionTest c) e := (begun_tested_spares s c b g).raised before h
  rw [openIn_eq c g live]
  unfold State.raised
  rwa [counter_bump, if_neg (by decide)]

end

/-! ### The swap that an opening may bring (R49) -/

/-- The banks of a swap: the target is LIVE, without its mark, and a LIVE bank beside it becomes READY (R49). -/
def State.banksSwapped (s : State) (b : Ix) : State :=
  let s1 := s.setBank b.other (s.bank b.other).demote
  s1.setBank b { s1.bank b with state := .live, swapMark := none }

theorem takeSwap_eq (s : State) (b : Ix) : s.takeSwap b = ((s.banksSwapped b).bump .swaps).raise .bankSwapped := rfl

theorem takeSwap_banks (s : State) (b : Ix) : (s.takeSwap b).bankStore.banks = (s.banksSwapped b).bankStore.banks := by
  rw [takeSwap_eq, State_raise_bankStore]
  rfl

theorem takeSwap_bank (s : State) (b : Ix) : (s.takeSwap b).bank b = { s.bank b with state := .live, swapMark := none } := by
  rw [bank_congr (takeSwap_banks s b)]
  cases b <;> rfl

theorem takeSwap_bank_other (s : State) (b : Ix) : (s.takeSwap b).bank b.other = (s.bank b.other).demote := by
  rw [bank_congr (takeSwap_banks s b)]
  cases b <;> rfl

theorem demote_state (k : Bank) : k.demote.state = if k.state = .live then .ready else k.state := by
  unfold Bank.demote; split <;> rfl

/-- After a swap its bank alone is LIVE. -/
theorem takeSwap_liveBank (s : State) (b : Ix) : (s.takeSwap b).liveBank? = some b := by
  have live : ((s.takeSwap b).bank b).state = .live := by rw [takeSwap_bank]
  have other : ((s.takeSwap b).bank b.other).state ≠ .live := by
    rw [takeSwap_bank_other, demote_state]
    split
    · decide
    · assumption
  unfold State.liveBank?
  cases b
  · rw [if_pos live]
  · rw [if_neg (show ((s.takeSwap .one).bank .zero).state ≠ .live from other), if_pos live]

theorem takeSwap_counted (s : State) (b : Ix) : s.counted (s.takeSwap b) .swaps 1 := by
  rw [takeSwap_eq]
  unfold State.counted
  rw [counter_raise _ _ (by decide) (by decide) (by decide)]
  exact counted_bump_of rfl

theorem takeSwap_counter (s : State) (b : Ix) {k : Counter} (spared : k.ofOpening = true) (other : k ≠ .swaps) :
    (s.takeSwap b).counter k = s.counter k :=
  ((raise_spares _ .bankSwapped).counters k spared).trans (by rw [counter_bump, if_neg other]; rfl)

theorem takeSwap_raised (s : State) (b : Ix) : s.raised (s.takeSwap b) .bankSwapped :=
  raised_of_raise (u := (s.banksSwapped b).bump .swaps) (by rw [counter_bump, if_neg (by decide)]; rfl) rfl rfl

theorem takeSwap_reports (s : State) (b : Ix) :
    min (s.counter .eventFrames) Config.counterMax ≤ (s.takeSwap b).counter .eventFrames := by
  have reports := (raise_spares ((s.banksSwapped b).bump .swaps) .bankSwapped).reports
  rw [counter_bump, if_neg (by decide)] at reports
  exact reports

theorem takeSwap_latched (s : State) (b : Ix) :
    (s.takeSwap b).isPending .matrixUncorrectable = s.isPending .matrixUncorrectable :=
  latched_raise _ .bankSwapped (by decide)

/-- A swap that the tag reaches has taken effect (R27, R49). -/
def State.swapTaken (s : State) (g : Tag) : State :=
  match s.reachedSwap? g with
  | some b => s.takeSwap b
  | none => s

/-- The bank that a tag is opened against: the one it swaps to, or else the LIVE one (R27). -/
def State.bankFor? (s : State) (g : Tag) : Option Ix :=
  match s.reachedSwap? g with
  | some k => some k
  | none => s.liveBank?

/-! ### What an opening leaves (R27) -/

/-- `t` comes from `s` by the opening of context `c` for tag `g` against bank `b`, whatever the context held before. -/
structure State.Opened (s t : State) (c : Ix) (g : Tag) (b : Ix) : Prop where
  ctx : ∃ j, t.ctx c = { s.freshContext g b with job := j }
  newest : t.frames.newestOpened = some g
  opened : s.counted t .contextsOpened 1
  spared : ∀ k : Counter, k.ofOpening = true → k ≠ .contextsOpened → k ≠ .swaps → t.counter k = s.counter k
  useCount : (t.bank b).useCount = (s.bank b).useCount + 1
  live : (t.bank b).state = .live
  swapped : ∀ k, s.reachedSwap? g = some k → (t.bank b).swapMark = none ∧ s.counted t .swaps 1 ∧ s.raised t .bankSwapped
    ∧ (t.bank b.other).state = if (s.bank b.other).state = .live then .ready else (s.bank b.other).state
  unswapped : s.reachedSwap? g = none → t.bank b.other = s.bank b.other ∧ t.counter .swaps = s.counter .swaps
  ports : Part.ports.same s t

/-- Context `c` opened for tag `g` whatever it holds: steps 2 to 7 of an opening. -/
def State.openAt (s : State) (c : Ix) (g : Tag) : State := (s.swapTaken g).openIn c g

theorem openContext_eq (s : State) (g : Tag) : s.openContext g = (s.chooseCtx.1, s.chooseCtx.2.openAt s.chooseCtx.1 g) := rfl

/-- A swap leaves what a fresh context is made of. -/
theorem freshContext_takeSwap (s : State) (b : Ix) (g : Tag) : (s.takeSwap b).freshContext g b = s.freshContext g b := by
  have params : (s.takeSwap b).params = s.params := ((takeSwap_moves s b).frame .params (by decide)).symm
  unfold State.freshContext
  rw [takeSwap_latched, takeSwap_bank, params, timebase_of_moves (takeSwap_moves s b)]

theorem openAt_opened_of_swap {s : State} {k : Ix} (c : Ix) {g : Tag} (reached : s.reachedSwap? g = some k) :
    s.Opened (s.openAt c g) c g k := by
  have eq : s.openAt c g = (s.takeSwap k).openIn c g := by unfold State.openAt State.swapTaken; rw [reached]
  have live := takeSwap_liveBank s k
  have bank := openIn_bank c g live
  have other := openIn_bank_other c g live
  rw [eq]
  exact {
    ctx := by rw [← freshContext_takeSwap]; exact openIn_ctx c g live
    newest := openIn_newestOpened c g live
    opened := by
      have opened := openIn_counted c g live
      unfold State.counted at opened ⊢
      rwa [takeSwap_counter s k rfl (by decide)] at opened
    spared := fun x hx hc hs => (openIn_counter c g live hx hc).trans (takeSwap_counter s k hx hs)
    useCount := by rw [bank, takeSwap_bank]
    live := by rw [bank, takeSwap_bank]
    swapped := fun j _ => by
      refine ⟨by rw [bank, takeSwap_bank], ?_, openIn_raised c g live (takeSwap_reports s k) (takeSwap_raised s k), ?_⟩
      · unfold State.counted
        rw [openIn_counter c g live rfl (by decide)]
        exact takeSwap_counted s k
      · rw [other, takeSwap_bank_other, demote_state]
    unswapped := fun none => absurd (reached.symm.trans none) (by simp)
    ports := ((takeSwap_moves s k).frame .ports (by decide)).trans (openIn_ports c g live) }

theorem liveBank_state {s : State} {b : Ix} (h : s.liveBank? = some b) : (s.bank b).state = .live := by
  unfold State.liveBank? at h
  split at h
  · next live => rwa [← Option.some.inj h]
  · split at h
    · next live => rwa [← Option.some.inj h]
    · exact absurd h (by simp)

theorem openAt_opened_of_live {s : State} {b : Ix} (c : Ix) {g : Tag} (unreached : s.reachedSwap? g = none)
    (live : s.liveBank? = some b) : s.Opened (s.openAt c g) c g b := by
  have eq : s.openAt c g = s.openIn c g := by unfold State.openAt State.swapTaken; rw [unreached]
  have bank := openIn_bank c g live
  rw [eq]
  exact {
    ctx := openIn_ctx c g live
    newest := openIn_newestOpened c g live
    opened := openIn_counted c g live
    spared := fun x hx hc _ => openIn_counter c g live hx hc
    useCount := by rw [bank]
    live := by rw [bank]; exact liveBank_state live
    swapped := fun j reached => absurd (unreached.symm.trans reached) (by simp)
    unswapped := fun _ => ⟨openIn_bank_other c g live, openIn_counter c g live rfl (by decide)⟩
    ports := openIn_ports c g live }

theorem openAt_opened {s : State} {b : Ix} (c : Ix) {g : Tag} (h : s.bankFor? g = some b) : s.Opened (s.openAt c g) c g b := by
  unfold State.bankFor? at h
  split at h
  · next k reached => exact Option.some.inj h ▸ openAt_opened_of_swap c reached
  · next unreached => exact openAt_opened_of_live c unreached h

/-- The context that an opening uses while one is FREE (R27). -/
theorem chooseCtx_free {s : State} {c : Ix} (first : c = (if (s.ctx .zero).state = .free then .zero else .one))
    (free : (s.ctx c).state = .free) : s.chooseCtx = (c, s) := by
  unfold State.chooseCtx
  split at first
  · next h => rw [if_pos h, first]
  · next h => rw [if_neg h, first, if_pos (first ▸ free)]

/-! ## Openings that packets and segments bring about (R24, R25) -/

/-- The context of an opening, but for its job and its flags. -/
theorem State.Opened.fields {s t : State} {c b : Ix} {g : Tag} (h : s.Opened t c g b) : ∃ j f, t.ctx c = { Context.free with
    state := .assembling, tag := g, bank := b, label := (s.bank b).label, scale := (s.bank b).scale, openTime := s.now
    dAsm := s.params.dAsm, dDel := s.params.dDel, asmRunning := true, delRunning := true, job := j, flags := f } := by
  obtain ⟨j, ctx⟩ := h.ctx
  obtain ⟨f, fresh⟩ := freshContext_eq s g b
  exact ⟨j, f, by rw [ctx, fresh]⟩

theorem State.Opened.isCorrupt {s t : State} {c b : Ix} {g : Tag} (h : s.Opened t c g b) :
    (t.ctx c).isCorrupt = s.isPending .matrixUncorrectable := by
  obtain ⟨j, ctx⟩ := h.ctx
  rw [ctx, ← freshContext_isCorrupt s g b]
  rfl

theorem openContext_free {s : State} {c : Ix} (g : Tag) (first : c = (if (s.ctx .zero).state = .free then .zero else .one))
    (free : (s.ctx c).state = .free) : s.openContext g = (c, s.openAt c g) := by
  rw [openContext_eq, chooseCtx_free first free]

theorem ctxOfTag_none {s : State} {g : Tag} (h : ∀ k, (s.ctx k).isOpen = true → (s.ctx k).tag ≠ g) : s.ctxOfTag? g = none := by
  have unmatched (k : Ix) : ¬((s.ctx k).isOpen && (s.ctx k).tag == g) = true := by
    rw [Bool.and_eq_true, beq_iff_eq]
    exact fun ⟨isOpen, tag⟩ => h k isOpen tag
  unfold State.ctxOfTag?
  rw [if_neg (unmatched .zero), if_neg (unmatched .one)]

theorem hasMatrix_of_bankFor {s : State} {g : Tag} {b : Ix} (h : s.bankFor? g = some b) : s.hasMatrix g = true := by
  unfold State.bankFor? at h
  unfold State.hasMatrix
  split at h
  · next k reached => rw [reached]; exact Bool.or_true _
  · next unreached => rw [h]; rfl

/-- A tag of no open context, newer than the newest opened, with a matrix to open against, is opened (R24, R25). -/
theorem resolveNew_opens {s : State} {g : Tag} {b : Ix} (new : tagNewerThan g s.frames.newestOpened = true)
    (bank : s.bankFor? g = some b) : s.resolveNew g = (.accepted (s.openContext g).1, (s.openContext g).2) := by
  unfold State.resolveNew
  rw [new, hasMatrix_of_bankFor bank]
  rfl

theorem resolveSlope_opens {s : State} {g : Tag} {b : Ix} (unopened : ∀ k, (s.ctx k).isOpen = true → (s.ctx k).tag ≠ g)
    (new : tagNewerThan g s.frames.newestOpened = true) (bank : s.bankFor? g = some b) :
    s.resolveSlope g = (.accepted (s.openContext g).1, (s.openContext g).2) := by
  unfold State.resolveSlope
  rw [ctxOfTag_none unopened]
  exact resolveNew_opens new bank

theorem resolveSegment_opens {s : State} {g : Tag} {b : Ix} (unopened : ∀ k, (s.ctx k).isOpen = true → (s.ctx k).tag ≠ g)
    (new : tagNewerThan g s.frames.newestOpened = true) (bank : s.bankFor? g = some b) :
    s.resolveSegment g = (.accepted (s.openContext g).1, (s.openContext g).2) := by
  unfold State.resolveSegment
  rw [ctxOfTag_none unopened]
  exact resolveNew_opens new bank

/-! ### A segment of a new tag (R25, R78 to R80) -/

/-- The frame of a good segment goes to the resolution of its tag (R63, R65, R78). -/
theorem receive_segment {s : State} {f : List Byte} {g : Segment} (lengths : lengthsHold f = true) (crc : crc32Holds f = true)
    (kind : frameKind f = 1) (role : s.params.role = .middle ∨ s.params.role = .tail)
    (decoded : g = Segment.decode (framePayload f)) (forms : formsSegment (framePayload f) = true)
    (agrees : s.shapeAgrees g = true) : s.receive f = (s.bump .receivedPartial).segmentResolved f g := by
  subst decoded
  have arrives : (s.bump .receivedPartial).segmentArrives f
      = (s.bump .receivedPartial).segmentResolved f (Segment.decode (framePayload f)) := by
    have agreed : (s.bump .receivedPartial).shapeAgrees (Segment.decode (framePayload f)) = true := agrees
    unfold State.segmentArrives
    simp [forms, agreed]
  rw [← arrives]
  unfold State.receive State.classify
  rw [lengths, crc, kind]
  rcases role with role | role <;> simp [role]

/-- The context with a segment stored in its slot (R80). -/
def Context.storing (x : Context) (g : Segment) : Context :=
  { x with slots := x.slots.set g.index (.stored g), storedOrder := x.storedOrder ++ [g.index] }

theorem slotArrival_stores {s : State} {c : Ix} {g : Segment} (assembling : (s.ctx c).state = .assembling)
    (empty : (s.ctx c).slots.get g.index = .empty) :
    s.slotArrival c g = State.bump (s.setCtx c ((s.ctx c).storing g)) .storedSegments := by
  unfold State.slotArrival
  dsimp only
  rw [empty]
  exact if_pos assembling

theorem slotArrival_opened {s u : State} {c b : Ix} {g : Segment} (opened : s.Opened u c g.tag b) :
    u.slotArrival c g = State.bump (u.setCtx c ((u.ctx c).storing g)) .storedSegments := by
  obtain ⟨j, flags, ctx⟩ := opened.fields
  exact slotArrival_stores (by rw [ctx]) (by rw [ctx]; rfl)

/-- A segment of a new tag opens its context and is stored in it (R25, R80). -/
theorem segmentResolved_opens {s : State} {c b : Ix} {g : Segment} (f : List Byte)
    (unopened : ∀ k, (s.ctx k).isOpen = true → (s.ctx k).tag ≠ g.tag)
    (new : tagNewerThan g.tag s.frames.newestOpened = true) (bank : s.bankFor? g.tag = some b)
    (first : c = (if (s.ctx .zero).state = .free then .zero else .one)) (free : (s.ctx c).state = .free) :
    s.segmentResolved f g = State.bump ((s.openAt c g.tag).setCtx c (((s.openAt c g.tag).ctx c).storing g)) .storedSegments := by
  rw [← slotArrival_opened (openAt_opened c bank)]
  unfold State.segmentResolved
  rw [resolveSegment_opens unopened new bank, openContext_free _ first free]

/-- A good segment of a new tag at a MIDDLE or TAIL node opens its context (R25). -/
theorem segment_opens_context (s : State) (f : List Byte) (g : Segment) (b c : Ix) (up : s.trunk.tiUp = true)
    (lengths : lengthsHold f = true) (crc : crc32Holds f = true) (kind : frameKind f = 1)
    (role : s.params.role = .middle ∨ s.params.role = .tail) (decoded : g = Segment.decode (framePayload f))
    (forms : formsSegment (framePayload f) = true) (agrees : s.shapeAgrees g = true)
    (unopened : ∀ k, (s.ctx k).isOpen = true → (s.ctx k).tag ≠ g.tag)
    (new : tagNewerThan g.tag s.frames.newestOpened = true) (bank : s.bankFor? g.tag = some b)
    (first : c = (if (s.ctx .zero).state = .free then .zero else .one)) (free : (s.ctx c).state = .free) :
    ∃ t, exec (.tiFrameReceived f) s = .next t ∧ (t.ctx c).state = .assembling ∧ (t.ctx c).tag = g.tag
      ∧ (t.ctx c).bank = b ∧ (t.ctx c).openTime = s.now ∧ (t.ctx c).slots.get g.index = .stored g
      ∧ (t.ctx c).storedOrder = [g.index] ∧ t.frames.newestOpened = some g.tag ∧ s.counted t .contextsOpened 1
      ∧ s.counted t .storedSegments 1 := by
  have opened : (s.bump .receivedPartial).Opened _ c g.tag b := openAt_opened c bank
  have received := (receive_segment lengths crc kind role decoded forms agrees).trans
    (segmentResolved_opens (s := s.bump .receivedPartial) f unopened new bank first free)
  have step : exec (.tiFrameReceived f) s = .next (s.receive f) := by
    show Host.Outcome.next (if s.trunk.tiUp then s.receive f else s) = _
    rw [if_pos up]
  rw [received] at step
  have stored : ((s.bump .receivedPartial).openAt c g.tag).counter .storedSegments = s.counter .storedSegments :=
    (opened.spared .storedSegments rfl (by decide) (by decide)).trans (by rw [counter_bump, if_neg (by decide)])
  have counted : s.counted ((s.bump .receivedPartial).openAt c g.tag) .contextsOpened 1 := by
    have counted := opened.opened
    unfold State.counted at *
    rwa [counter_bump, if_neg (by decide)] at counted
  obtain ⟨j, flags, ctx⟩ := opened.fields
  generalize (s.bump .receivedPartial).openAt c g.tag = u at *
  have held : ((State.setCtx u c ((u.ctx c).storing g)).bump .storedSegments).ctx c = (u.ctx c).storing g :=
    State_ctx_setCtx u c _
  refine ⟨_, step, ?_⟩
  rw [held, ctx]
  refine ⟨rfl, rfl, rfl, rfl, Table_get_set_same _ _ _, rfl, opened.newest, ?_, ?_⟩
  · unfold State.counted
    rw [counter_bump, if_neg (by decide)]
    exact counted
  · exact counted_bump_of stored

/-! ### A packet of a new tag (R9, R24) -/

/-- A packet of a new tag is received in the context that is opened for it (R9, R24). -/
theorem resolvePacket_opens {s t : State} {p c b : Ix} {h : List Byte}
    (unopened : ∀ k, (s.ctx k).isOpen = true → (s.ctx k).tag ≠ (headerDescriptor h).tag)
    (new : tagNewerThan (headerDescriptor h).tag s.frames.newestOpened = true)
    (bank : s.bankFor? (headerDescriptor h).tag = some b)
    (opens : (s.reserve p (headerDescriptor h).count).openContext (headerDescriptor h).tag = (c, t)) :
    s.resolvePacket p h = t.beginReception p c h := by
  have resolved := resolveSlope_opens (s := s.reserve p (headerDescriptor h).count) unopened new bank
  rw [opens] at resolved
  unfold State.reserve at resolved
  simp only [State.resolvePacket, resolved]

theorem port_of_ports {s t : State} (h : Part.ports.same s t) (p : Ix) :
    { s.port p with config := Port.powerOn.config } = { t.port p with config := Port.powerOn.config } := by
  obtain ⟨zero, one⟩ := Prod.mk.inj h
  cases p
  · exact zero
  · exact one

theorem beginReception_ctx (s : State) (p c : Ix) (h : List Byte) : (s.beginReception p c h).ctx c
    = { s.ctx c with heldCount := (s.ctx c).heldCount.set p ((s.ctx c).heldCount.get p + 1) } := State_ctx_setCtx _ _ _

theorem beginReception_port (s : State) (p c : Ix) (h : List Byte) : (s.beginReception p c h).port p
    = { (s.port p).append [.descriptor { headerDescriptor h with ctx := c }, .descriptorRest] with
        reception := some ⟨h, { headerDescriptor h with ctx := c }⟩ } :=
  (State_port_setCtx _ _ _ _).trans (State_port_setPort _ _ _)

/-- What a packet's reception leaves in the context just opened for it (R9, R22). -/
theorem received_in_opened {s t : State} {c b : Ix} {g : Tag} (opened : s.Opened t c g b) (p : Ix) (h : List Byte) :
    ∃ u, t.beginReception p c h = u ∧ (u.ctx c).state = .assembling ∧ (u.ctx c).tag = g ∧ (u.ctx c).bank = b
      ∧ (u.ctx c).openTime = s.now ∧ (u.ctx c).heldCount.get p = 1 ∧ (u.port p).freeCount = (s.port p).freeCount
      ∧ (u.port p).reception = some ⟨h, { headerDescriptor h with ctx := c }⟩ ∧ u.frames.newestOpened = some g
      ∧ u.counters = t.counters := by
  obtain ⟨j, flags, ctx⟩ := opened.fields
  have free : (t.port p).freeCount = (s.port p).freeCount := (congrArg Port.freeCount (port_of_ports opened.ports p)).symm
  refine ⟨_, rfl, ?_⟩
  rw [beginReception_ctx, beginReception_port, ctx]
  exact ⟨rfl, rfl, rfl, rfl, by cases p <;> rfl, free, rfl, opened.newest, rfl⟩

/-- With a context FREE, a packet of a new tag opens it and is received in it (R9, R24, R27). -/
theorem packet_opens_free {s : State} {p b c : Ix} {h : List Byte}
    (unopened : ∀ k, (s.ctx k).isOpen = true → (s.ctx k).tag ≠ (headerDescriptor h).tag)
    (new : tagNewerThan (headerDescriptor h).tag s.frames.newestOpened = true)
    (bank : s.bankFor? (headerDescriptor h).tag = some b)
    (first : c = (if (s.ctx .zero).state = .free then .zero else .one)) (free : (s.ctx c).state = .free) :
    ∃ t, s.resolvePacket p h = t ∧ (t.ctx c).state = .assembling ∧ (t.ctx c).tag = (headerDescriptor h).tag
      ∧ (t.ctx c).bank = b ∧ (t.ctx c).openTime = s.now ∧ (t.ctx c).heldCount.get p = 1
      ∧ (t.port p).freeCount = (s.port p).freeCount - footprint (headerDescriptor h).count
      ∧ (t.port p).reception = some ⟨h, { headerDescriptor h with ctx := c }⟩
      ∧ t.frames.newestOpened = some (headerDescriptor h).tag ∧ s.counted t .contextsOpened 1 := by
  have opened : (s.reserve p (headerDescriptor h).count).Opened _ c (headerDescriptor h).tag b := openAt_opened c bank
  have opens := openContext_free (s := s.reserve p (headerDescriptor h).count) (headerDescriptor h).tag first free
  obtain ⟨t, received, state, tag, bank', time, held, room, reception, newest, counters⟩ := received_in_opened opened p h
  refine ⟨t, (resolvePacket_opens unopened new bank opens).trans received, state, tag, bank', time, held, ?_, reception, newest,
    ?_⟩
  · exact room.trans (congrArg Port.freeCount (State_port_setPort s p _))
  · exact (counter_congr counters _).trans opened.opened

/-- With a context FREE, the first such is opened (R27). -/
theorem openContext_records (s : State) (g : Tag) (b c : Ix)
    (first : c = (if (s.ctx .zero).state = .free then .zero else .one)) (free : (s.ctx c).state = .free)
    (bank : s.bankFor? g = some b) : (s.openContext g).1 = c ∧ s.Opened (s.openContext g).2 c g b := by
  rw [openContext_free g first free]
  exact ⟨rfl, openAt_opened c bank⟩

/-- What the opening of a context records, field by field (R22, R27, R49, R55). -/
theorem State.Opened.records {s t : State} {c b : Ix} {g : Tag} (h : s.Opened t c g b) :
    (t.ctx c).state = .assembling ∧ (t.ctx c).tag = g ∧ (t.ctx c).bank = b
      ∧ (t.ctx c).label = (s.bank b).label ∧ (t.ctx c).scale = (s.bank b).scale ∧ (t.ctx c).openTime = s.now
      ∧ (t.ctx c).dAsm = s.params.dAsm ∧ (t.ctx c).dDel = s.params.dDel
      ∧ (t.ctx c).asmRunning = true ∧ (t.ctx c).delRunning = true ∧ (t.ctx c).heldCount = ⟨0, 0⟩
      ∧ (∀ i, (t.ctx c).seen.get i = false ∧ (t.ctx c).sums.get i = 0 ∧ (t.ctx c).slots.get i = .empty) := by
  obtain ⟨j, flags, ctx⟩ := h.fields
  rw [ctx]
  exact ⟨rfl, rfl, rfl, rfl, rfl, rfl, rfl, rfl, rfl, rfl, rfl, fun i => ⟨rfl, rfl, rfl⟩⟩

/-! ## The displacement of a context (R29, R30) -/

/-! ### The Column Engine gives up its work (R29, R54) -/

theorem columnInProgress_iff (a : Arbiter) :
    a.columnInProgress = true ↔ ∃ x, a.inProgress = some x ∧ x.job.isColumn = true := by
  unfold Arbiter.columnInProgress
  split
  · next x inProgress => simp [inProgress]
  · next inProgress => simp [inProgress]

theorem not_columnInProgress {a : Arbiter} (h : ∀ x, a.inProgress = some x → x.job.isColumn = false) :
    ¬a.columnInProgress = true := by
  rw [columnInProgress_iff]
  rintro ⟨x, inProgress, column⟩
  exact absurd ((h x inProgress).symm.trans column) (by decide)

section
variable (s : State) (packet : Option (Ix × Descriptor))

theorem stopEngine_pass : (s.stopEngine packet).engine.pass = none := by
  unfold State.stopEngine
  dsimp only
  split
  · rfl
  · split <;> rfl

theorem stopEngine_arbiter : (s.stopEngine packet).arbiter = s.arbiter.withdraw BurstJob.isColumn := by
  unfold State.stopEngine
  dsimp only
  split
  · rfl
  · split <;> rfl

/-- No column fetch waits once the engine has given up its work. -/
theorem stopEngine_columnFetch : ∀ x ∈ (s.stopEngine packet).arbiter.columnFetch, x.job.isColumn = false := by
  rw [stopEngine_arbiter]
  intro x hx
  simpa using (List.mem_filter.mp hx).2

variable {s}

theorem stopEngine_draining (h : s.arbiter.columnInProgress = true) :
    (s.stopEngine packet).engine.work = .draining packet ∧ (s.stopEngine packet).ports = s.ports := by
  unfold State.stopEngine
  dsimp only
  rw [if_pos h]
  exact ⟨rfl, rfl⟩

variable (h : ¬s.arbiter.columnInProgress = true)
include h

theorem stopEngine_idle : (s.stopEngine packet).engine.work = .idle := by
  unfold State.stopEngine
  dsimp only
  rw [if_neg h]
  split <;> rfl

theorem stopEngine_port (p : Ix) (d : Descriptor) :
    (s.stopEngine (some (p, d))).port p = (s.port p).releaseWords d.count := by
  unfold State.stopEngine
  dsimp only
  rw [if_neg h]
  exact State_port_setPort _ _ _

end

section
variable {s : State} {c : Ix}

theorem stopEngineFor_job {k : Nat} (h : s.engine.work = .job c k) : s.stopEngineFor c = s.stopEngine none := by
  unfold State.stopEngineFor
  rw [h]
  exact if_pos rfl

theorem stopEngineFor_packet {p : Ix} {d : Descriptor} {k : Nat} (h : s.engine.work = .packet p d k) (hc : d.ctx = c) :
    s.stopEngineFor c = s.stopEngine (some (p, d)) := by
  unfold State.stopEngineFor
  rw [h]
  exact if_pos hc

end

/-! ### What raising an event leaves (R190) -/

/-- A grant of TO takes frames out of the realtime queue only. -/
theorem grantTo_realtime (s : State) : ∀ f ∈ s.grantTo.trunk.realtime, f ∈ s.trunk.realtime := by
  intro f hf
  unfold State.grantTo at hf
  split at hf
  · split at hf
    · next queued => rw [queued]; exact List.mem_cons_of_mem _ hf
    · exact hf
    · exact hf
  · exact hf

theorem placeControl_realtime (s : State) (x : ToFrame) :
    ∀ f ∈ (s.placeControl x).trunk.realtime, f ∈ s.trunk.realtime := by
  unfold State.placeControl
  split
  · exact fun f hf => hf
  · exact grantTo_realtime { s with trunk := { s.trunk with control := s.trunk.control ++ [x] } }

theorem reportTest_realtime (s : State) : ∀ f ∈ s.reportTest.trunk.realtime, f ∈ s.trunk.realtime := by
  unfold State.reportTest
  split
  · exact placeControl_realtime s _
  · exact fun f hf => hf

/-- An event places nothing in the realtime queue (R190, R191). -/
theorem raise_realtime (s : State) (e : Event) : ∀ f ∈ (s.raise e).trunk.realtime, f ∈ s.trunk.realtime := by
  unfold State.raise
  dsimp only
  split
  · exact reportTest_realtime (s.setPending e)
  · intro f hf
    simpa using reportTest_realtime _ f hf

theorem triggerCapture_inFlight (s : State) (e : Event) : (s.triggerCapture e).telemetry.inFlight = s.telemetry.inFlight := by
  unfold State.triggerCapture
  split
  · dsimp only
    split <;> rfl
  · rfl

theorem raise_inFlight (s : State) (e : Event) : (s.raise e).telemetry.inFlight = s.telemetry.inFlight := by
  unfold State.raise
  dsimp only
  rw [State_reportTest_telemetry]
  split
  · rfl
  · rw [triggerCapture_inFlight, State_joinLaterCauses_telemetry]
    rfl

/-! ### An ASSEMBLING context is abandoned (R29) -/

theorem release_ctx_free {s : State} {c : Ix} (h : (s.ctx c).state ≠ .free) : (s.release c).ctx c = Context.free := by
  unfold State.release
  dsimp only
  rw [if_neg h]
  exact State_ctx_setCtx _ _ _

theorem release_useCount {s : State} {c : Ix} (h : (s.ctx c).state ≠ .free) :
    ((s.release c).bank (s.ctx c).bank).useCount = (s.bank (s.ctx c).bank).useCount - 1 := by
  unfold State.release
  dsimp only
  rw [if_neg h]
  exact congrArg Bank.useCount (State_bank_setBank _ _ _)

/-- An abandonment as far as its counting: the engine has stopped, and no job of the context is queued (R29). -/
def State.unassigned (s : State) (c : Ix) : State :=
  let s1 := s.stopEngineFor c
  { s1 with frames := { s1.frames with jobs := s1.frames.jobs.filter (fun k => k != c) } }

theorem abandon_eq (s : State) (c : Ix) :
    s.abandon c = (((s.unassigned c).bump .abandoned).release c).raise .contextAbandoned := rfl

section
variable (s : State) (c : Ix)

theorem unassigned_moves : Moves [.arbiter, .engine, .ports, .jobs] s (s.unassigned c) :=
  (jobs_moves _ _).after (stopEngineFor_moves s c).widen

/-- What follows the counting of an abandonment spares what openings are judged by. -/
theorem abandon_spares : ((s.unassigned c).bump .abandoned).Spares (s.abandon c) :=
  (raise_spares _ .contextAbandoned).after (release_spares _ c)

theorem abandon_counter {k : Counter} (spared : k.ofOpening = true) (other : k ≠ .abandoned) :
    (s.abandon c).counter k = s.counter k :=
  ((abandon_spares s c).counters k spared).trans
    (by rw [counter_bump, if_neg other, counter_congr ((unassigned_moves s c).frame .counters (by decide)).symm])

theorem abandon_counted : s.counted (s.abandon c) .abandoned 1 :=
  ((abandon_spares s c).counters _ rfl).trans
    (counted_bump_of (counter_congr ((unassigned_moves s c).frame .counters (by decide)).symm _))

theorem abandon_sameSwap : s.SameSwap (s.abandon c) :=
  .trans (.of_banks (t := (s.unassigned c).bump .abandoned) ((unassigned_moves s c).frame .banks (by decide)).symm)
    (abandon_spares s c).banks

theorem abandon_raised : s.raised (s.abandon c) .contextAbandoned := by
  refine raised_of_raise (u := ((s.unassigned c).bump .abandoned).release c) ?_ rfl rfl
  rw [counter_congr (State_release_counters _ c), counter_bump, if_neg (by decide)]
  exact counter_congr ((unassigned_moves s c).frame .counters (by decide)).symm _

theorem abandon_frames : (s.abandon c).frames = (((s.unassigned c).bump .abandoned).release c).frames := by
  rw [abandon_eq, State_raise_frames]

theorem unassigned_ctx (x : Ix) : (s.unassigned c).ctx x = s.ctx x := ctx_of_moves (unassigned_moves s c) x

theorem unassigned_bank (b : Ix) : (s.unassigned c).bank b = s.bank b :=
  bank_congr ((unassigned_moves s c).frame .banks (by decide)).symm b

/-- No job of an abandoned context is queued (R29). -/
theorem abandon_jobs : c ∉ (s.abandon c).frames.jobs := by
  rw [abandon_frames, ← (release_moves ((s.unassigned c).bump .abandoned) c).frame .jobs (by decide)]
  intro queued
  simpa using (List.mem_filter.mp queued).2

theorem abandon_inFlight : (s.abandon c).telemetry.inFlight = s.telemetry.inFlight := by
  have capture := (stopEngineFor_moves s c).frame .capture (by decide)
  rw [abandon_eq, raise_inFlight, State_release_telemetry]
  exact (congrArg Telemetry.inFlight capture).symm

theorem abandon_realtime : ∀ f ∈ (s.abandon c).trunk.realtime, f ∈ s.trunk.realtime := by
  have trunk : (((s.unassigned c).bump .abandoned).release c).trunk.realtime = s.trunk.realtime := by
    rw [State_release_trunk]
    exact (Prod.mk.inj ((stopEngineFor_moves s c).frame .queues (by decide))).1.symm
  intro f hf
  rw [abandon_eq] at hf
  exact trunk ▸ raise_realtime _ _ f hf

theorem abandon_engine : (s.abandon c).engine = (s.stopEngineFor c).engine := by
  rw [abandon_eq, State_raise_engine, State_release_engine]
  rfl

theorem abandon_arbiter : (s.abandon c).arbiter = (s.stopEngineFor c).arbiter := by
  rw [abandon_eq, State_raise_arbiter, State_release_arbiter]
  rfl

theorem abandon_ports : (s.abandon c).ports = (s.stopEngineFor c).ports := by
  rw [abandon_eq, State_raise_ports, State_release_ports]
  rfl

variable {s c} (assembling : (s.ctx c).state = .assembling)
include assembling

theorem abandon_ctx : (s.abandon c).ctx c = Context.free ∧ (s.abandon c).ctx c.other = s.ctx c.other := by
  have kept (x : Ix) : ((s.unassigned c).bump .abandoned).ctx x = s.ctx x := unassigned_ctx s c x
  have held : (((s.unassigned c).bump .abandoned).ctx c).state ≠ .free := by rw [kept, assembling]; decide
  rw [ctx_congr (abandon_frames s c), ctx_congr (abandon_frames s c), release_ctx_free held, release_ctx_other, kept]
  exact ⟨rfl, rfl⟩

theorem abandon_useCount :
    ((s.abandon c).bank (s.ctx c).bank).useCount = (s.bank (s.ctx c).bank).useCount - 1 := by
  have kept : ((s.unassigned c).bump .abandoned).ctx c = s.ctx c := unassigned_ctx s c c
  have held : (((s.unassigned c).bump .abandoned).ctx c).state ≠ .free := by rw [kept, assembling]; decide
  have released := release_useCount held
  rw [kept] at released
  rw [abandon_eq, bank_congr (congrArg BankStore.banks (State_raise_bankStore _ _)), released]
  exact congrArg (fun b : Bank => b.useCount - 1) (unassigned_bank s c _)

end

/-- The engine gives up the job of an abandoned context (R29, R54). -/
theorem abandon_stops_job {s : State} {c : Ix} {k : Nat} (work : s.engine.work = .job c k) :
    (s.abandon c).engine.pass = none ∧ (∀ x ∈ (s.abandon c).arbiter.columnFetch, x.job.isColumn = false)
    ∧ ((∀ x, s.arbiter.inProgress = some x → x.job.isColumn = false) → (s.abandon c).engine.work = .idle) := by
  rw [abandon_engine, abandon_arbiter, stopEngineFor_job work]
  exact ⟨stopEngine_pass s _, stopEngine_columnFetch s _, fun noColumn => stopEngine_idle _ (not_columnInProgress noColumn)⟩

/-- The engine gives up a packet of an abandoned context: it drains while a column burst is in progress, and releases the packet
otherwise (R29, R54). -/
theorem abandon_stops_packet {s : State} {c p : Ix} {d : Descriptor} {k : Nat} (work : s.engine.work = .packet p d k)
    (hc : d.ctx = c) :
    (s.abandon c).engine.pass = none ∧ (∀ x ∈ (s.abandon c).arbiter.columnFetch, x.job.isColumn = false)
    ∧ ((∃ x, s.arbiter.inProgress = some x ∧ x.job.isColumn = true) →
      (s.abandon c).engine.work = .draining (some (p, d)) ∧ (s.abandon c).ports = s.ports)
    ∧ ((∀ x, s.arbiter.inProgress = some x → x.job.isColumn = false) → (s.abandon c).engine.work = .idle
      ∧ ((s.abandon c).port p).readPos = ((s.port p).readPos + footprint d.count) % 8192
      ∧ ((s.abandon c).port p).freeCount = (s.port p).freeCount + footprint d.count) := by
  rw [abandon_engine, abandon_arbiter, abandon_ports, port_congr (abandon_ports s c), stopEngineFor_packet work hc]
  refine ⟨stopEngine_pass s _, stopEngine_columnFetch s _, fun column => ?_, fun noColumn => ?_⟩
  · exact stopEngine_draining _ ((columnInProgress_iff _).mpr column)
  · rw [stopEngine_port (not_columnInProgress noColumn)]
    exact ⟨stopEngine_idle _ (not_columnInProgress noColumn), rfl, rfl⟩

/-! ### A DONE context is released early (R30, R176) -/

theorem release_of_free {s : State} {c : Ix} (h : (s.ctx c).state = .free) : s.release c = s := by
  unfold State.release
  exact if_pos h

section
variable {s : State} {c : Ix}

theorem releaseEarly_without_record (h : ∀ w, s.telemetry.inFlight = some w → w.ctx ≠ c) : s.releaseEarly c = s.release c := by
  unfold State.releaseEarly
  split
  · next w inFlight => exact if_neg (h w inFlight)
  · rfl

/-- A record in flight of the context is dropped with it (R176). -/
theorem releaseEarly_with_record {w : RecordWrite} (inFlight : s.telemetry.inFlight = some w) (hw : w.ctx = c) :
    s.releaseEarly c = s.withdrawRecord.bump .telemetryDropped
    ∧ s.withdrawRecord = State.release
      { s.withdraw BurstJob.isTelemetryWrite with telemetry := { s.telemetry with inFlight := none } } c := by
  have withdrawn : s.withdrawRecord = State.release
      { s.withdraw BurstJob.isTelemetryWrite with telemetry := { s.telemetry with inFlight := none } } c := by
    unfold State.withdrawRecord
    rw [inFlight, ← hw]
    rfl
  refine ⟨?_, withdrawn⟩
  have free : ((s.withdrawRecord.bump .telemetryDropped).ctx c).state = .free := by
    rw [withdrawn]
    exact release_ctx_state _ c
  unfold State.releaseEarly State.dropRecord
  rw [inFlight]
  dsimp only
  rw [if_pos hw, Option.isSome_some, if_pos rfl, release_of_free free]

theorem releaseEarly_state (s : State) (c : Ix) : ((s.releaseEarly c).ctx c).state = .free := by
  unfold State.releaseEarly
  split
  · split <;> exact release_ctx_state _ c
  · exact release_ctx_state _ c

/-- No record of a context released early stays in flight (R30, R176). -/
theorem releaseEarly_inFlight (s : State) (c : Ix) : ∀ w, (s.releaseEarly c).telemetry.inFlight = some w → w.ctx ≠ c := by
  by_cases h : ∀ w, s.telemetry.inFlight = some w → w.ctx ≠ c
  · rw [releaseEarly_without_record h, State_release_telemetry]
    exact h
  · push Not at h
    obtain ⟨w, inFlight, hw⟩ := h
    obtain ⟨released, withdrawn⟩ := releaseEarly_with_record inFlight hw
    have none : (s.releaseEarly c).telemetry.inFlight = none := by
      rw [released, withdrawn]
      exact congrArg Telemetry.inFlight (State_release_telemetry _ c)
    intro v hv
    exact absurd (none.symm.trans hv) (by simp)

/-- A context that is not FREE is released early to a FREE one, the other as it was. -/
theorem releaseEarly_ctx (held : (s.ctx c).state ≠ .free) :
    (s.releaseEarly c).ctx c = Context.free ∧ (s.releaseEarly c).ctx c.other = s.ctx c.other := by
  by_cases h : ∀ w, s.telemetry.inFlight = some w → w.ctx ≠ c
  · rw [releaseEarly_without_record h]
    exact ⟨release_ctx_free held, release_ctx_other s c⟩
  · push Not at h
    obtain ⟨w, inFlight, hw⟩ := h
    obtain ⟨released, withdrawn⟩ := releaseEarly_with_record inFlight hw
    rw [released, withdrawn]
    exact ⟨release_ctx_free (s := { s.withdraw BurstJob.isTelemetryWrite with telemetry := { s.telemetry with inFlight := none } })
      held, release_ctx_other _ c⟩

/-- The record in flight of a displaced DONE context is withdrawn and counted (R176). -/
theorem releaseEarly_drops {w : RecordWrite} (inFlight : s.telemetry.inFlight = some w) (hw : w.ctx = c) :
    (s.releaseEarly c).telemetry.inFlight = none ∧ s.counted (s.releaseEarly c) .telemetryDropped 1
    ∧ ∀ x ∈ (s.releaseEarly c).arbiter.telemetryWrite, x.job.isTelemetryWrite = false := by
  obtain ⟨released, withdrawn⟩ := releaseEarly_with_record inFlight hw
  rw [released]
  refine ⟨?_, counted_bump_of ?_, ?_⟩
  · rw [withdrawn]
    exact congrArg Telemetry.inFlight (State_release_telemetry _ c)
  · rw [withdrawn]
    exact counter_congr (State_release_counters _ c) _
  · intro x hx
    have queued : x ∈ s.withdrawRecord.arbiter.telemetryWrite := hx
    rw [withdrawn, State_release_arbiter] at queued
    simpa using (List.mem_filter.mp queued).2

end

theorem displace_done {s : State} {c : Ix} (done : (s.ctx c).state = .done) : s.displace c = s.releaseEarly c := by
  unfold State.displace
  rw [done]

/-! ### A frame displaced before its delivery is merged by force (R29, R87, R92) -/

section
variable (s : State) (c : Ix)

theorem placeRealtime_ctx (b : List Byte) (x : Ix) : (s.placeRealtime b).ctx x = s.ctx x :=
  ctx_of_moves (placeRealtime_moves s b) x

theorem placeMerged_flags (g : Segment) : ((s.placeMerged c g).ctx c).flags = (s.ctx c).flags := by
  have taken (kept : Bool) : ((s.setCtx c ((s.ctx c).takeMerged kept g)).ctx c).flags = (s.ctx c).flags := by
    rw [State_ctx_setCtx]; rfl
  unfold State.placeMerged
  dsimp only
  split
  · exact taken _
  · rw [placeRealtime_ctx]
    exact taken _

theorem mergeOne_flags (g : Segment) : ((s.mergeOne c g).ctx c).flags = (s.ctx c).flags := by
  unfold State.mergeOne
  refine (placeMerged_flags _ c _).trans ?_
  cases (s.mergeCase (s.ctx c) g).counter? <;> rfl

theorem mergeStored_flags (is : List Nat) : ((s.mergeStored c is).ctx c).flags = (s.ctx c).flags := by
  induction is generalizing s with
  | nil => rfl
  | cons i is ih =>
    unfold State.mergeStored
    split
    · exact (ih _).trans (mergeOne_flags s c _)
    · exact ih s

theorem mergeAllStored_flags : ((s.mergeAllStored c).ctx c).flags = (s.ctx c).flags :=
  (mergeStored_flags _ c _).trans (by rw [State_ctx_setCtx])

theorem makeMissing_flags (is : List Nat) : ((s.makeMissing c is).ctx c).flags = (s.ctx c).flags := by
  induction is generalizing s with
  | nil => rfl
  | cons i is ih =>
    unfold State.makeMissing
    split
    · exact (ih _).trans (placeMerged_flags _ c _)
    · exact ih s

end

/-- A late frame is counted, also by the cause of its lateness, and raised (R92, R94). -/
def State.countLate (s : State) (cause : Counter) : State := ((s.bump .lateFrames).bump cause).raise .lateFrame

/-- `t` comes from `s` by the finishing of a late frame, which is not applied (R91, R92). -/
structure State.FinishedLate (s t : State) (cause : Counter) : Prop where
  judged : ∃ u, s.Spares u ∧ (u.countLate cause).Spares t
  lastApplied : t.lastApplied = s.lastApplied
  isCause : cause = .lateByDeadline ∨ cause = .lateByDisplacement

/-- An event is raised after work that has reported nothing away. -/
theorem raised_later {s u : State} (e : Event) (before : min (s.counter .eventFrames) Config.counterMax ≤ u.counter .eventFrames) :
    s.raised (u.raise e) e := by
  have raised := (raise_raised u e).1
  unfold State.raised at raised ⊢
  rcases raised with pending | reported
  · exact .inl pending
  · right; omega

section
variable {u : State} {cause : Counter}

theorem countLate_counter {k : Counter} (spared : k.ofOpening = true) (hl : k ≠ .lateFrames) (hc : k ≠ cause) :
    (u.countLate cause).counter k = u.counter k :=
  ((raise_spares _ .lateFrame).counters k spared).trans (by rw [counter_bump, if_neg hc, counter_bump, if_neg hl])

variable (h : cause = .lateByDeadline ∨ cause = .lateByDisplacement)
include h

theorem countLate_counted : u.counted (u.countLate cause) .lateFrames 1 ∧ u.counted (u.countLate cause) cause 1 := by
  have kept (k : Counter) (spared : k.ofOpening = true) :
      (u.countLate cause).counter k = ((u.bump .lateFrames).bump cause).counter k := (raise_spares _ .lateFrame).counters k spared
  unfold State.counted
  rcases h with rfl | rfl <;> rw [kept _ rfl, kept _ rfl] <;> simp [counter_bump]

theorem countLate_reports {s : State} (before : min (s.counter .eventFrames) Config.counterMax ≤ u.counter .eventFrames) :
    min (s.counter .eventFrames) Config.counterMax ≤ ((u.bump .lateFrames).bump cause).counter .eventFrames := by
  rcases h with rfl | rfl <;> simpa [counter_bump] using before

end

section
variable {s t : State} {cause : Counter} (h : s.FinishedLate t cause)
include h

theorem State.FinishedLate.counter {k : Counter} (spared : k.ofOpening = true) (hl : k ≠ .lateFrames) (hc : k ≠ cause) :
    t.counter k = s.counter k := by
  obtain ⟨u, before, after⟩ := h.judged
  rw [after.counters k spared, countLate_counter spared hl hc, before.counters k spared]

theorem State.FinishedLate.counted : s.counted t .lateFrames 1 ∧ s.counted t cause 1 := by
  obtain ⟨u, before, after⟩ := h.judged
  have spared : cause.ofOpening = true := by rcases h.isCause with rfl | rfl <;> rfl
  have counted := countLate_counted (u := u) h.isCause
  unfold State.counted at *
  rwa [after.counters _ rfl, after.counters _ spared, ← before.counters _ rfl, ← before.counters _ spared]

theorem State.FinishedLate.raised : s.raised t .lateFrame := by
  obtain ⟨u, before, after⟩ := h.judged
  have counted := countLate_reports h.isCause before.reports
  have reports := (raise_spares ((u.bump .lateFrames).bump cause) .lateFrame).reports
  exact after.raised (le_trans (by omega) reports) (raised_later .lateFrame counted)

theorem State.FinishedLate.reports : min (s.counter .eventFrames) Config.counterMax ≤ t.counter .eventFrames := by
  obtain ⟨u, before, after⟩ := h.judged
  have counted := countLate_reports h.isCause before.reports
  have reports := (raise_spares ((u.bump .lateFrames).bump cause) .lateFrame).reports
  have kept := after.reports
  unfold State.countLate at kept
  omega

theorem State.FinishedLate.sameSwap : s.SameSwap t := by
  obtain ⟨u, before, after⟩ := h.judged
  have counted : u.SameSwap ((u.bump .lateFrames).bump cause) := .of_banks rfl
  exact (before.banks.trans (counted.trans (raise_spares _ .lateFrame).banks)).trans after.banks

end

/-! #### The forced merge of a displaced frame -/

/-- The counter of what makes a displaced frame late (R92). -/
def Context.lateCause (x : Context) : Counter :=
  if x.hasFlag .deliveryDeadline then .lateByDeadline else .lateByDisplacement

/-- A late frame runs no pipeline: it is counted, its residuals are computed and its finishing is reported (R91, R92). -/
theorem finish_eq_of_late {s : State} {c : Ix} {displaced : Bool} {v : Verdict} (judged : s.verdict c displaced = v)
    (late : v ≠ .good) : s.finish c displaced = ((((((s.soloMasks c).noteFinish c v.cls).countVerdict v).computeResiduals c
      ((s.heldSegments c).flatMap Segment.sums)).report true false 0).contextDone c) := by
  have isLate : (v == .good) = false := beq_false_of_ne late
  unfold State.finish
  simp only [judged, bne, isLate, Bool.false_and, Bool.not_false]
  rfl

theorem verdict_displaced (s : State) (c : Ix) : s.verdict c true
    = if (s.ctx c).hasFlag .deliveryDeadline then .lateByDeadline else .lateByDisplacement := rfl

/-- A displaced frame is finished late and not applied (R92). -/
theorem finish_displaced (s : State) (c : Ix) : s.FinishedLate (s.finish c true) (s.ctx c).lateCause := by
  have noted (k : FrameClass) : Moves [.contexts] s ((s.soloMasks c).noteFinish c k) :=
    (setCtx_moves _ c _).after (soloMasks_moves s c)
  have followed (u : State) (vs : List Int) : u.Spares (((u.computeResiduals c vs).report true false 0).contextDone c) :=
    (contextDone_spares _ c).after ((report_spares _ true false 0).after (computeResiduals_spares u c vs))
  have lastApplied (v : Verdict) (vs : List Int) : ((((((s.soloMasks c).noteFinish c v.cls).countVerdict v).computeResiduals c
      vs).report true false 0).contextDone c).lastApplied = s.lastApplied := by
    rw [← (contextDone_moves _ c).frame .lastApplied (by decide), ← (report_moves _ true false 0).frame .lastApplied (by decide),
      ← (computeResiduals_moves _ c vs).frame .lastApplied (by decide), ← (countVerdict_moves _ v).frame .lastApplied (by decide),
      ← (noted v.cls).frame .lastApplied (by decide)]
  have judged := verdict_displaced s c
  unfold Context.lateCause
  split at judged
  · next deadline =>
    rw [if_pos deadline, finish_eq_of_late judged (by decide)]
    exact ⟨⟨_, (noted _).spares, followed (State.countLate _ .lateByDeadline) _⟩, lastApplied _ _, .inl rfl⟩
  · next inTime =>
    rw [if_neg inTime, finish_eq_of_late judged (by decide)]
    exact ⟨⟨_, (noted _).spares, followed (State.countLate _ .lateByDisplacement) _⟩, lastApplied _ _, .inr rfl⟩

theorem State.FinishedLate.of_spares {s u t : State} {cause : Counter} (before : s.Spares u) (applied : u.lastApplied = s.lastApplied)
    (h : u.FinishedLate t cause) : s.FinishedLate t cause := by
  obtain ⟨v, spared, after⟩ := h.judged
  exact ⟨⟨v, before.trans spared, after⟩, h.lastApplied.trans applied, h.isCause⟩

/-- The forced merge of a displaced frame finishes it late at a tail (R87, R92). -/
theorem forcedMerge_finishes_late {s : State} (c : Ix) (tail : s.isTail = true) :
    s.FinishedLate (s.forcedMerge c true) (s.ctx c).lateCause := by
  have merged : Moves mergeParts s ((s.mergeAllStored c).makeMissing c (List.range s.segments)) :=
    (makeMissing_moves _ c _).after (mergeAllStored_moves s c)
  have flags : (((s.mergeAllStored c).makeMissing c (List.range s.segments)).ctx c).lateCause = (s.ctx c).lateCause := by
    unfold Context.lateCause Context.hasFlag
    rw [makeMissing_flags, mergeAllStored_flags]
  unfold State.isTail at tail
  unfold State.forcedMerge
  split
  · exact finish_displaced s c
  · next head => simp [head] at tail
  · next middle => simp [middle] at tail
  · unfold State.complete
    rw [if_pos (by unfold State.isTail; rwa [← merged.frame .params (by decide)]), ← flags]
    exact .of_spares ((makeMissing_spares _ c _).after (mergeAllStored_spares s c)) (merged.frame .lastApplied (by decide)).symm
      (finish_displaced _ c)

/-- Elsewhere it sends what it merged, and counts nothing of an opening (R86, R87). -/
theorem forcedMerge_spares {s : State} (c : Ix) (notTail : ¬s.isTail = true) : s.Spares (s.forcedMerge c true) := by
  have merged : Moves mergeParts s ((s.mergeAllStored c).makeMissing c (List.range s.segments)) :=
    (makeMissing_moves _ c _).after (mergeAllStored_moves s c)
  have forced : s.Spares (((s.mergeAllStored c).makeMissing c (List.range s.segments)).complete c true) := by
    unfold State.complete
    rw [if_neg (by unfold State.isTail; rwa [← merged.frame .params (by decide)])]
    exact (contextDone_spares _ c).after ((makeMissing_spares _ c _).after (mergeAllStored_spares s c))
  unfold State.isTail at notTail
  unfold State.forcedMerge
  split
  · next solo => simp [solo] at notTail
  · exact (contextDone_spares _ c).after (buildHead_spares s c _)
  · exact forced
  · exact forced

/-! ### What a displacement counts and leaves -/

section
variable {s : State} {c : Ix}

theorem displace_assembling (h : (s.ctx c).state = .assembling) : s.displace c = s.abandon c := by
  unfold State.displace
  rw [h]

theorem displace_summed (h : (s.ctx c).state = .accumulated ∨ (s.ctx c).state = .merging) :
    s.displace c = ((s.forcedMerge c true).bump .forcedByDisplacement).releaseEarly c := by
  unfold State.displace
  rcases h with h | h <;> rw [h]

/-- A forced merge counts of what openings are judged by the lateness of the frame alone (R87, R92). -/
theorem forcedMerge_counter {k : Counter} (spared : k.ofOpening = true)
    (notLate : k ≠ .lateFrames ∧ k ≠ .lateByDeadline ∧ k ≠ .lateByDisplacement) :
    (s.forcedMerge c true).counter k = s.counter k := by
  obtain ⟨frames, deadline, displacement⟩ := notLate
  by_cases tail : s.isTail = true
  · have finished := forcedMerge_finishes_late c tail
    refine finished.counter spared frames ?_
    rcases finished.isCause with cause | cause <;> rwa [cause]
  · exact (forcedMerge_spares c tail).counters k spared

theorem forcedMerge_sameSwap (s : State) (c : Ix) : s.SameSwap (s.forcedMerge c true) := by
  by_cases tail : s.isTail = true
  · exact (forcedMerge_finishes_late c tail).sameSwap
  · exact (forcedMerge_spares c tail).banks

/-- A displacement keeps the LIVE bank and the scheduled swap. -/
theorem displace_sameSwap (s : State) (c : Ix) : s.SameSwap (s.displace c) := by
  unfold State.displace
  have forced : s.SameSwap (((s.forcedMerge c true).bump .forcedByDisplacement).releaseEarly c) :=
    ((forcedMerge_sameSwap s c).trans (.of_banks (t := (s.forcedMerge c true).bump .forcedByDisplacement) rfl)).trans
      (releaseEarly_spares _ c).banks
  split
  · exact abandon_sameSwap s c
  · exact forced
  · exact forced
  · exact (releaseEarly_spares s c).banks
  · exact (State.Spares.refl s).banks

theorem displaced_counter {k : Counter} (spared : k.ofOpening = true) :
    (((s.forcedMerge c true).bump .forcedByDisplacement).releaseEarly c).counter k
      = ((s.forcedMerge c true).bump .forcedByDisplacement).counter k := (releaseEarly_spares _ c).counters k spared

/-- A displacement opens nothing. -/
theorem displace_contextsOpened (s : State) (c : Ix) : (s.displace c).counter .contextsOpened = s.counter .contextsOpened := by
  have forced : (((s.forcedMerge c true).bump .forcedByDisplacement).releaseEarly c).counter .contextsOpened
      = s.counter .contextsOpened := by
    rw [displaced_counter rfl, counter_bump, if_neg (by decide), forcedMerge_counter rfl (by decide)]
  unfold State.displace
  split
  · exact abandon_counter s c rfl (by decide)
  · exact forced
  · exact forced
  · exact (releaseEarly_spares s c).counters _ rfl
  · rfl

theorem displace_forced (h : (s.ctx c).state = .accumulated ∨ (s.ctx c).state = .merging) :
    s.counted (s.displace c) .forcedByDisplacement 1 := by
  rw [displace_summed h]
  unfold State.counted
  rw [displaced_counter rfl]
  exact counted_bump_of (forcedMerge_counter rfl (by decide))

theorem displace_abandoned (h : (s.ctx c).state = .assembling) : s.counted (s.displace c) .abandoned 1 := by
  rw [displace_assembling h]
  exact abandon_counted s c

/-- At a tail a displaced frame is counted LATE, by its cause, and is not applied (R29, R92). -/
theorem displace_late (h : (s.ctx c).state = .accumulated ∨ (s.ctx c).state = .merging) (tail : s.isTail = true) :
    s.counted (s.displace c) .lateFrames 1 ∧ s.raised (s.displace c) .lateFrame ∧ (s.displace c).lastApplied = s.lastApplied
      ∧ s.countedIf (s.displace c) (!(s.ctx c).hasFlag .deliveryDeadline) .lateByDisplacement
      ∧ s.countedIf (s.displace c) ((s.ctx c).hasFlag .deliveryDeadline) .lateByDeadline := by
  have finished := forcedMerge_finishes_late c tail
  obtain ⟨late, cause⟩ := finished.counted
  have kept (k : Counter) (spared : k.ofOpening = true) (other : k ≠ .forcedByDisplacement) :
      (s.displace c).counter k = (s.forcedMerge c true).counter k := by
    rw [displace_summed h, displaced_counter spared, counter_bump, if_neg other]
  refine ⟨?_, ?_, ?_, ?_⟩
  · unfold State.counted
    rw [kept _ rfl (by decide)]
    exact late
  · have eventFrames : ((s.forcedMerge c true).bump .forcedByDisplacement).counter .eventFrames
        = (s.forcedMerge c true).counter .eventFrames := by rw [counter_bump, if_neg (by decide)]
    have raised : s.raised ((s.forcedMerge c true).bump .forcedByDisplacement) .lateFrame := by
      unfold State.raised
      rw [eventFrames]
      exact finished.raised
    rw [displace_summed h]
    exact (releaseEarly_spares _ c).raised (eventFrames ▸ finished.reports) raised
  · rw [displace_summed h, ← (releaseEarly_moves _ c).frame .lastApplied (by decide)]
    exact finished.lastApplied
  · unfold State.countedIf
    rw [kept _ rfl (by decide), kept _ rfl (by decide)]
    unfold Context.lateCause at finished cause
    cases deadline : (s.ctx c).hasFlag .deliveryDeadline
    · rw [deadline] at finished cause
      exact ⟨cause, finished.counter rfl (by decide) (by decide)⟩
    · rw [deadline] at finished cause
      exact ⟨finished.counter rfl (by decide) (by decide), cause⟩

end

/-! ### A packet of a new tag that finds no context FREE (R24, R29) -/

theorem State.SameSwap.bankFor {s t : State} (h : s.SameSwap t) (g : Tag) : t.bankFor? g = s.bankFor? g := by
  have live : t.liveBank? = s.liveBank? := by
    unfold State.liveBank?
    simp only [h.live]
  have swap : t.swap? = s.swap? := by
    unfold State.swap?
    rw [h.mark, h.mark]
  unfold State.bankFor? State.reachedSwap?
  rw [live, swap]

theorem tagNewer_asymm {a b : Tag} (h : tagNewer a b = true) : tagNewer b a = false := by
  unfold tagNewer at *
  simp only [Bool.and_eq_true, decide_eq_true_eq, Bool.and_eq_false_iff, decide_eq_false_iff_not] at *
  bv_omega

/-- The older of two contexts is the one whose tag the other's is newer than (R29). -/
theorem olderCtx_eq {s : State} {c : Ix} (h : tagNewer (s.ctx c.other).tag (s.ctx c).tag = true) : s.olderCtx = c := by
  unfold State.olderCtx
  dsimp only
  cases c
  · exact if_pos h
  · have older : tagNewer (s.ctx .zero).tag (s.ctx .one).tag = true := h
    rw [if_neg (by rw [tagNewer_asymm older]; decide), if_pos older]

theorem openContext_displaces {s : State} {c : Ix} (g : Tag) (zero : (s.ctx .zero).state ≠ .free) (one : (s.ctx .one).state ≠ .free)
    (older : tagNewer (s.ctx c.other).tag (s.ctx c).tag = true) : s.openContext g = (c, (s.displace c).openAt c g) := by
  rw [openContext_eq]
  unfold State.chooseCtx
  rw [if_neg zero, if_neg one, olderCtx_eq older]

/-- With no context FREE, a packet of a new tag takes the older one's place (R24, R27, R29). -/
theorem packet_opens_displaced {s : State} {p b c : Ix} {h : List Byte}
    (unopened : ∀ k, (s.ctx k).isOpen = true → (s.ctx k).tag ≠ (headerDescriptor h).tag)
    (new : tagNewerThan (headerDescriptor h).tag s.frames.newestOpened = true)
    (bank : s.bankFor? (headerDescriptor h).tag = some b)
    (zero : (s.ctx .zero).state ≠ .free) (one : (s.ctx .one).state ≠ .free)
    (older : tagNewer (s.ctx c.other).tag (s.ctx c).tag = true) :
    ∃ t, s.resolvePacket p h = t ∧ (t.ctx c).state = .assembling ∧ (t.ctx c).tag = (headerDescriptor h).tag
      ∧ (t.ctx c).bank = b ∧ (t.ctx c).openTime = s.now ∧ (t.ctx c).heldCount.get p = 1
      ∧ t.frames.newestOpened = some (headerDescriptor h).tag ∧ s.counted t .contextsOpened 1
      ∧ ((s.ctx c).state = .assembling → s.counted t .abandoned 1)
      ∧ ((s.ctx c).state = .accumulated ∨ (s.ctx c).state = .merging → s.counted t .forcedByDisplacement 1) := by
  have reserved : (s.reserve p (headerDescriptor h).count).SameSwap
      ((s.reserve p (headerDescriptor h).count).displace c) := displace_sameSwap _ c
  have opens := openContext_displaces (s := s.reserve p (headerDescriptor h).count) (headerDescriptor h).tag zero one older
  have opened : ((s.reserve p (headerDescriptor h).count).displace c).Opened _ c (headerDescriptor h).tag b :=
    openAt_opened c ((reserved.bankFor _).trans bank)
  obtain ⟨t, received, state, tag, bank', time, held, _, _, newest, counters⟩ := received_in_opened opened p h
  have now : ((s.reserve p (headerDescriptor h).count).displace c).now = s.now :=
    (timebase_of_moves (displace_moves (s.reserve p (headerDescriptor h).count) c) :)
  have spared (k : Counter) (hk : k.ofOpening = true) (hc : k ≠ .contextsOpened) (hs : k ≠ .swaps) :
      t.counter k = ((s.reserve p (headerDescriptor h).count).displace c).counter k :=
    (counter_congr counters k).trans (opened.spared k hk hc hs)
  refine ⟨t, (resolvePacket_opens unopened new bank opens).trans received, state, tag, bank', time.trans now, held, newest,
    ?_, fun assembling => ?_, fun summed => ?_⟩
  · have counted := opened.opened
    unfold State.counted at *
    rw [counter_congr counters, counted, displace_contextsOpened]
    rfl
  · exact (spared _ rfl (by decide) (by decide)).trans (displace_abandoned (s := s.reserve p (headerDescriptor h).count) assembling)
  · exact (spared _ rfl (by decide) (by decide)).trans (displace_forced (s := s.reserve p (headerDescriptor h).count) summed)

/-- Settles O16: an opening through `State.Opened`, which packets and segments of a new tag bring about, and the displacement by the
state of the context displaced. -/
theorem openingRecordsTagBankAndTime : Obligations.OpeningRecordsTagBankAndTime := by
  refine ⟨fun s g b c first free bank => ?_, fun s p b c h d hd up idle good running least most inside room unopened new bank => ?_,
    fun s f g b c up lengths crc kind role decoded forms agrees unopened new bank first free =>
      segment_opens_context s f g b c up lengths crc kind role decoded forms agrees unopened new bank first free,
    fun s c => ⟨_, rfl, fun assembling => ?_, fun summed => ?_, fun done => ?_⟩⟩
  · obtain ⟨chosen, opened⟩ := openContext_records s g b c first free bank
    obtain ⟨state, tag, bank', label, scale, time, dAsm, dDel, asm, del, held, blank⟩ := opened.records
    refine ⟨chosen, _, rfl, state, tag, bank', label, scale, time, dAsm, dDel, asm, del, held, blank, opened.isCorrupt,
      opened.useCount, opened.live, opened.newest, opened.opened, ?_⟩
    cases reached : s.reachedSwap? g with
    | some k => exact opened.swapped k reached
    | none => exact opened.unswapped reached
  · subst hd
    have step : exec (.slopePacketHeader p h) s = .next (s.resolvePacket p h) := by
      rw [slopePacketHeader_eq h up idle, header_inRange good running ⟨least, most, inside⟩, if_neg (Nat.not_lt.mpr room)]
    refine ⟨fun first free => ?_, fun zero one older => ?_⟩
    · obtain ⟨t, resolved, opens⟩ := packet_opens_free (p := p) unopened new bank first free
      exact ⟨t, resolved ▸ step, opens⟩
    · obtain ⟨t, resolved, opens⟩ := packet_opens_displaced (p := p) unopened new bank zero one older
      exact ⟨t, resolved ▸ step, opens⟩
  · obtain ⟨freed, other⟩ := abandon_ctx assembling
    have kept := abandon_moves s c
    rw [displace_assembling assembling]
    exact ⟨freed, other, abandon_jobs s c, abandon_counted s c, abandon_raised s c, abandon_useCount assembling,
      (kept.frame .newestDelivered (by decide)).symm, (kept.frame .lastApplied (by decide)).symm, abandon_inFlight s c,
      (kept.frame .hold (by decide)).symm, abandon_realtime s c, fun k work => abandon_stops_job work,
      fun p d k work hd => abandon_stops_packet work hd⟩
  · refine ⟨?_, displace_forced summed, ?_, displace_late summed⟩
    · rw [displace_summed summed]
      exact releaseEarly_state _ c
    · rw [displace_summed summed]
      exact releaseEarly_inFlight _ c
  · obtain ⟨freed, other⟩ := releaseEarly_ctx (s := s) (c := c) (by rw [done]; decide)
    rw [displace_done done]
    refine ⟨freed, other, ((releaseEarly_moves s c).frame .newestDelivered (by decide)).symm,
      fun w inFlight hw => releaseEarly_drops inFlight hw, fun none => ?_⟩
    rw [releaseEarly_without_record none]
    exact ⟨State_release_telemetry s c, State_release_counters s c⟩

end Sys2Proof.Machine

/-! SUPPORT. The proofs of the statements about matrix banks and column accumulation (chapter 3): the requests of the Bank
Store, the ends of bursts, the column bursts, and what a command stores in the stacked DRAM. -/

namespace Sys2Proof.Machine

/-! ## Requests judged check by check (R183, R184) -/

theorem judge_nil (s : State) (r : Request) (f : State → State) : s.judge r [] f = f (s.bump .requestsAccepted) := rfl

section
variable (s : State) (r : Request) {c : Bool × Status} (rest : List (Bool × Status)) (f : State → State)

theorem judge_passed (passed : c.1 = true) : s.judge r (c :: rest) f = s.judge r rest f := by
  unfold State.judge
  rw [firstFailure, if_pos passed]

theorem judge_failed (failed : c.1 = false) : s.judge r (c :: rest) f = s.refuse r c.2 := by
  unfold State.judge
  rw [firstFailure, if_neg (by simp [failed])]

end

/-- A refused request is answered, and nothing of the banks changes (R183). -/
theorem refuse_answered (s : State) (r : Request) (st : Status) :
    s.answered (s.dequeue.refuse r st) r st none [] ∧ (s.dequeue.refuse r st).bankStore = s.bankStore :=
  ⟨answered_of (t := s.dequeue.bump .requestsRefused) (by simp [State.refuse]) rfl rfl rfl, by simp [State.refuse]⟩

/-- A request is answered DONE by a state that has changed neither queue nor trunk since it left the queue (R183). -/
theorem done_answered {s u : State} (r : Request) (body : List Byte) (mgmt : u.mgmt = s.dequeue.mgmt) (trunk : u.trunk = s.trunk)
    (node : u.nodeNumber = s.nodeNumber) : s.answered (u.done r body) r .done none body :=
  answered_of (by simp [State.done, mgmt]) rfl trunk node

/-- A request of form 0 with a body of its length goes to the bank that it names (R43, R47, R48). -/
theorem withBank_eq {s : State} {r : Request} {n : Nat} (f : Ix → State) (form : r.form = 0) (length : r.body.length = n) :
    s.withBank r [r.plain, r.bodyIs n] f = match r.bank? with
      | some b => f b
      | none => s.refuse r .badValue := by
  have passed : firstFailure [r.plain, r.bodyIs n] = none := by simp [firstFailure, Request.plain, Request.bodyIs, form, length]
  unfold State.withBank
  rw [passed]
  cases r.bank? <;> rfl

theorem not_inUse_iff (b : Bank) : (!b.inUse) = true ↔ ¬(b.state = .live ∨ 0 < b.useCount) := by simp [Bank.inUse]

/-- The banks that an answered request leaves. -/
theorem done_bank (s : State) (r : Request) (body : List Byte) (b : Ix) : (s.done r body).bank b = s.bank b :=
  bank_congr (congrArg BankStore.banks (State_respond_bankStore s r .done none body)) b

/-! ## BANK SETUP and RETIRE BANK (R43, R50) -/

theorem setupInRange_iff (r : Request) : r.setupInRange = true ↔
    2 ≤ r.field 2 2 ∧ r.field 2 2 ≤ 8192 ∧ r.field 2 2 % 2 = 0 ∧ 1 ≤ r.field 4 2 ∧ r.field 4 2 ≤ 6144 ∧ r.field 6 1 ≤ 24 := by
  simp only [Request.setupInRange, Bool.and_eq_true, decide_eq_true_eq, beq_iff_eq, and_assoc]
  rfl

theorem bankSetup_exec {s : State} {r : Request} (oldest : s.oldest? .bankSetup = some r) (form : r.form = 0)
    (length : r.body.length = 10) : exec .bankSetup s = .next (match r.bank? with
      | some b => s.dequeue.judge r
          [(r.setupInRange, .badValue), (!(s.bank b).inUse, .bankLive), ((s.bank b).swapMark.isNone, .swapPending)]
          fun t => (t.setBank b ((t.bank b).setUp r)).done r []
      | none => s.dequeue.refuse r .badValue) := by
  show execBankSetup s = _
  unfold execBankSetup
  rw [serve_eq _ oldest, State.setUpBank, withBank_eq _ form length]
  rfl

theorem retireBank_exec {s : State} {r : Request} (oldest : s.oldest? .retireBank = some r) (form : r.form = 0)
    (empty : r.body = []) : exec .retireBank s = .next (s.dequeue.judge r
      [(s.liveBank?.isSome && (!s.isTail || s.loop.state == .off), .wrongState)] fun t => t.retire.done r []) := by
  show execRetireBank s = _
  unfold execRetireBank
  rw [serve_eq _ oldest, State.retireBank, judge_passed _ _ _ _ (by simp [Request.plain, form]),
    judge_passed _ _ _ _ (by simp [Request.bodyIs, empty])]
  rfl

/-- Settles O53, check by check. -/
theorem bankSetupAndRetireBank : Obligations.BankSetupAndRetireBank := by
  intro s r form
  refine ⟨fun oldest length => ⟨_, bankSetup_exec oldest form length, ?_⟩,
    fun oldest empty => ⟨_, retireBank_exec oldest form empty, ?_⟩⟩
  · cases r.bank? with
    | none => exact refuse_answered s r .badValue
    | some b =>
      dsimp only
      split
      · next outside =>
        rw [judge_failed _ _ _ _ (by rw [← Bool.not_eq_true, setupInRange_iff]; exact outside)]
        exact refuse_answered s r .badValue
      · next inside =>
        rw [judge_passed _ _ _ _ ((setupInRange_iff r).mpr (not_not.mp inside))]
        split
        · next used =>
          rw [judge_failed _ _ _ _ (by rw [← Bool.not_eq_true, not_inUse_iff]; exact not_not_intro used)]
          exact refuse_answered s r .bankLive
        · next unused =>
          rw [judge_passed _ _ _ _ ((not_inUse_iff _).mpr unused)]
          split
          · next marked =>
            rw [judge_failed _ _ _ _ (by simpa using Option.isSome_iff_ne_none.mpr marked)]
            exact refuse_answered s r .swapPending
          · next unmarked =>
            rw [judge_passed _ _ _ _ (by simpa using unmarked), judge_nil, done_bank, done_bank, State_bank_setBank,
              State_bank_setBank_other]
            exact ⟨done_answered r [] rfl rfl rfl, rfl, rfl, rfl, rfl, rfl, fun _ _ => rfl, rfl, rfl⟩
  · cases live : s.liveBank? with
    | none =>
      rw [judge_failed _ _ _ _ (by simp)]
      exact refuse_answered s r .wrongState
    | some b =>
      dsimp only
      by_cases running : s.isTail = true ∧ s.loop.state ≠ .off
      · rw [judge_failed _ _ _ _ (by simp [running]), if_pos running]
        exact refuse_answered s r .wrongState
      · have retired : (s.dequeue.bump .requestsAccepted).retire
            = (s.dequeue.bump .requestsAccepted).setBank b { s.bank b with state := .ready } := by
          unfold State.retire
          rw [show (s.dequeue.bump .requestsAccepted).liveBank? = some b from live]
          rfl
        rw [judge_passed _ _ _ _ (by simpa [or_iff_not_imp_left] using running), judge_nil, retired, if_neg running,
          done_bank, done_bank, State_bank_setBank, State_bank_setBank_other]
        exact ⟨done_answered r [] rfl rfl rfl, rfl, rfl⟩

/-! ## SWAP BANK (R48) -/

theorem swap?_isNone_iff (s : State) : s.swap?.isNone = true ↔ (s.bank .zero).swapMark = none ∧ (s.bank .one).swapMark = none := by
  unfold State.swap?
  cases (s.bank .zero).swapMark <;> cases (s.bank .one).swapMark <;> simp

theorem shapeMatches_iff (s : State) (b : Bank) : s.shapeMatches b = true ↔
    ¬(b.nb ≠ (s.port .zero).config.slopeCount + (s.port .one).config.slopeCount ∨ b.ab ≠ s.params.actuators
      ∨ s.params.actuators = 0) := by
  simp [State.shapeMatches, State.slopeTotal, and_assoc]

theorem swapBank_exec {s : State} {r : Request} (oldest : s.oldest? .swapBank = some r) (form : r.form = 0)
    (length : r.body.length = 4) (target : r.field 1 1 ≤ 1) : exec .swapBank s = .next (match r.bank? with
      | some b => s.dequeue.judge r
          [((s.bank b).state == .ready, .wrongState), (s.swap?.isNone, .wrongState), (s.shapeMatches (s.bank b), .mismatch)]
          fun t => (t.setBank b { t.bank b with swapMark := some r.swapTarget }).done r []
      | none => s.dequeue.refuse r .badValue) := by
  show execSwapBank s = _
  unfold execSwapBank
  rw [serve_eq _ oldest, State.swapBank, withBank_eq _ form length]
  cases r.bank? with
  | none => rfl
  | some b =>
    dsimp only
    rw [judge_passed _ _ _ _ (by simpa using target)]
    rfl

/-- Settles O55, check by check. -/
theorem swapBankIsScheduledInTheOrderOfItsChecks : Obligations.SwapBankIsScheduledInTheOrderOfItsChecks := by
  intro s r oldest form length target
  refine ⟨_, swapBank_exec oldest form length target, ?_⟩
  cases r.bank? with
  | none => exact refuse_answered s r .badValue
  | some b =>
    dsimp only
    by_cases ready : (s.bank b).state = .ready
    · rw [judge_passed _ _ _ _ (by simpa using ready)]
      by_cases unmarked : (s.bank .zero).swapMark = none ∧ (s.bank .one).swapMark = none
      · rw [judge_passed _ _ _ _ ((swap?_isNone_iff s).mpr unmarked), if_neg (by simp [ready, unmarked])]
        by_cases fits : s.shapeMatches (s.bank b) = true
        · rw [judge_passed _ _ _ _ fits, if_neg ((shapeMatches_iff s _).mp fits), judge_nil, done_bank, done_bank,
            State_bank_setBank, State_bank_setBank_other]
          exact ⟨done_answered r [] rfl rfl rfl, rfl, rfl⟩
        · rw [judge_failed _ _ _ _ (by simpa using fits), if_pos (not_not.mp (mt (shapeMatches_iff s _).mpr fits))]
          exact refuse_answered s r .mismatch
      · rw [judge_failed _ _ _ _ (by rw [← Bool.not_eq_true, swap?_isNone_iff]; exact unmarked),
          if_pos (.inr (by rwa [← not_and_or]))]
        exact refuse_answered s r .wrongState
    · rw [judge_failed _ _ _ _ (by simpa using ready), if_pos (.inl ready)]
      exact refuse_answered s r .wrongState

/-! ## CLOSE BANK (R47) -/

theorem closeBank_exec {s : State} {r : Request} (oldest : s.oldest? .closeBank = some r) (form : r.form = 0)
    (length : r.body.length = 4) : exec .closeBank s = .next (match r.bank? with
      | some b => match (s.bank b).state with
        | .empty => s.dequeue.refuse r .wrongState
        | .loading =>
          if (s.bank b).unmarked.isEmpty then
            ((s.dequeue.bump .requestsAccepted).setBank b { s.bank b with state := .ready }).done r []
          else (s.dequeue.bump .requestsRefused).respond r .incomplete none (s.bank b).incompleteBody
        | .ready | .live => (s.dequeue.bump .requestsAccepted).done r []
      | none => s.dequeue.refuse r .badValue) := by
  show execCloseBank s = _
  unfold execCloseBank
  rw [serve_eq _ oldest, State.closeBank, withBank_eq _ form length]
  rfl

theorem mem_unmarked (b : Bank) (k : Nat × Nat) :
    k ∈ b.unmarked ↔ k.1 < b.nb ∧ k.2 < segmentCount b.ab ∧ b.covered k.1 k.2 = false := by
  obtain ⟨i, g⟩ := k
  simp [Bank.unmarked, Bank.places, and_assoc]

theorem unmarked_isEmpty_iff (b : Bank) : b.unmarked.isEmpty = true ↔
    ∀ i, i < b.nb → ∀ g, g < segmentCount b.ab → b.covered i g = true := by
  rw [List.isEmpty_iff, List.eq_nil_iff_forall_not_mem]
  constructor
  · intro none i hi g hg
    simpa [mem_unmarked, hi, hg] using none (i, g)
  · intro all k hk
    obtain ⟨hi, hg, unmarked⟩ := (mem_unmarked b k).mp hk
    simp [all _ hi _ hg] at unmarked

/-- The number of unmarked segments, column by column. -/
theorem length_unmarked (b : Bank) : b.unmarked.length = ((List.range b.nb).map (fun c =>
    (List.range (segmentCount b.ab)).countP (fun m => !b.covered c m))).sum := by
  unfold Bank.unmarked Bank.places
  rw [← List.countP_eq_length_filter, List.countP_flatMap]
  simp [Function.comp_def, List.countP_map]

/-- The places of a bank stand in column order and then in segment order. -/
theorem places_pairwise (b : Bank) : b.places.Pairwise (fun x y => x.1 < y.1 ∨ x.1 = y.1 ∧ x.2 < y.2) := by
  unfold Bank.places
  rw [List.pairwise_flatMap]
  refine ⟨fun i _ => ?_, List.pairwise_lt_range.imp fun before x hx y hy => ?_⟩
  · rw [List.pairwise_map]
    exact List.pairwise_lt_range.imp fun before => .inr ⟨rfl, before⟩
  · simp only [List.mem_map] at hx hy
    obtain ⟨g, -, rfl⟩ := hx
    obtain ⟨m, -, rfl⟩ := hy
    exact .inl before

/-- Before the first unmarked segment none is unmarked. -/
theorem unmarked_head_first {b : Bank} {k : Nat × Nat} {rest : List (Nat × Nat)} (h : b.unmarked = k :: rest) (c m : Nat)
    (hc : c < b.nb) (hm : m < segmentCount b.ab) (before : c < k.1 ∨ c = k.1 ∧ m < k.2) : b.covered c m = true := by
  by_contra unmarked
  have member : (c, m) ∈ b.unmarked := (mem_unmarked b (c, m)).mpr ⟨hc, hm, by simpa using unmarked⟩
  have order : b.unmarked.Pairwise (fun x y => x.1 < y.1 ∨ x.1 = y.1 ∧ x.2 < y.2) := (places_pairwise b).filter _
  rw [h] at member order
  rcases List.mem_cons.mp member with rfl | later
  · simp at before
  · have := List.rel_of_pairwise_cons order later
    dsimp only at this
    omega

/-- Settles O54, bank state by bank state. -/
theorem closeBankFollowsTheTable : Obligations.CloseBankFollowsTheTable := by
  intro s r oldest form length
  refine ⟨_, closeBank_exec oldest form length, ?_⟩
  cases r.bank? with
  | none => exact refuse_answered s r .badValue
  | some b =>
    have closed : s.answered ((s.dequeue.bump .requestsAccepted).done r []) r .done none []
        ∧ ((s.dequeue.bump .requestsAccepted).done r []).bankStore = s.bankStore :=
      ⟨done_answered r [] rfl rfl rfl, State_respond_bankStore _ _ _ _ _⟩
    dsimp only
    cases (s.bank b).state with
    | empty => exact refuse_answered s r .wrongState
    | ready => exact closed
    | live => exact closed
    | loading =>
      dsimp only
      cases list : (s.bank b).unmarked with
      | nil =>
        have all := (unmarked_isEmpty_iff (s.bank b)).mp (by rw [list]; rfl)
        rw [if_pos all, if_pos List.isEmpty_nil, done_bank, done_bank, State_bank_setBank, State_bank_setBank_other]
        exact ⟨done_answered r [] rfl rfl rfl, rfl, rfl⟩
      | cons k rest =>
        have notAll : ¬∀ i, i < (s.bank b).nb → ∀ g, g < segmentCount (s.bank b).ab → (s.bank b).covered i g = true :=
          mt (unmarked_isEmpty_iff (s.bank b)).mpr (by simp [list])
        obtain ⟨column, segment, unmarked⟩ := (mem_unmarked (s.bank b) k).mp (by simp [list])
        rw [if_neg notAll, if_neg (by simp)]
        refine ⟨State_respond_bankStore _ _ _ _ _, (s.bank b).unmarked.length, k.1, k.2, ?_, length_unmarked _, column, segment,
          unmarked, fun c m hm before => unmarked_head_first list c m (by omega) hm before, ?_⟩
        · have body : (s.bank b).incompleteBody = leBytes 4 (s.bank b).unmarked.length ++ placeBytes (k.1, k.2) := by
            simp [Bank.incompleteBody, list]
          rw [← body]
          exact answered_of (by simp) rfl rfl rfl
        · unfold Bank.header
          rw [list]
          exact ⟨_, unstated .swapMark (swapOrdinal (s.bank b).swapMark) ++ word (s.bank b).useCount, List.append_assoc _ _ _⟩

end Sys2Proof.Machine

namespace Sys2Proof.Machine

/-! ## What other work leaves of a checked read

The end of a DRAM burst is judged by the counters that only such ends count, by the events that it raises, by the latched fatal
events and by the column-fetch queue. The grant and the work that follow, from the next slope to the finishing of a frame, leave them
alone: `State.SparesReads` says so once, and each shared operation has one lemma. -/

/-- The counters that only the ends of DRAM bursts count (R39, R60, R158, R179, R181). -/
def Counter.ofReads : Counter → Bool
  | .loadsWritten | .readbacks | .correctedBank | .correctedTelemetry | .correctedPoke | .uncorrectableColumn
  | .uncorrectablePoke | .uncorrectableTelemetry | .uncorrectableReadback | .recordReadbackErrors | .recordsRead
  | .mediaDiscarded => true
  | _ => false

/-- `t` comes from `s` by work that counts none of the counters of a read, takes no event out of pending but into an EVENT frame and
no fatal one at all, and lets no burst join the column-fetch queue. -/
structure State.SparesReads (s t : State) : Prop where
  counters : ∀ k : Counter, k.ofReads = true → t.counter k = s.counter k
  pending : ∀ e, s.isPending e = true → s.raised t e
  latched : ∀ e, hasEvent fatalSet e = true → s.isPending e = true → t.isPending e = true
  reports : min (s.counter .eventFrames) Config.counterMax ≤ t.counter .eventFrames
  columns : ∀ x ∈ t.arbiter.columnFetch, x ∈ s.arbiter.columnFetch

/-- An event that has been raised stays raised (R190, R191). -/
theorem State.SparesReads.raised {s u t : State} {e : Event} (k : u.SparesReads t)
    (before : min (s.counter .eventFrames) Config.counterMax ≤ u.counter .eventFrames) (h : s.raised u e) : s.raised t e := by
  have reports := k.reports
  have later := k.pending e
  unfold State.raised at h later ⊢
  rcases h with pending | reported
  · rcases later pending with pending | reported
    · exact .inl pending
    · right; omega
  · right; omega

theorem State.SparesReads.trans {s u t : State} (h : s.SparesReads u) (k : u.SparesReads t) : s.SparesReads t :=
  ⟨fun c hc => (k.counters c hc).trans (h.counters c hc), fun e he => k.raised h.reports (h.pending e he),
    fun e fatal he => k.latched e fatal (h.latched e fatal he), by have := h.reports; have := k.reports; omega,
    fun x hx => h.columns x (k.columns x hx)⟩

/-- The last work of a chain, taken first. -/
theorem State.SparesReads.after {s u t : State} (k : u.SparesReads t) (h : s.SparesReads u) : s.SparesReads t := h.trans k

/-- Work that leaves the pending events and the column-fetch queue and counts none of these counters. -/
theorem State.SparesReads.of_counts {s t : State} (events : t.events.pending = s.events.pending)
    (columns : t.arbiter.columnFetch = s.arbiter.columnFetch)
    (counters : ∀ k : Counter, k.ofReads = true ∨ k = .eventFrames → t.counter k = s.counter k) : s.SparesReads t :=
  have pending : ∀ e, s.isPending e = true → t.isPending e = true := fun e he => by unfold State.isPending at *; rwa [events]
  ⟨fun k hk => counters k (.inl hk), fun e he => .inl (pending e he), fun e _ he => pending e he,
    by rw [counters _ (.inr rfl)]; exact Nat.min_le_left _ _, fun _ hx => columns ▸ hx⟩

theorem State.SparesReads.of_same {s t : State} (events : t.events.pending = s.events.pending)
    (columns : t.arbiter.columnFetch = s.arbiter.columnFetch) (counters : t.counters = s.counters) : s.SparesReads t :=
  .of_counts events columns fun k _ => counter_congr counters k

theorem State.SparesReads.refl (s : State) : s.SparesReads s := .of_same rfl rfl rfl

/-- A move of parts that hold none of these. -/
theorem Moves.sparesReads {ps : List Part} {s t : State} (h : Moves ps s t)
    (kept : Part.counters ∉ ps ∧ Part.events ∉ ps ∧ Part.arbiter ∉ ps := by decide) : s.SparesReads t :=
  have ⟨counters, events, arbiter⟩ := kept
  .of_same (pending_of_moves h events) (congrArg Arbiter.columnFetch (h.frame .arbiter arbiter).symm)
    (h.frame .counters counters).symm

/-- A move that counts, but none of these counters. -/
theorem Moves.sparesReads_of_counts {ps : List Part} {s t : State} (h : Moves ps s t)
    (counters : ∀ k : Counter, k.ofReads = true ∨ k = .eventFrames → t.counter k = s.counter k)
    (kept : Part.events ∉ ps ∧ Part.arbiter ∉ ps := by decide) : s.SparesReads t :=
  .of_counts (pending_of_moves h kept.1) (congrArg Arbiter.columnFetch (h.frame .arbiter kept.2).symm) counters

/-- A counter that is not one of a read, nor that of the EVENT frames. -/
abbrev Counter.isBeside (c : Counter) : Prop := c.ofReads = false ∧ c ≠ .eventFrames

theorem Counter.isBeside.ne {k c : Counter} (hc : c.isBeside) (h : k.ofReads = true ∨ k = .eventFrames) : k ≠ c := by
  rintro rfl
  rcases h with h | h
  · exact absurd (h.symm.trans hc.1) (by decide)
  · exact hc.2 h

section
variable (s : State)

theorem bumpBy_sparesReads (c : Counter) (n : Nat) (hc : c.isBeside := by decide) : s.SparesReads (s.bumpBy c n) :=
  (bumpBy_moves s c n).sparesReads_of_counts fun k hk => by rw [counter_bumpBy, if_neg (hc.ne hk)]

theorem bump_sparesReads (c : Counter) (hc : c.isBeside := by decide) : s.SparesReads (s.bump c) := bumpBy_sparesReads s c 1 hc

theorem bumpIf_sparesReads (b : Bool) (c : Counter) (hc : c.isBeside := by decide) : s.SparesReads (s.bumpIf b c) := by
  cases b
  · exact .refl s
  · exact bump_sparesReads s c hc

theorem placeControl_sparesReads (f : ToFrame) : s.SparesReads (s.placeControl f) :=
  (placeControl_moves s f).sparesReads_of_counts fun _ hk => counter_placeControl s f (Counter.isBeside.ne (by decide) hk)

theorem respond_sparesReads (r : Request) (st : Status) (e : Option Tag) (b : List Byte) : s.SparesReads (s.respond r st e b) :=
  placeControl_sparesReads s _

theorem placeRealtime_sparesReads (b : List Byte) : s.SparesReads (s.placeRealtime b) :=
  (placeRealtime_moves s b).sparesReads_of_counts fun _ hk => counter_placeRealtime s b (Counter.isBeside.ne (by decide) hk)

/-! ### Events (R190, R191) -/

theorem reportTest_sparesReads : s.SparesReads s.reportTest where
  counters k hk := counter_reportTest s (Counter.isBeside.ne (by decide) (.inl hk)) (fun h => absurd (h ▸ hk) (by decide))
  pending := (reportTest_spares s).pending
  latched e fatal he := by
    rcases isPending_reportTest s e with kept | ⟨transient, _⟩
    · exact kept.trans he
    · exact absurd (fatal.symm.trans transient) (by decide)
  reports := counter_eventFrames_reportTest s
  columns x hx := by simpa using hx

theorem triggerCapture_sparesReads (e : Event) : s.SparesReads (s.triggerCapture e) where
  counters k hk := counter_triggerCapture s e (Counter.isBeside.ne (by decide) (.inl hk))
  pending f hf := .inl (isPending_triggerCapture s e f hf)
  latched f _ hf := isPending_triggerCapture s e f hf
  reports := (triggerCapture_spares s e).reports
  columns x hx := by simpa using hx

theorem isPending_setPending (e f : Event) : (s.setPending e).isPending f = (s.isPending f || f == e) := by
  simp [State.isPending, State.setPending, hasEvent_or, hasEvent_single]

theorem setPending_sparesReads (e : Event) : s.SparesReads (s.setPending e) where
  counters _ _ := rfl
  pending := (setPending_spares s e).pending
  latched f _ hf := by rw [isPending_setPending, hf]; rfl
  reports := Nat.min_le_left _ _
  columns _ hx := hx

theorem raise_sparesReads (e : Event) : s.SparesReads (s.raise e) := by
  unfold State.raise
  dsimp only
  refine (reportTest_sparesReads _).after ?_
  split
  · exact setPending_sparesReads s e
  · exact (triggerCapture_sparesReads _ e).after
      ((joinLaterCauses_moves _ e).sparesReads.after (setPending_sparesReads s e))

/-! ### Bursts, releases and records (R23, R58, R173 to R176) -/

theorem withdraw_sparesReads (p : BurstJob → Bool) : s.SparesReads (s.withdraw p) where
  counters _ _ := rfl
  pending _ he := .inl he
  latched _ _ he := he
  reports := Nat.min_le_left _ _
  columns _ hx := (List.mem_filter.mp hx).1

/-- The next burst in progress has left its queue, and no burst has joined one (R58). -/
theorem completed_columnFetch (a : Arbiter) : ∀ x ∈ a.completed.columnFetch, x ∈ a.columnFetch := by
  obtain ⟨column, poke, write, read, management, busy⟩ := a
  intro x hx
  unfold Arbiter.completed at hx
  split at hx
  all_goals simp_all

theorem grantDram_sparesReads : s.SparesReads s.grantDram where
  counters k _ := counter_congr (State_grantDram_counters s) k
  pending e he := .inl (by unfold State.isPending at *; rwa [State_grantDram_events])
  latched e _ he := by unfold State.isPending at *; rwa [State_grantDram_events]
  reports := by rw [counter_congr (State_grantDram_counters s)]; exact Nat.min_le_left _ _
  columns x hx := by
    rw [arbiter_grantDram] at hx
    split at hx
    · exact hx
    · exact completed_columnFetch _ x hx

/-- Bursts of other requesters join their queues (R57). -/
theorem queueBursts_sparesReads (bs : List Burst) (others : ∀ b ∈ bs, b.job.isColumn = false) :
    s.SparesReads (s.queueBursts bs) := by
  have pushed : ∀ (bs : List Burst) (a : Arbiter), (∀ b ∈ bs, b.job.isColumn = false) →
      (bs.foldl Arbiter.push a).columnFetch = a.columnFetch := by
    intro bs
    induction bs with
    | nil => exact fun _ _ => rfl
    | cons b bs ih =>
      intro a others
      have first : (a.push b).columnFetch = a.columnFetch := by
        have := others b (by simp)
        unfold Arbiter.push
        cases hj : b.job <;> simp [hj, BurstJob.isColumn] at this ⊢
      exact (ih _ fun x hx => others x (by simp [hx])).trans first
  exact (grantDram_sparesReads _).after (.of_same rfl (pushed bs s.arbiter others) rfl)

theorem readBursts_job (job : BurstJob) (places : List (Nat × Nat)) : ∀ b ∈ readBursts job places, b.job = job := by
  induction places with
  | nil => simp [readBursts]
  | cons k rest ih => cases rest <;> simp_all [readBursts]

theorem writeBursts_job (job : BurstJob) (places : List (Nat × List Byte)) : ∀ b ∈ writeBursts job places, b.job = job := by
  induction places with
  | nil => simp [writeBursts]
  | cons k rest ih => cases rest <;> simp_all [writeBursts]

theorem withdrawRecord_sparesReads : s.SparesReads s.withdrawRecord := by
  unfold State.withdrawRecord
  split
  · exact .refl s
  · exact (release_moves _ _).sparesReads.after ((withdraw_sparesReads s BurstJob.isTelemetryWrite).trans (.of_same rfl rfl rfl))

theorem dropRecord_sparesReads : s.SparesReads s.dropRecord := by
  unfold State.dropRecord
  split
  · exact (bump_sparesReads _ .telemetryDropped).after (withdrawRecord_sparesReads s)
  · exact .refl s

theorem beginRecord_sparesReads (c : Ix) (n : BitVec 32) : s.SparesReads (s.beginRecord c n) := by
  unfold State.beginRecord
  dsimp only
  split
  · exact (release_moves _ c).sparesReads.after ((bump_sparesReads _ .refusedFull).after
      ((raise_sparesReads _ .telemetryFull).after (.of_same rfl rfl rfl)))
  · exact (queueBursts_sparesReads _ _ fun b hb => by rw [writeBursts_job _ _ b hb]; rfl).after (.of_same rfl rfl rfl)

theorem offer_sparesReads (c : Ix) : s.SparesReads (s.offer c) := by
  unfold State.offer
  dsimp only
  split
  · split
    · exact (beginRecord_sparesReads _ c _).after ((dropRecord_sparesReads _).after (.of_same rfl rfl rfl))
    · exact (release_moves _ c).sparesReads.after (.of_same rfl rfl rfl)
  · exact (release_moves s c).sparesReads

theorem contextDone_sparesReads (c : Ix) : s.SparesReads (s.contextDone c) := by
  unfold State.contextDone
  dsimp only
  refine (offer_sparesReads _ c).after ?_
  split
  · exact .of_same rfl rfl rfl
  · exact (bump_sparesReads _ .outOfOrderDeliveries).after (setCtx_moves s c _).sparesReads

/-! ### Drains, the Poke Engine and the entry to SAFE (R118, R144, R163) -/

theorem drainEntries_sparesReads {α : Type} {apply : State → α → State} (h : ∀ (s : State) (w : α), s.SparesReads (apply s w))
    (e : Option Tag) (es : List (StagedEntry α)) : s.SparesReads (State.drainEntries apply e s es) := by
  induction es generalizing s with
  | nil => exact .refl s
  | cons x es ih =>
    exact (ih _).after ((bump_sparesReads _ .stagedDrained).after
      ((respond_sparesReads _ x.request .done e []).after (h s x.write)))

theorem applyActuator_sparesReads (w : ActuatorWrite) : s.SparesReads (s.applyActuator w) :=
  .of_counts (congrArg Events.pending (applyActuator_frame s w .events (by decide))).symm
    (congrArg Arbiter.columnFetch (applyActuator_frame s w .arbiter (by decide))).symm
    fun _ hk => counter_applyActuator s w (Counter.isBeside.ne (by decide) hk)

theorem drainActuator_sparesReads (e : Option Tag) : s.SparesReads (s.drainActuator e) := by
  have drained : s.SparesReads (State.drainEntries State.applyActuator e { s with mgmt := { s.mgmt with actuatorQueue := [] } }
      s.mgmt.actuatorQueue) :=
    (drainEntries_sparesReads _ applyActuator_sparesReads e _).after (emptyActuatorQueue_moves s).sparesReads
  unfold State.drainActuator
  dsimp only
  split
  · exact (recomputeClasses_moves _).sparesReads.after drained
  · exact drained

theorem pokeIdle_sparesReads : s.SparesReads s.pokeIdle :=
  (withdraw_sparesReads _ BurstJob.isPoke).after (poke_moves s none).sparesReads

theorem endRecord_sparesReads (e : PokeRun) (r : PokeRecord) : s.SparesReads (s.endRecord e r) := by
  have ended : s.SparesReads (s.bump .recordsCompleted) := bump_sparesReads s .recordsCompleted
  unfold State.endRecord
  dsimp only
  split
  · exact (raise_sparesReads _ .pokeDone).after ((bump_sparesReads _ .sequencesDone).after ((pokeIdle_sparesReads _).after ended))
  · split
    · exact (poke_moves _ _).sparesReads.after ended
    · exact (queueBursts_sparesReads _ _ fun b hb => by rw [readBursts_job _ _ b hb]; rfl).after
        ((poke_moves _ _).sparesReads.after ended)

theorem pokeStep_sparesReads : s.SparesReads s.pokeStep.2.2 := by
  unfold State.pokeStep
  split
  · exact .refl s
  · split
    · exact bump_sparesReads s .withheldFrames
    · dsimp only
      split
      · exact (poke_moves s _).sparesReads
      · split
        · exact (poke_moves s _).sparesReads
        · exact endRecord_sparesReads s _ _

theorem handToMirror_sparesReads (f : MlFrame) : s.SparesReads (s.handToMirror f) := by
  unfold State.handToMirror
  split
  · exact bump_sparesReads s .unsent
  · split
    · exact .of_same rfl rfl rfl
    · exact (bumpIf_sparesReads s s.mirror.waiting.isSome .superseded).trans (.of_same rfl rfl rfl)

theorem abortPoke_sparesReads : s.SparesReads s.abortPoke := by
  unfold State.abortPoke
  split
  · exact (reportTest_sparesReads _).after ((bump_sparesReads _ .sequencesAborted).after (pokeIdle_sparesReads s))
  · exact .refl s

theorem enterSafe_sparesReads (k : SafeCause) : s.SparesReads (s.enterSafe k) := by
  unfold State.enterSafe
  dsimp only
  split
  · have safe : s.SparesReads { s.fillSnapshot k with loop := { (s.fillSnapshot k).loop with state := .safe }, safeOut := true } :=
      (fillSnapshot_moves s k).sparesReads.trans (.of_same rfl rfl rfl)
    have counted := (raise_sparesReads _ .loopSafe).after ((bump_sparesReads _ .safeEntries).after safe)
    have drained := (drainActuator_sparesReads _ none).after ((abortPoke_sparesReads _).after counted)
    refine State.SparesReads.after (handToMirror_sparesReads _ _) ?_
    exact drained.trans (.of_same rfl rfl rfl)
  · exact .refl s

theorem report_sparesReads (bad applied : Bool) (clamps : Nat) : s.SparesReads (s.report bad applied clamps) := by
  unfold State.report
  dsimp only
  generalize hu : ({ s with loop := { s.loop with
    lastFinish := some s.now
    starvation := if s.loop.state.applies then some s.now else s.loop.starvation } } : State) = u
  have counted : s.SparesReads ((u.countBad bad applied).countSaturation applied clamps) :=
    (countSaturation_moves _ applied clamps).sparesReads.after ((countBad_moves u bad applied).sparesReads.after
      (by subst hu; exact .of_same rfl rfl rfl))
  split
  · exact (enterSafe_sparesReads _ .badFrames).after counted
  · split
    · exact (enterSafe_sparesReads _ .saturation).after counted
    · exact counted

/-! ### The pipeline of an applied frame (R121) -/

theorem formValues_sparesReads (c : Ix) (closed : Bool) : s.SparesReads (s.formValues c closed).2.2 := by
  have updated : s.SparesReads (if closed then s.closedUpdate c else (s, 0)).1 := by
    split
    · exact (setCtx_moves _ c _).sparesReads.after ((bumpBy_sparesReads _ .antiWindupClamps _).after
        ((bump_sparesReads _ .closedUpdates).after (.of_same rfl rfl rfl)))
    · exact .refl s
  unfold State.formValues
  dsimp only
  exact (bumpBy_sparesReads _ .unslaved _).after ((bumpBy_sparesReads _ .slaveParked _).after
    (updated.trans (.of_same rfl rfl rfl)))

theorem countPass_sparesReads (c : Ix) (p : Pass) (n : Nat) : s.SparesReads (s.countPass c p n) := by
  unfold State.countPass
  exact (setCtx_moves _ c _).sparesReads.after ((bumpBy_sparesReads _ .outputClamps _).after
    ((bumpBy_sparesReads _ .unresolvedPairs _).after ((bumpBy_sparesReads _ .limitedPairs _).after
      ((bumpBy_sparesReads _ .deadPairs _).after ((bumpBy_sparesReads _ .pairsOutOfRange _).after
        (bumpBy_sparesReads s .pokeIgnored _))))))

theorem pipeline_sparesReads (c : Ix) : s.SparesReads (s.pipeline c).1 := by
  unfold State.pipeline
  dsimp only
  refine (handToMirror_sparesReads _ _).after ((bump_sparesReads _ .commandsBuilt).after
    ((setCtx_moves _ c _).sparesReads.after ?_))
  exact (lastOutputs_moves _ _).sparesReads.after ((countPass_sparesReads _ c _ _).after ((pokeStep_sparesReads _).after
    ((formValues_sparesReads _ c _).after (drainActuator_sparesReads s _))))

/-! ### Merging and finishing (R82, R85 to R87, R91, R92) -/

theorem placeMerged_sparesReads (c : Ix) (g : Segment) : s.SparesReads (s.placeMerged c g) := by
  unfold State.placeMerged
  dsimp only
  split
  · exact (setCtx_moves s c _).sparesReads
  · exact (placeRealtime_sparesReads _ _).after (setCtx_moves s c _).sparesReads

theorem mergeOne_sparesReads (c : Ix) (g : Segment) : s.SparesReads (s.mergeOne c g) := by
  unfold State.mergeOne
  refine (placeMerged_sparesReads _ c _).after ?_
  cases s.mergeCase (s.ctx c) g with
  | corrupt => exact .refl s
  | ownBitPresent => exact bump_sparesReads s .ownBitPresent
  | mixed => exact bump_sparesReads s .mixedSegments
  | contributes => exact bump_sparesReads s .contributingMerges

theorem mergeStored_sparesReads (c : Ix) (is : List Nat) : s.SparesReads (s.mergeStored c is) := by
  induction is generalizing s with
  | nil => exact .refl s
  | cons i is ih =>
    unfold State.mergeStored
    split
    · exact (ih _).after (mergeOne_sparesReads s c _)
    · exact ih s

theorem mergeAllStored_sparesReads (c : Ix) : s.SparesReads (s.mergeAllStored c) :=
  (mergeStored_sparesReads _ c _).after (setCtx_moves s c _).sparesReads

theorem makeMissing_sparesReads (c : Ix) (is : List Nat) : s.SparesReads (s.makeMissing c is) := by
  induction is generalizing s with
  | nil => exact .refl s
  | cons i is ih =>
    unfold State.makeMissing
    split
    · exact (ih _).after ((placeMerged_sparesReads _ c _).after (bump_sparesReads s .forcedSegments))
    · exact ih s

theorem buildHead_sparesReads (c : Ix) (is : List Nat) : s.SparesReads (s.buildHead c is) := by
  induction is generalizing s with
  | nil => exact .refl s
  | cons i is ih => exact (ih _).after (placeMerged_sparesReads s c _)

theorem countVerdict_sparesReads (v : Verdict) : s.SparesReads (s.countVerdict v) := by
  have late (k : Counter) (hk : k.isBeside) : s.SparesReads (((s.bump .lateFrames).bump k).raise .lateFrame) :=
    (raise_sparesReads _ .lateFrame).after ((bump_sparesReads _ k hk).after (bump_sparesReads s .lateFrames))
  cases v with
  | lateByDeadline => exact late _ (by decide)
  | lateByDisplacement => exact late _ (by decide)
  | lateByTag => exact late _ (by decide)
  | incomplete => exact (raise_sparesReads _ .incompleteFrame).after (bump_sparesReads s .incompleteFrames)
  | good => exact bump_sparesReads s .goodFrames

theorem computeResiduals_sparesReads (c : Ix) (v : List Int) : s.SparesReads (s.computeResiduals c v) :=
  (bumpIf_sparesReads _ _ .residualSaturatedFrames).after
    ((bump_sparesReads _ .residualsComputed).after (setCtx_moves s c _).sparesReads)

theorem finish_sparesReads (c : Ix) (displaced : Bool) : s.SparesReads (s.finish c displaced) := by
  unfold State.finish
  dsimp only
  refine (contextDone_sparesReads _ c).after ((report_sparesReads _ _ _ _).after ?_)
  have classed : s.SparesReads ((s.soloMasks c).noteFinish c (s.verdict c displaced).cls) :=
    (setCtx_moves _ c _).sparesReads.after (soloMasks_moves s c).sparesReads
  have summed := (computeResiduals_sparesReads _ c ((s.heldSegments c).flatMap Segment.sums)).after
    ((countVerdict_sparesReads _ (s.verdict c displaced)).after classed)
  split
  · refine State.SparesReads.after (pipeline_sparesReads _ c) ?_
    exact summed.trans (.of_same rfl rfl rfl)
  · exact summed

theorem complete_sparesReads (c : Ix) (displaced : Bool) : s.SparesReads (s.complete c displaced) := by
  unfold State.complete
  split
  · exact finish_sparesReads s c displaced
  · exact contextDone_sparesReads s c

theorem forcedMerge_sparesReads (c : Ix) (displaced : Bool) : s.SparesReads (s.forcedMerge c displaced) := by
  have made := (complete_sparesReads _ c displaced).after
    ((makeMissing_sparesReads _ c (List.range s.segments)).after (mergeAllStored_sparesReads s c))
  unfold State.forcedMerge
  split
  · exact finish_sparesReads s c displaced
  · exact (contextDone_sparesReads _ c).after (buildHead_sparesReads s c _)
  · exact made
  · exact made

theorem accumulated_sparesReads (c : Ix) : s.SparesReads (s.accumulated c) := by
  have merged (u : State) : u.SparesReads (if (u.ctx c).deliveryPending then u.forcedMerge c false else
      if (u.mergeAllStored c).allMerged c then (u.mergeAllStored c).complete c false else u.mergeAllStored c) := by
    split
    · exact forcedMerge_sparesReads u c false
    · split
      · exact (complete_sparesReads _ c false).after (mergeAllStored_sparesReads u c)
      · exact mergeAllStored_sparesReads u c
  have entered := (setCtx_moves s c { s.ctx c with state := .accumulated, job := .ended }).sparesReads
  unfold State.accumulated
  generalize s.setCtx c { s.ctx c with state := .accumulated, job := .ended } = u at entered ⊢
  refine entered.trans ?_
  unfold State.afterAccumulated
  split
  · exact finish_sparesReads _ c false
  · exact (contextDone_sparesReads _ c).after (buildHead_sparesReads _ c _)
  · exact merged _
  · exact merged _

/-! ### The Column Engine (R13, R15, R17) -/

theorem releasePacket_sparesReads (p : Ix) (d : Descriptor) : s.SparesReads (s.releasePacket p d) := by
  obtain ⟨-, -, -, arbiter, events, counters⟩ := releasePacket_spec s p d
  exact .of_counts (congrArg Events.pending events) (congrArg Arbiter.columnFetch arbiter)
    fun k hk => counters k (Counter.isBeside.ne (by decide) hk)

theorem treatSlope_sparesReads (p : Ix) (d : Descriptor) (k : Nat) : s.SparesReads (s.treatSlope p d k).2 := by
  unfold State.treatSlope
  dsimp only
  split
  · exact .refl s
  · split
    · exact bump_sparesReads s (.port p .duplicates) ⟨rfl, by simp⟩
    · unfold State.acceptSlope
      dsimp only
      exact ((setCtx_moves s d.ctx _).sparesReads.trans (bumpIf_sparesReads _ _ (.port p .clamped) ⟨rfl, by simp⟩)).trans
        (.of_same rfl rfl rfl)

theorem substitute_sparesReads (c : Ix) (i : Nat) : s.SparesReads (s.substitute c i).2 := by
  have moved (x : Context) (k : PortCounter) : s.SparesReads ((s.setCtx c x).bump (.port (s.ownerOf i) k)) :=
    (bump_sparesReads _ _ ⟨rfl, by simp⟩).after (setCtx_moves s c x).sparesReads
  unfold State.substitute
  dsimp only
  split
  · exact moved _ _
  · exact (moved _ _).trans (.of_same rfl rfl rfl)
  · exact moved _ _

end

end Sys2Proof.Machine

namespace Sys2Proof.Machine

/-! ## The burst that the DRAM completes (R39, R57, R58) -/

/-- The state in which the upsets of a command have struck and the DRAM has completed its burst. -/
def State.burstEnded (s : State) (ks : List Strike) : State := (s.strike ks).setArbiter { s.arbiter with inProgress := none }

theorem takeBurst_eq {s : State} {b : Burst} {p : Burst → Bool} (busy : s.arbiter.inProgress = some b) (hp : p b = true) :
    s.takeBurst p = some (b, s.setArbiter { s.arbiter with inProgress := none }) := by
  unfold State.takeBurst
  rw [busy]
  exact if_pos hp

theorem takeBurst_struck {s : State} {b : Burst} {p : Burst → Bool} (ks : List Strike) (busy : s.arbiter.inProgress = some b)
    (hp : p b = true) : (s.strike ks).takeBurst p = some (b, s.burstEnded ks) := takeBurst_eq (s := s.strike ks) busy hp

/-- Where the DRAM has completed its burst, the next one is granted (R58). -/
theorem grantDram_arbiter {s u : State} (ended : u.arbiter = { s.arbiter with inProgress := none }) :
    u.grantDram.arbiter = s.arbiter.completed := by
  rw [arbiter_grantDram, ended]
  exact completed_idle s.arbiter none

/-- The request in execution is granted its burst and otherwise stays (R183, R188). -/
theorem grantDram_held (s : State) :
    s.grantDram.mgmt.executing.map (fun e => (e.request, e.transfer)) = s.mgmt.executing.map (fun e => (e.request, e.transfer))
    ∧ s.grantDram.mgmt.queue = s.mgmt.queue := by
  have begun (t : State) : t.markBegun.mgmt.executing.map (fun e => (e.request, e.transfer))
        = t.mgmt.executing.map (fun e => (e.request, e.transfer)) ∧ t.markBegun.mgmt.queue = t.mgmt.queue := by
    simp [State.markBegun, Function.comp_def]
  unfold State.grantDram
  split
  · exact ⟨rfl, rfl⟩
  · split
    · exact ⟨rfl, rfl⟩
    · unfold State.beginBurst
      split
      · rw [State_beginLoad_mgmt]; exact begun _
      · exact begun _
      · exact begun _
      · exact begun _
      · exact begun _
      · exact ⟨rfl, rfl⟩

/-- A grant leaves the coverage maps (R45, R58). -/
theorem grantDram_coverage (s : State) (k : Ix) : (s.grantDram.bank k).coverage = (s.bank k).coverage := by
  have loads (t : State) : (t.beginLoad.bank k).coverage = (t.bank k).coverage := by
    unfold State.beginLoad
    split
    · next x _ _ _ _ =>
      split
      · rcases ix_eq_or_other x k with rfl | rfl <;> simp
      · rfl
    · rfl
  unfold State.grantDram
  split
  · rfl
  · split
    · rfl
    · unfold State.beginBurst
      split
      · exact loads _
      all_goals rfl

/-! ## A write burst (R39, R45, R158, R174) -/

theorem storeBurst_eq (s : State) {b : Burst} (carries : b.data ≠ []) : s.storeBurst b = s.dramWrite b.address b.data :=
  if_neg (by simpa using carries)

theorem dramWrite_read (s : State) (a : Nat) (bytes : List Byte) (x : Nat) (inside : x < bytes.length) :
    (s.dramWrite a bytes).dram.memory.read? (a + x) = bytes[x]? := by
  show (s.dram.memory.writeRun a bytes).read? (a + x) = _
  rw [Memory_read_writeRun, dif_pos (by omega), List.getElem?_eq_getElem inside]
  simp

/-- The codewords that a write replaces hold no error (R39). -/
theorem dramWrite_clean (s : State) (a : Nat) (bytes : List Byte) (w : Nat) (member : w ∈ codewordsOf a bytes.length) :
    (s.dramWrite a bytes).dram.errors.get w = .clean := by
  have cleaned : ∀ (ws : List Nat) (t : Table CodewordState.clean), (w ∈ ws ∨ t.get w = .clean) →
      (ws.foldl (fun t k => t.set k .clean) t).get w = .clean := by
    intro ws
    induction ws with
    | nil => simp
    | cons k ws ih =>
      intro t h
      refine ih _ ?_
      rw [Table_get_set]
      by_cases first : w = k
      · simp [first]
      · simpa [first] using h
  exact cleaned _ _ (.inl member)

/-! ## A column load (R40, R45) -/

/-- The marks of a run of segments of a column, for the segments that a column has. -/
theorem covered_markSegments (k : Bank) (i g n : Nat) (fits : g + n ≤ 12) (c m : Nat) (hm : m < 12) :
    ({ k with coverage := markSegments k.coverage i g n } : Bank).covered c m
      = (k.covered c m || (c == i && g ≤ m && m < g + n)) := by
  show (k.coverage.setRun (12 * i + g) (List.replicate n true)).get (12 * c + m) = _
  rw [Table_get_setRun]
  by_cases here : c = i ∧ g ≤ m ∧ m < g + n
  · obtain ⟨rfl, above, below⟩ := here
    rw [dif_pos (by simp only [List.length_replicate]; omega)]
    simp [above, below]
  · rw [dif_neg (by simp only [List.length_replicate]; omega)]
    have outside : (c == i && g ≤ m && m < g + n) = false := by
      rw [← Bool.not_eq_true]
      simpa [and_assoc] using here
    rw [outside, Bool.or_false]
    rfl

theorem loadColumnWriteEnd_exec {s : State} {e : Execution} {b : Burst} (executing : s.mgmt.executing = some e)
    (busy : s.arbiter.inProgress = some b) (job : b.job = .loadColumn) (last : b.last = true) (kept : b.dropped = false) :
    exec .loadColumnWriteEnd s
      = .next (((s.setArbiter { s.arbiter with inProgress := none }).storeBurst b).grantDram.loadEnds e) := by
  show execLoadColumnWriteEnd s = _
  unfold execLoadColumnWriteEnd
  rw [executing, takeBurst_eq busy (by simp [BurstJob.isLoad, job, last, kept])]

theorem loadEnds_eq (s : State) {e : Execution} {k : Ix} {i g n : Nat} (load : e.transfer = .loadColumn k i g n) :
    s.loadEnds e = ((s.setBank k { s.bank k with coverage := markSegments (s.bank k).coverage i g n }).bump
      .loadsWritten).leaveExecution.respond e.request .done none [] := by
  unfold State.loadEnds
  rw [load]

/-- Settles O41: the burst is stored, the next one granted, and the load marked, counted and answered. -/
theorem loadColumnWriteEndMarksAndAnswers : Obligations.LoadColumnWriteEndMarksAndAnswers := by
  intro s e b k i g n executing load fits busy job last kept carries
  refine ⟨_, loadColumnWriteEnd_exec executing busy job last kept, ?_⟩
  rw [loadEnds_eq _ load, storeBurst_eq _ carries]
  generalize hu : (s.setArbiter { s.arbiter with inProgress := none }).dramWrite b.address b.data = u
  have coverage (x : Ix) : (u.grantDram.bank x).coverage = (s.bank x).coverage := by
    rw [grantDram_coverage, ← hu]; rfl
  have bank (x : Ix) : ∀ y : State, ((y.bump .loadsWritten).leaveExecution.respond e.request .done none []).bank x = y.bank x :=
    fun y => bank_congr (congrArg BankStore.banks (State_respond_bankStore _ _ _ _ _)) x
  simp only [State_respond_dram, State_leaveExecution_dram, State_bump_dram, State_setBank_dram, State_grantDram_dram, bank,
    State_bank_setBank, State_bank_setBank_other]
  refine ⟨fun x inside => ?_, fun w member => ?_, fun c m hm => ?_, coverage _, ?_, by simp, ?_⟩
  · rw [← hu]; exact dramWrite_read _ _ _ x inside
  · rw [← hu]; exact dramWrite_clean _ _ _ w member
  · rw [covered_markSegments _ _ _ _ fits _ _ hm]
    simp only [Bank.covered, coverage]
  · unfold State.counted
    rw [counter_respond _ _ _ _ _ (by decide)]
    refine (counted_bump_of (s := s) ?_ : s.counted _ .loadsWritten 1)
    exact counter_congr ((State_grantDram_counters u).trans (by rw [← hu]; rfl)) _
  · exact respond_trunk_congr _ _ _ _ ((State_grantDram_trunk u).trans (by rw [← hu]; rfl))
      ((State_grantDram_nodeNumber u).trans (by rw [← hu]; rfl))

end Sys2Proof.Machine

namespace Sys2Proof.Machine

/-! ## The check of a read (R39) -/

/-- The state with another DRAM and another Memory Arbiter. -/
def State.withDram (s : State) (d : Dram) (a : Arbiter) : State := { s with dram := d, arbiter := a }

/-- Raising an event reads nothing of the DRAM and of the arbiter, and leaves both. -/
theorem raise_withDram (s : State) (d : Dram) (a : Arbiter) (e : Event) : (s.withDram d a).raise e = (s.raise e).withDram d a := by
  have grantTo (t : State) : (t.withDram d a).grantTo = t.grantTo.withDram d a := by
    unfold State.grantTo
    rw [show (t.withDram d a).trunk = t.trunk from rfl]
    split
    · split <;> rfl
    · rfl
  have placeControl (t : State) (f : ToFrame) : (t.withDram d a).placeControl f = (t.placeControl f).withDram d a := by
    unfold State.placeControl
    rw [show (t.withDram d a).trunk = t.trunk from rfl]
    split
    · rfl
    · exact grantTo { t with trunk := { t.trunk with control := t.trunk.control ++ [f] } }
  have reportTest (t : State) : (t.withDram d a).reportTest = t.reportTest.withDram d a := by
    unfold State.reportTest
    rw [show (t.withDram d a).events = t.events from rfl, show (t.withDram d a).mgmt = t.mgmt from rfl,
      show (t.withDram d a).reportable = t.reportable from rfl]
    split
    · unfold State.placeEvent
      dsimp only
      rw [show (t.withDram d a).placeControl ⟨(t.withDram d a).eventFrame (t.withDram d a).reportable, false⟩ = _ from
        placeControl t ⟨t.eventFrame t.reportable, false⟩]
      rfl
    · rfl
  have triggerCapture (t : State) : (t.withDram d a).triggerCapture e = (t.triggerCapture e).withDram d a := by
    unfold State.triggerCapture
    rw [show (t.withDram d a).telemetry = t.telemetry from rfl]
    split
    · dsimp only
      split <;> rfl
    · rfl
  have joinLaterCauses (t : State) : (t.withDram d a).joinLaterCauses e = (t.joinLaterCauses e).withDram d a := by
    unfold State.joinLaterCauses
    rw [show (t.withDram d a).loop = t.loop from rfl]
    split <;> rfl
  unfold State.raise
  dsimp only
  rw [show (s.withDram d a).isPending e = s.isPending e from rfl,
    show (s.withDram d a).setPending e = (s.setPending e).withDram d a from rfl, joinLaterCauses, triggerCapture]
  split <;> exact reportTest _

theorem correct_withDram (s : State) (d : Dram) (a : Arbiter) (c : Counter) (n : Nat) :
    (s.withDram d a).correct c n = (s.correct c n).withDram d a := by
  induction n generalizing s with
  | zero => rfl
  | succ n ih =>
    unfold State.correct
    rw [show (s.withDram d a).bump c = (s.bump c).withDram d a from rfl, raise_withDram, ih]

theorem placeOf_correctedCounter (a : Nat) : (placeOf a).correctedCounter = areaCounter a := by
  unfold placeOf areaCounter Config.bankBytes Config.telemetryBase Config.pokeBase
  by_cases bankZero : a < 100663296
  · rw [if_pos bankZero, if_pos (by omega)]
    rfl
  · rw [if_neg bankZero]
    by_cases bankOne : a < 201326592
    · rw [if_pos bankOne, if_pos bankOne]
      rfl
    · rw [if_neg bankOne, if_neg bankOne]
      split <;> rfl

theorem corrected_eq (s : State) (ks : List Strike) (b : Burst) :
    s.corrected ks b = s.correct (areaCounter b.address) (s.singles ks b) := by
  unfold State.corrected
  generalize s.singles ks b = n
  induction n generalizing s with
  | zero => rfl
  | succ n ih => exact ih _

/-- A burst fails whose codewords hold a double-bit error once the upsets have struck (R39). -/
theorem burstFails_iff (s : State) (ks : List Strike) (b : Burst) : (s.burstEnded ks).burstFails b = true
    ↔ ∃ k ∈ codewordsOf b.address b.length, (s.strike ks).dram.errors.get k = .double := by
  simp only [State.burstFails, List.any_eq_true, beq_iff_eq]
  rfl

/-- The state in which the single-bit errors of the burst that the DRAM has completed have been corrected. -/
def State.readChecked (s : State) (ks : List Strike) (b : Burst) : State :=
  (s.corrected ks b).withDram (s.strike ks).dram { s.arbiter with inProgress := none }

/-- The check of the burst that the DRAM has completed: its corrections, and the note of a double-bit error (R39). -/
theorem checkRead_burstEnded (s : State) (ks : List Strike) (b : Burst) : (s.burstEnded ks).checkRead b
    = if (s.burstEnded ks).burstFails b then (s.readChecked ks b).noteUncorrectable b else s.readChecked ks b := by
  unfold State.checkRead State.readChecked
  dsimp only
  rw [corrected_eq, ← correct_withDram, placeOf_correctedCounter]
  rfl

/-! ## What the corrections leave -/

section
variable (s : State) (ks : List Strike) (b : Burst)

theorem areaCounter_ofReads (a : Nat) : (areaCounter a).ofReads = true := by
  unfold areaCounter
  split_ifs <;> rfl

/-- Counters but those of the area and of raised events stay (R39). -/
theorem counter_corrected {k : Counter} (area : k ≠ areaCounter b.address)
    (event : k ≠ .controlOverflow ∧ k ≠ .eventFrames ∧ k ≠ .triggers) : (s.corrected ks b).counter k = s.counter k := by
  obtain ⟨-, -, -, -, -, -, -, counters⟩ := correct_spec (s.singles ks b) s (areaCounter b.address)
  obtain ⟨overflow, frames, triggers⟩ := event
  rw [corrected_eq]
  exact counters k area overflow frames triggers

/-- The corrections count in their area, raise MATRIX_CORRECTED where there is one, and never take an EVENT frame back (R39). -/
theorem correct_counts (c : Counter) (hc : c.ofReads = true) (n : Nat) :
    (s.correct c n).counter c = (if n = 0 then s.counter c else min (s.counter c + n) Config.counterMax)
    ∧ (0 < n → s.raised (s.correct c n) .matrixCorrected)
    ∧ min (s.counter .eventFrames) Config.counterMax ≤ (s.correct c n).counter .eventFrames := by
  induction n generalizing s with
  | zero => exact ⟨rfl, fun h => absurd h (Nat.lt_irrefl 0), Nat.min_le_left _ _⟩
  | succ n ih =>
    obtain ⟨counted, raised, reports⟩ := ih ((s.bump c).raise .matrixCorrected)
    have notEvent : c ≠ .eventFrames := by rintro rfl; cases hc
    have spared := raise_sparesReads (s.bump c) .matrixCorrected
    have one : ((s.bump c).raise .matrixCorrected).counter c = min (s.counter c + 1) Config.counterMax :=
      (spared.counters c hc).trans (by rw [counter_bump, if_pos rfl])
    have events : (s.bump c).counter .eventFrames = s.counter .eventFrames := by rw [counter_bump, if_neg notEvent.symm]
    have firstReports := spared.reports
    rw [events] at firstReports
    have first : s.raised ((s.bump c).raise .matrixCorrected) .matrixCorrected := raised_of_raise events rfl rfl
    unfold State.raised at raised first ⊢
    generalize Config.counterMax = most at *
    refine ⟨?_, fun _ => ?_, ?_⟩
    · rw [State.correct, counted, one, if_neg (Nat.succ_ne_zero n)]
      split <;> omega
    · unfold State.correct
      cases n with
      | zero => exact first
      | succ n =>
        have later := raised (Nat.succ_pos n)
        rcases later with pending | reported
        · exact .inl pending
        · right; omega
    · unfold State.correct
      omega

end

/-- What the check of a read claims, wherever the state after it comes from the corrected one by work that spares it (R39). -/
theorem corrects_of_spares {s u t : State} (ks : List Strike) (b : Burst)
    (counter : u.counter (areaCounter b.address) = (s.corrected ks b).counter (areaCounter b.address))
    (events : u.events.pending = (s.corrected ks b).events.pending)
    (reports : u.counter .eventFrames = (s.corrected ks b).counter .eventFrames)
    (spared : u.SparesReads t) (errors : t.dram.errors = (s.strike ks).dram.errors) : s.corrects t ks b := by
  obtain ⟨counted, raised, before⟩ := correct_counts s (areaCounter b.address) (areaCounter_ofReads _) (s.singles ks b)
  rw [← corrected_eq] at counted raised before
  refine ⟨?_, fun some => ?_, fun k => by rw [errors]⟩
  · rw [spared.counters _ (areaCounter_ofReads _), counter, counted]
    rfl
  · refine spared.raised (by rw [reports]; exact before) ?_
    have here := raised some
    unfold State.raised State.isPending at here ⊢
    rwa [events, reports]

end Sys2Proof.Machine

namespace Sys2Proof.Machine

/-! ## A checked read and its answer (R39, R51, R158) -/

/-- What the check of the burst `b` leaves where the DRAM has completed it: the corrections, and at most the note of a double-bit
error. -/
structure State.ReadFrom (s : State) (ks : List Strike) (b : Burst) (u : State) : Prop where
  trunk : u.trunk = (s.corrected ks b).trunk
  node : u.nodeNumber = (s.corrected ks b).nodeNumber
  events : u.events = (s.corrected ks b).events
  telemetry : u.telemetry = (s.corrected ks b).telemetry
  mgmt : u.mgmt = s.mgmt
  frames : u.frames = s.frames
  arbiter : u.arbiter = { s.arbiter with inProgress := none }
  dram : u.dram = (s.strike ks).dram
  counters : ∀ k, b.job.uncorrectableCounter? ≠ some k → u.counter k = (s.corrected ks b).counter k

section
variable {s : State} {ks : List Strike} {b : Burst}

/-- What is neither an event's nor the telemetry's stays through the corrections. -/
theorem correct_mgmt (s : State) (c : Counter) (n : Nat) : (s.correct c n).mgmt = s.mgmt := by
  induction n generalizing s with
  | zero => rfl
  | succ n ih => exact (ih _).trans (State_raise_mgmt _ _)

theorem correct_bankStore (s : State) (c : Counter) (n : Nat) : (s.correct c n).bankStore = s.bankStore := by
  induction n generalizing s with
  | zero => rfl
  | succ n ih => exact (ih _).trans (State_raise_bankStore _ _)

theorem ne_areaCounter {c : Counter} (a : Nat)
    (other : c ∉ [Counter.correctedBank, .correctedTelemetry, .correctedPoke] := by decide) : c ≠ areaCounter a := by
  rintro rfl
  unfold areaCounter at other
  split_ifs at other
  all_goals simp at other

/-- The counters of uncorrectable bursts are none of the areas' (R39, R60). -/
theorem uncorrectableCounter_ofReads {c : Counter} (hc : b.job.uncorrectableCounter? = some c) :
    c.ofReads = true ∧ ∀ a, c ≠ areaCounter a := by
  have apart : c.ofReads = true ∧ c ∉ [Counter.correctedBank, .correctedTelemetry, .correctedPoke] := by
    unfold BurstJob.uncorrectableCounter? at hc
    split at hc
    all_goals cases hc
    all_goals decide
  exact ⟨apart.1, fun a => ne_areaCounter a apart.2⟩

theorem counter_corrected_ofReads {k : Counter} (hk : k.ofReads = true) (area : k ≠ areaCounter b.address) :
    (s.corrected ks b).counter k = s.counter k :=
  counter_corrected s ks b area (by refine ⟨?_, ?_, ?_⟩ <;> rintro rfl <;> cases hk)

theorem readFrom_readChecked : s.ReadFrom ks b (s.readChecked ks b) where
  trunk := rfl
  node := rfl
  events := rfl
  telemetry := rfl
  mgmt := by
    show (s.corrected ks b).mgmt = s.mgmt
    rw [corrected_eq, correct_mgmt]
  frames := by
    obtain ⟨-, -, -, -, frames, -⟩ := correct_spec (s.singles ks b) s (areaCounter b.address)
    show (s.corrected ks b).frames = s.frames
    rw [corrected_eq, frames]
  arbiter := rfl
  dram := rfl
  counters _ _ := rfl

theorem readFrom_checkRead (s : State) (ks : List Strike) (b : Burst) : s.ReadFrom ks b ((s.burstEnded ks).checkRead b) := by
  rw [checkRead_burstEnded]
  have checked := readFrom_readChecked (s := s) (ks := ks) (b := b)
  split
  · refine ⟨by simp [checked.trunk], by simp [checked.node], by simp [checked.events], by simp [checked.telemetry],
      by simp [checked.mgmt], by simp [checked.frames], by simp [checked.arbiter], by simp [checked.dram], fun k other => ?_⟩
    rw [← checked.counters k other]
    unfold State.noteUncorrectable
    cases counter : b.job.uncorrectableCounter? with
    | none => rfl
    | some c => exact (counter_bump _ c k).trans (if_neg fun h => other (by rw [counter, h]))
  · exact checked

/-- A burst with a double-bit error is counted once by its requester's counter (R39). -/
theorem checkRead_counted {c : Counter} (fails : (s.burstEnded ks).burstFails b = true)
    (hc : b.job.uncorrectableCounter? = some c) : s.counted ((s.burstEnded ks).checkRead b) c 1 := by
  obtain ⟨ofReads, areas⟩ := uncorrectableCounter_ofReads hc
  rw [checkRead_burstEnded, if_pos fails]
  unfold State.noteUncorrectable
  rw [hc]
  exact counted_bump_of (t := s.readChecked ks b) (counter_corrected_ofReads ofReads (areas _))

/-- A burst without a double-bit error counts none (R39). -/
theorem checkRead_counter {c : Counter} (clean : ¬(s.burstEnded ks).burstFails b = true)
    (hc : b.job.uncorrectableCounter? = some c) : ((s.burstEnded ks).checkRead b).counter c = s.counter c := by
  obtain ⟨ofReads, areas⟩ := uncorrectableCounter_ofReads hc
  rw [checkRead_burstEnded, if_neg clean]
  exact counter_corrected_ofReads ofReads (areas _)

section
variable {u : State} (read : s.ReadFrom ks b u)
include read

/-- What the check claims, wherever other counts and work that spares it follow and the DRAM stays (R39). -/
theorem State.ReadFrom.corrects_counting {v t : State} (events : v.events = u.events)
    (counts : ∀ k, k = areaCounter b.address ∨ k = .eventFrames → v.counter k = u.counter k) (spared : v.SparesReads t)
    (dram : t.dram = u.dram) : s.corrects t ks b := by
  have apart {k : Counter} (h : k = areaCounter b.address ∨ k = .eventFrames) : b.job.uncorrectableCounter? ≠ some k := by
    intro hk
    obtain ⟨ofReads, areas⟩ := uncorrectableCounter_ofReads hk
    rcases h with rfl | rfl
    · exact areas _ rfl
    · cases ofReads
  have counter (k : Counter) (h : k = areaCounter b.address ∨ k = .eventFrames) : v.counter k = (s.corrected ks b).counter k :=
    (counts k h).trans (read.counters k (apart h))
  exact corrects_of_spares ks b (counter _ (.inl rfl)) (congrArg Events.pending (events.trans read.events))
    (counter _ (.inr rfl)) spared (by rw [dram, read.dram])

theorem State.ReadFrom.corrects {t : State} (spared : u.SparesReads t) (dram : t.dram = u.dram) : s.corrects t ks b :=
  read.corrects_counting rfl (fun _ _ => rfl) spared dram

/-- An answer that follows the check is placed as it would be in the corrected state (R189). -/
theorem State.ReadFrom.answered {v : State} (trunk : v.trunk = u.trunk) (node : v.nodeNumber = u.nodeNumber) (r : Request)
    (st : Status) (e : Option Tag) (body : List Byte) :
    (v.respond r st e body).trunk = ((s.corrected ks b).respond r st e body).trunk :=
  respond_trunk_congr r st e body (trunk.trans read.trunk) (node.trans read.node)

/-- A counter that neither the check nor an event counts. -/
theorem State.ReadFrom.counter {k : Counter} (hk : k.ofReads = true) (area : k ≠ areaCounter b.address)
    (own : b.job.uncorrectableCounter? ≠ some k) : u.counter k = s.counter k :=
  (read.counters k own).trans (counter_corrected_ofReads hk area)

/-- With the burst off the DRAM, the next one is granted (R58). -/
theorem State.ReadFrom.granted : u.grantDram.arbiter = s.arbiter.completed := grantDram_arbiter read.arbiter

end

end

theorem leaveExecution_sparesReads (s : State) : s.SparesReads s.leaveExecution := .of_same rfl rfl rfl

/-- The next grant, the end of the execution and the answer spare what the check has found. -/
theorem answer_sparesReads (s : State) (r : Request) (st : Status) (e : Option Tag) (body : List Byte) :
    s.SparesReads (s.grantDram.leaveExecution.respond r st e body) :=
  (respond_sparesReads _ r st e body).after ((leaveExecution_sparesReads _).after (grantDram_sparesReads s))

theorem dramBytes_length (s : State) (a n : Nat) : (s.dramBytes a n).length = n := by simp [State.dramBytes]

/-- The bytes that a burst reads, whatever upsets strike its check bits (log entry 7). -/
theorem dramBytes_burstEnded (s : State) (ks : List Strike) (a n : Nat) : (s.burstEnded ks).dramBytes a n = s.dramBytes a n := rfl

/-! ## The end of a matrix readback (R51) -/

section
variable {s : State} {e : Execution} {b : Burst} (ks : List Strike) (executing : s.mgmt.executing = some e)
  (busy : s.arbiter.inProgress = some b)
include executing busy

theorem readbackBurstEnd_exec (job : b.job = .readback) (kept : b.dropped = false) :
    exec (.readbackBurstEnd ks) s = .next ((s.burstEnded ks).readbackEnds e b) := by
  show execReadbackBurstEnd ks s = _
  unfold execReadbackBurstEnd
  rw [executing, takeBurst_struck ks busy (by simp [BurstJob.isReadback, job, kept])]

theorem pokeRecordsTransferEnd_exec (job : b.job.isPokeTransfer = true) (last : b.last = true) (kept : b.dropped = false) :
    exec (.pokeRecordsTransferEnd ks) s = .next ((s.burstEnded ks).pokeTransferBurst e b) := by
  show execPokeRecordsTransferEnd ks s = _
  unfold execPokeRecordsTransferEnd
  rw [executing, takeBurst_struck ks busy (by simp [job, last, kept])]

end

theorem readbackEnds_spec (s : State) (ks : List Strike) (e : Execution) {b : Burst} (job : b.job = .readback) :
    let t := (s.burstEnded ks).readbackEnds e b
    t.mgmt.executing = none ∧ s.corrects t ks b ∧
    if (s.burstEnded ks).burstFails b = true then
      t.trunk = ((s.corrected ks b).respond e.request .mediaError none []).trunk ∧ s.counted t .uncorrectableReadback 1
      ∧ t.counter .readbacks = s.counter .readbacks
    else t.trunk = ((s.corrected ks b).respond e.request .done none (readbackBody true (s.dramBytes b.address b.length))).trunk
      ∧ s.counted t .readbacks 1 := by
  have counter : b.job.uncorrectableCounter? = some .uncorrectableReadback := by rw [job]; rfl
  have read := readFrom_checkRead s ks b
  have readbacks : ((s.burstEnded ks).checkRead b).counter .readbacks = s.counter .readbacks :=
    read.counter rfl (ne_areaCounter _) (by rw [counter]; decide)
  unfold State.readbackEnds
  dsimp only
  by_cases fails : (s.burstEnded ks).burstFails b = true
  · have counted := checkRead_counted fails counter
    generalize (s.burstEnded ks).checkRead b = u at read readbacks counted ⊢
    rw [if_pos fails, if_pos fails]
    have spared := answer_sparesReads u e.request .mediaError none []
    refine ⟨by simp [State.leaveExecution], read.corrects spared (by simp), ?_, ?_, ?_⟩
    · exact read.answered (by simp) (by simp) _ _ _ _
    · unfold State.counted at *
      rw [spared.counters _ rfl, counted]
    · rw [spared.counters _ rfl, readbacks]
  · generalize (s.burstEnded ks).checkRead b = u at read readbacks ⊢
    rw [if_neg fails, if_neg fails]
    refine ⟨by simp [State.leaveExecution], ?_, ?_, ?_⟩
    · refine read.corrects_counting (v := u.grantDram.leaveExecution.bump .readbacks) (State_grantDram_events u)
        (fun k hk => ?_) (respond_sparesReads _ _ _ _ _) (by simp)
      have other : k ≠ .readbacks := by
        rintro rfl
        rcases hk with area | event
        exacts [absurd area (ne_areaCounter _), by cases event]
      rw [counter_bump, if_neg other]
      exact counter_congr (State_grantDram_counters u) k
    · exact read.answered (by simp) (by simp) _ _ _ _
    · unfold State.counted
      rw [counter_respond _ _ _ _ _ (by decide)]
      exact counted_bump_of ((counter_congr (by simp) _).trans readbacks)

/-! ## Poke records of a request (R158) -/

theorem respond_counters_congr {s t : State} (r : Request) (st : Status) (e : Option Tag) (body : List Byte)
    (trunk : t.trunk = s.trunk) (node : t.nodeNumber = s.nodeNumber) (counters : t.counters = s.counters) :
    (t.respond r st e body).counters = (s.respond r st e body).counters := by
  unfold State.respond State.responseFrame
  rw [node]
  unfold State.placeControl
  rw [trunk]
  split
  · show t.counters.set _ (min (t.counters.get _ + 1) _) = s.counters.set _ (min (s.counters.get _ + 1) _)
    rw [counters]
  · simp [counters]

/-- With the burst off the DRAM, what is queued for management stays or is granted (R58). -/
theorem completed_management (a : Arbiter) : ∀ x ∈ a.completed.management, x ∈ a.management := by
  obtain ⟨column, poke, write, read, management, busy⟩ := a
  intro x hx
  unfold Arbiter.completed at hx
  split at hx
  all_goals simp_all

section
variable {s : State} {e : Execution} {b : Burst} {data : List Byte} (ks : List Strike) (reads : e.transfer = .pokeRead data)
include reads

/-- A read of poke records with a double-bit error is answered MEDIA_ERROR at once (R158, log entry 43). -/
theorem pokeRead_fails (job : b.job = .pokeRecordRead) (fails : (s.burstEnded ks).burstFails b = true) :
    let t := (s.burstEnded ks).pokeTransferBurst e b
    t.mgmt.executing = none ∧ s.corrects t ks b ∧ t.mgmt.queue = s.mgmt.queue
    ∧ t.trunk = ((s.corrected ks b).respond e.request .mediaError none []).trunk ∧ s.counted t .recordReadbackErrors 1
    ∧ ∀ x ∈ t.arbiter.management, x.job ≠ .pokeRecordRead := by
  have read := readFrom_checkRead s ks b
  have counted := checkRead_counted fails (show b.job.uncorrectableCounter? = some .recordReadbackErrors by rw [job]; rfl)
  unfold State.pokeTransferBurst
  rw [reads]
  dsimp only
  rw [if_pos fails]
  generalize (s.burstEnded ks).checkRead b = u at read counted ⊢
  have spared := (answer_sparesReads _ e.request .mediaError none []).after
    (withdraw_sparesReads u BurstJob.isPokeTransfer)
  refine ⟨by simp [State.leaveExecution], read.corrects spared (by simp), ?_, ?_, ?_, fun x hx isRead => ?_⟩
  · exact (congrArg Mgmt.queue (State_respond_mgmt _ _ _ _ _)).trans ((grantDram_held _).2.trans (congrArg Mgmt.queue read.mgmt))
  · exact read.answered (by simp) (by simp) _ _ _ _
  · unfold State.counted at *
    rw [spared.counters _ rfl, counted]
  · rw [State_respond_arbiter, State_leaveExecution_arbiter] at hx
    have withdrawn : (u.withdraw BurstJob.isPokeTransfer).arbiter
        = { s.arbiter.withdraw BurstJob.isPokeTransfer with inProgress := none } := by
      show u.arbiter.withdraw _ = _
      rw [read.arbiter]
      rfl
    rw [grantDram_arbiter (s := s.withdraw BurstJob.isPokeTransfer) withdrawn] at hx
    have := (List.mem_filter.mp (completed_management _ x hx)).2
    rw [isRead] at this
    cases this

/-- A burst of a read of poke records without a double-bit error: the last one is answered with the bytes (R158). -/
theorem pokeRead_ends (clean : ¬(s.burstEnded ks).burstFails b = true) (last : b.last = true) :
    let t := (s.burstEnded ks).pokeTransferBurst e b
    let body := data ++ s.dramBytes b.address b.length
    t.mgmt.executing = none ∧ s.corrects t ks b ∧ t.trunk = ((s.corrected ks b).respond e.request .done none body).trunk
    ∧ t.counters = ((s.corrected ks b).respond e.request .done none body).counters := by
  have read := readFrom_checkRead s ks b
  have counters : ((s.burstEnded ks).checkRead b).counters = (s.corrected ks b).counters := by
    rw [checkRead_burstEnded, if_neg clean]
    rfl
  unfold State.pokeTransferBurst
  rw [reads]
  dsimp only
  rw [if_neg clean, if_pos last, dramBytes_burstEnded]
  generalize (s.burstEnded ks).checkRead b = u at read counters ⊢
  refine ⟨by simp [State.leaveExecution], read.corrects (answer_sparesReads u _ _ _ _) (by simp),
    read.answered (by simp) (by simp) _ _ _ _, ?_⟩
  exact respond_counters_congr _ _ _ _ (by simp [read.trunk]) (by simp [read.node]) (by simp [counters])

/-- A burst of a read of poke records without a double-bit error: an earlier one joins its bytes to those read (R158). -/
theorem pokeRead_goesOn (clean : ¬(s.burstEnded ks).burstFails b = true) (middle : b.last = false) :
    let t := (s.burstEnded ks).pokeTransferBurst e b
    s.corrects t ks b ∧ t.mgmt.queue = s.mgmt.queue
    ∧ t.mgmt.executing.map (fun e => (e.request, e.transfer))
      = some (e.request, .pokeRead (data ++ s.dramBytes b.address b.length))
    ∧ t.trunk = (s.corrected ks b).trunk ∧ t.arbiter = s.arbiter.completed := by
  have read := readFrom_checkRead s ks b
  unfold State.pokeTransferBurst
  rw [reads]
  dsimp only
  rw [if_neg clean, if_neg (by simp [middle]), dramBytes_burstEnded]
  generalize (s.burstEnded ks).checkRead b = u at read ⊢
  refine ⟨read.corrects ((grantDram_sparesReads u).trans (.of_same rfl rfl rfl)) (by simp), ?_, rfl, ?_, ?_⟩
  · exact (grantDram_held u).2.trans (congrArg Mgmt.queue read.mgmt)
  · exact (State_grantDram_trunk u).trans read.trunk
  · exact read.granted

end

/-- Settles O42: each transfer's last burst ends by `readbackEnds_spec`, `pokeRead_fails` or `pokeRead_ends`, or stores its
bytes. -/
theorem readBurstEndsAnswerTheirBytes : Obligations.ReadBurstEndsAnswerTheirBytes := by
  intro s ks e b executing busy last kept
  refine ⟨fun job => ?_, fun job writes carries => ?_, fun data job reads => ?_⟩
  · refine ⟨_, readbackBurstEnd_exec ks executing busy job kept, ?_⟩
    obtain ⟨left, corrects, answered⟩ := readbackEnds_spec s ks e job
    refine ⟨left, corrects, ?_⟩
    simp only [burstFails_iff] at answered
    simpa [readbackBody, boolCode, dramBytes_length] using answered
  · refine ⟨_, pokeRecordsTransferEnd_exec ks executing busy (by rw [job]; rfl) last kept, ?_⟩
    unfold State.pokeTransferBurst
    rw [writes]
    dsimp only
    rw [if_pos last, storeBurst_eq _ carries]
    refine ⟨by simp [State.leaveExecution], fun x inside => ?_, ?_⟩
    · simp only [State_respond_dram, State_leaveExecution_dram, State_grantDram_dram]
      exact dramWrite_read _ _ _ x inside
    · exact respond_trunk_congr _ _ _ _ (State_grantDram_trunk _) (State_grantDram_nodeNumber _)
  · refine ⟨_, pokeRecordsTransferEnd_exec ks executing busy (by rw [job]; rfl) last kept, ?_⟩
    simp only [← burstFails_iff]
    by_cases fails : (s.burstEnded ks).burstFails b = true
    · obtain ⟨left, corrects, -, trunk, counted, -⟩ := pokeRead_fails ks reads job fails
      exact ⟨left, corrects, by rw [if_pos fails]; exact ⟨trunk, counted⟩⟩
    · obtain ⟨left, corrects, trunk, counters⟩ := pokeRead_ends ks reads fails last
      exact ⟨left, corrects, by rw [if_neg fails]; exact ⟨trunk, counters⟩⟩

end Sys2Proof.Machine

namespace Sys2Proof.Machine

/-! ## Telemetry reads (R178, R179) -/

/-- The corrections raise events, and an event changes the state of the capture, not the ring (R39, R177). -/
theorem correct_lengths (s : State) (c : Counter) (n : Nat) : (s.correct c n).telemetry.lengths = s.telemetry.lengths := by
  have triggered (t : State) (e : Event) : (t.triggerCapture e).telemetry.lengths = t.telemetry.lengths := by
    unfold State.triggerCapture
    split
    · dsimp only
      split <;> rfl
    · rfl
  induction n generalizing s with
  | zero => rfl
  | succ n ih =>
    refine (ih _).trans ?_
    unfold State.raise
    dsimp only
    rw [State_reportTest_telemetry]
    split
    · rfl
    · exact (triggered _ _).trans (by rw [State_joinLaterCauses_telemetry]; rfl)

/-- The state with a request in execution that has come so far in its transfer. -/
def State.transferring (s : State) (e : Execution) (t : Transfer) : State :=
  { s with mgmt := { s.mgmt with executing := some { e with transfer := t } } }

/-- What a failing read of telemetry counts (R179). -/
theorem counter_readFails (s : State) (e : Execution) (u : Nat) (chosen : List ChosenRecord) {k : Counter}
    (h : k ≠ .controlOverflow) : (s.readFails e u chosen).counter k = if k = .mediaDiscarded then min (s.counter k + 1) Config.counterMax
      else if k = .recordsRead then min (s.counter k + (chosen.takeWhile (fun x => x.unit != u)).length) Config.counterMax
      else s.counter k := by
  have answered (body : List Byte) : (s.leaveExecution.respond e.request .mediaError none body).counter k = s.counter k :=
    counter_respond _ _ _ _ _ h
  unfold State.readFails
  dsimp only
  rw [counter_bump]
  split
  · next media =>
    subst media
    rw [counter_bumpBy, if_neg (by decide)]
    exact congrArg (fun n => min (n + 1) _) (answered _)
  · rw [counter_bumpBy]
    split
    · next read =>
      subst read
      exact congrArg (fun n => min (n + _) _) (answered _)
    · exact answered _

section
variable {s : State} {e : Execution} {b : Burst} {chosen : List ChosenRecord} {u : Nat} (ks : List Strike)
  (executing : s.mgmt.executing = some e) (reads : e.transfer = .readTelemetry chosen) (job : b.job = .telemetryRead u)
  (kept : b.dropped = false)
include executing reads job kept

/-- What follows the check of a burst of a telemetry read that is still waited for. -/
theorem telemetryReadBurst_eq : (s.burstEnded ks).telemetryReadBurst b =
    if (s.burstEnded ks).burstFails b then
      (((s.burstEnded ks).checkRead b).withdraw BurstJob.isTelemetryRead).grantDram.readFails e u chosen
    else if b.last then
      ((s.burstEnded ks).checkRead b).grantDram.readEnds e (joinChosen u (s.dramBytes b.address b.length) chosen)
    else
      ((s.burstEnded ks).checkRead b).grantDram.transferring e
        (.readTelemetry (joinChosen u (s.dramBytes b.address b.length) chosen)) := by
  unfold State.telemetryReadBurst
  dsimp only
  rw [(readFrom_checkRead s ks b).mgmt, executing, job]
  dsimp only
  rw [reads]
  dsimp only
  rw [if_neg (by simp [kept]), dramBytes_burstEnded]
  rfl

/-- A double-bit error ends the read: the records before the failing one are carried (R179). -/
theorem telemetryRead_fails (fails : (s.burstEnded ks).burstFails b = true) :
    let t := (s.burstEnded ks).telemetryReadBurst b
    let before := chosen.takeWhile (fun k => k.unit != u)
    t.mgmt.executing = none ∧ s.corrects t ks b ∧ t.mgmt.queue = s.mgmt.queue
    ∧ t.trunk = ((s.corrected ks b).respond e.request .mediaError none (telemetryBody before)).trunk
    ∧ t.telemetry.lengths = s.telemetry.lengths.drop (before.length + 1)
    ∧ s.counted t .recordsRead before.length ∧ s.counted t .mediaDiscarded 1 ∧ s.counted t .uncorrectableTelemetry 1 := by
  have read := readFrom_checkRead s ks b
  have counter : b.job.uncorrectableCounter? = some .uncorrectableTelemetry := by rw [job]; rfl
  have counted := checkRead_counted fails counter
  have own {k : Counter} (hk : k.ofReads = true) (area : k ≠ areaCounter b.address) (other : k ≠ .uncorrectableTelemetry) :=
    read.counter hk area (by rw [counter]; exact fun h => other (Option.some.inj h).symm)
  have lengths : ((s.burstEnded ks).checkRead b).telemetry.lengths = s.telemetry.lengths := by
    rw [read.telemetry, corrected_eq, correct_lengths]
  rw [telemetryReadBurst_eq ks executing reads job kept, if_pos fails]
  generalize (s.burstEnded ks).checkRead b = v at read counted own lengths ⊢
  generalize hw : (v.withdraw BurstJob.isTelemetryRead).grantDram = w
  have counters (k : Counter) : w.counter k = v.counter k := by
    rw [← hw]
    exact counter_congr (State_grantDram_counters _) k
  have spared : (w.readFails e u chosen).events = v.events := (State_respond_events _ _ _ _ _).trans (by rw [← hw]; simp)
  refine ⟨?_, ?_, ?_, ?_, ?_, ?_, ?_, ?_⟩
  · exact congrArg Mgmt.executing (State_respond_mgmt _ _ _ _ _)
  · refine read.corrects_counting spared (fun k hk => ?_) (.refl _) ((State_respond_dram _ _ _ _ _).trans (by rw [← hw]; simp))
    obtain ⟨overflow, media, records⟩ : k ≠ .controlOverflow ∧ k ≠ .mediaDiscarded ∧ k ≠ .recordsRead := by
      rcases hk with rfl | rfl
      · exact ⟨(ne_areaCounter _).symm, (ne_areaCounter _).symm, (ne_areaCounter _).symm⟩
      · decide
    rw [counter_readFails _ _ _ _ overflow, if_neg media, if_neg records, counters]
  · refine (congrArg Mgmt.queue (State_respond_mgmt _ _ _ _ _)).trans ?_
    rw [← hw]
    exact (grantDram_held _).2.trans (congrArg Mgmt.queue read.mgmt)
  · exact read.answered (by rw [← hw]; simp) (by rw [← hw]; simp) _ _ _ _
  · refine (congrArg (fun x : Telemetry => x.lengths.drop _) (State_respond_telemetry _ _ _ _ _)).trans ?_
    rw [← hw, ← lengths]
    simp
  · unfold State.counted
    rw [counter_readFails _ _ _ _ (by decide), if_neg (by decide), if_pos rfl, counters, own rfl (ne_areaCounter _) (by decide)]
  · unfold State.counted
    rw [counter_readFails _ _ _ _ (by decide), if_pos rfl, counters, own rfl (ne_areaCounter _) (by decide)]
  · unfold State.counted at counted ⊢
    rw [counter_readFails _ _ _ _ (by decide), if_neg (by decide), if_neg (by decide), counters, counted]

/-- Another burst joins its bytes to those read of its record (R178). -/
theorem telemetryRead_goesOn (clean : ¬(s.burstEnded ks).burstFails b = true) (middle : b.last = false) :
    let t := (s.burstEnded ks).telemetryReadBurst b
    s.corrects t ks b ∧ t.mgmt.queue = s.mgmt.queue
    ∧ t.mgmt.executing.map (fun e => (e.request, e.transfer))
      = some (e.request, .readTelemetry (joinChosen u (s.dramBytes b.address b.length) chosen))
    ∧ t.trunk = (s.corrected ks b).trunk ∧ t.telemetry.lengths = s.telemetry.lengths ∧ t.arbiter = s.arbiter.completed := by
  have read := readFrom_checkRead s ks b
  rw [telemetryReadBurst_eq ks executing reads job kept, if_neg clean, if_neg (by simp [middle])]
  generalize (s.burstEnded ks).checkRead b = v at read ⊢
  refine ⟨read.corrects ((grantDram_sparesReads v).trans (.of_same rfl rfl rfl)) (State_grantDram_dram v), ?_, rfl, ?_, ?_, ?_⟩
  · exact (grantDram_held v).2.trans (congrArg Mgmt.queue read.mgmt)
  · exact (State_grantDram_trunk v).trans read.trunk
  · show v.grantDram.telemetry.lengths = _
    rw [State_grantDram_telemetry, read.telemetry, corrected_eq, correct_lengths]
  · exact read.granted

end

/-! ## Bursts in the middle of their work, or given up (R57, R58) -/

/-- A grant leaves the last uncorrectable location (R39, R58). -/
theorem grantDram_lastBad (s : State) : s.grantDram.bankStore.lastBad = s.bankStore.lastBad := by
  have loads (t : State) : t.beginLoad.bankStore.lastBad = t.bankStore.lastBad := by
    unfold State.beginLoad
    split
    · split <;> rfl
    · rfl
  unfold State.grantDram
  split
  · rfl
  · split
    · rfl
    · unfold State.beginBurst
      split
      · exact loads _
      all_goals rfl

section
variable {s : State} {b : Burst} (ks : List Strike) (busy : s.arbiter.inProgress = some b)
include busy

theorem dramBurstComplete_exec (other : b.isOther = true) : exec (.dramBurstComplete ks) s
    = .next (if b.dropped then (s.burstEnded ks).droppedEnds b else (s.burstEnded ks).partEnds b) := by
  show execDramBurstComplete ks s = _
  unfold execDramBurstComplete
  rw [takeBurst_struck ks busy other]

/-- A write burst stores its bytes, whether it is still waited for or given up (R45, R57, R158, R174). -/
theorem writeBurst_exec (write : b.job = .telemetryWrite ∨ b.job = .loadColumn ∨ b.job = .pokeRecordWrite)
    (part : b.last = false ∨ b.dropped = true) (carries : b.data ≠ [])
    (waited : b.job = .pokeRecordWrite → b.dropped = false → ∃ e, s.mgmt.executing = some e ∧ e.transfer = .pokeWrite) :
    exec (.dramBurstComplete ks) s = .next ((s.burstEnded ks).dramWrite b.address b.data).grantDram := by
  have other : b.isOther = true := by
    rcases write with h | h | h <;> rcases part with p | p <;> simp [Burst.isOther, BurstJob.isColumn, BurstJob.isPoke, h, p]
  have given : (s.burstEnded ks).droppedEnds b = ((s.burstEnded ks).dramWrite b.address b.data).grantDram := by
    unfold State.droppedEnds
    rw [if_neg (by simpa using carries), storeBurst_eq _ carries]
  rw [dramBurstComplete_exec ks busy other, given]
  split
  · rfl
  · next kept =>
    have kept : b.dropped = false := by simpa using kept
    have middle : b.last = false := by simpa [kept] using part
    rcases write with h | h | h
    · unfold State.partEnds
      rw [h]
      exact congrArg _ given
    · unfold State.partEnds
      rw [h]
      exact congrArg _ given
    · obtain ⟨e, executing, writes⟩ := waited h kept
      unfold State.partEnds
      rw [h]
      dsimp only
      rw [show (s.burstEnded ks).mgmt.executing = some e from executing]
      dsimp only
      unfold State.pokeTransferBurst
      rw [writes]
      dsimp only
      rw [if_neg (by simp [middle]), storeBurst_eq _ carries]

/-- A read that nobody waits for is checked like every read, and its bytes are used by nobody (R39, R57, log entry 21). -/
theorem droppedRead_exec (column : b.job.isColumn = false) (poke : b.job.isPoke = false) (dropped : b.dropped = true)
    (carries : b.data = []) : exec (.dramBurstComplete ks) s = .next ((s.burstEnded ks).checkRead b).grantDram := by
  rw [dramBurstComplete_exec ks busy (by simp [Burst.isOther, column, poke, dropped]), if_pos dropped]
  unfold State.droppedEnds
  rw [if_pos (by simp [carries])]

end

/-- The place of an uncorrectable burst becomes the last uncorrectable location (R39). -/
theorem noteUncorrectable_lastBad (s : State) (b : Burst) :
    (s.noteUncorrectable b).bankStore.lastBad = some (placeOf b.address, s.now) := by
  unfold State.noteUncorrectable
  cases b.job.uncorrectableCounter? <;> rfl

theorem droppedRead_spec (s : State) (ks : List Strike) (b : Burst) {c : Counter} (counter : b.job.uncorrectableCounter? = some c) :
    let t := ((s.burstEnded ks).checkRead b).grantDram
    s.corrects t ks b ∧ t.mgmt.queue = s.mgmt.queue
    ∧ t.mgmt.executing.map (fun e => (e.request, e.transfer)) = s.mgmt.executing.map (fun e => (e.request, e.transfer))
    ∧ t.trunk = (s.corrected ks b).trunk ∧ t.frames = s.frames ∧ t.arbiter = s.arbiter.completed ∧ t.dram.memory = s.dram.memory
    ∧ if (s.burstEnded ks).burstFails b = true then
        s.counted t c 1 ∧ t.bankStore.lastBad = some (placeOf b.address, s.now)
      else t.counter c = s.counter c ∧ t.bankStore.lastBad = s.bankStore.lastBad := by
  have read := readFrom_checkRead s ks b
  dsimp only
  refine ⟨read.corrects (grantDram_sparesReads _) (State_grantDram_dram _), ?_, ?_, ?_, ?_, read.granted, ?_, ?_⟩
  · exact (grantDram_held _).2.trans (congrArg Mgmt.queue read.mgmt)
  · exact (grantDram_held _).1.trans (by rw [read.mgmt])
  · exact (State_grantDram_trunk _).trans read.trunk
  · exact (State_grantDram_frames _).trans read.frames
  · rw [State_grantDram_dram, read.dram]
    rfl
  · have counters : ((s.burstEnded ks).checkRead b).grantDram.counter c = ((s.burstEnded ks).checkRead b).counter c :=
      counter_congr (State_grantDram_counters _) c
    unfold State.counted
    rw [grantDram_lastBad, counters]
    split
    · next fails =>
      refine ⟨checkRead_counted fails counter, ?_⟩
      rw [checkRead_burstEnded, if_pos fails, noteUncorrectable_lastBad, State.now, readFrom_readChecked.frames]
      rfl
    · next clean =>
      refine ⟨checkRead_counter clean counter, ?_⟩
      rw [checkRead_burstEnded, if_neg clean]
      exact (congrArg BankStore.lastBad (by rw [corrected_eq, correct_bankStore]) :
        (s.corrected ks b).bankStore.lastBad = _)

/-- Settles O44: by the kind of the burst, and by whether it is still waited for. -/
theorem otherBurstsCompleteAndTheNextIsGranted : Obligations.OtherBurstsCompleteAndTheNextIsGranted := by
  intro s ks b busy bytes fails held
  refine ⟨fun write part carries waited => ?_, fun e data job middle kept executing reads => ?_,
    fun e chosen u job middle kept executing reads => ?_, fun c own dropped carries => ?_⟩
  · refine ⟨_, writeBurst_exec ks busy write part carries waited, fun x inside => ?_, ?_⟩
    · rw [State_grantDram_dram]
      exact dramWrite_read _ _ _ x inside
    · exact ⟨State_grantDram_trunk _, State_grantDram_frames _, State_grantDram_counters _, (grantDram_held _).2,
        (grantDram_held _).1, grantDram_arbiter rfl⟩
  · have other : b.isOther = true := by simp [Burst.isOther, BurstJob.isColumn, BurstJob.isPoke, job, middle]
    have ends : (s.burstEnded ks).partEnds b = (s.burstEnded ks).pokeTransferBurst e b := by
      unfold State.partEnds
      rw [job]
      dsimp only
      rw [show (s.burstEnded ks).mgmt.executing = some e from executing]
    refine ⟨_, dramBurstComplete_exec ks busy other, ?_⟩
    rw [if_neg (by simp [kept]), ends]
    simp only [fails, ← burstFails_iff]
    by_cases bad : (s.burstEnded ks).burstFails b = true
    · obtain ⟨left, corrects, queue, trunk, counted, withdrawn⟩ := pokeRead_fails ks reads job bad
      exact ⟨corrects, queue, by rw [if_pos bad]; exact ⟨left, trunk, counted, withdrawn⟩⟩
    · obtain ⟨corrects, queue, joined, trunk, granted⟩ := pokeRead_goesOn ks reads bad middle
      exact ⟨corrects, queue, by rw [if_neg bad]; exact ⟨joined, trunk, granted⟩⟩
  · have other : b.isOther = true := by simp [Burst.isOther, BurstJob.isColumn, BurstJob.isPoke, job, middle]
    have ends : (s.burstEnded ks).partEnds b = (s.burstEnded ks).telemetryReadBurst b := by
      unfold State.partEnds
      rw [job]
    refine ⟨_, dramBurstComplete_exec ks busy other, ?_⟩
    rw [if_neg (by simp [kept]), ends]
    simp only [fails, ← burstFails_iff]
    by_cases bad : (s.burstEnded ks).burstFails b = true
    · obtain ⟨left, corrects, queue, trunk, lengths, counted⟩ := telemetryRead_fails ks executing reads job kept bad
      refine ⟨corrects, queue, ?_⟩
      rw [if_pos bad]
      exact ⟨left, fun before h => h ▸ ⟨trunk, lengths, counted⟩⟩
    · obtain ⟨corrects, queue, joined, trunk, lengths, granted⟩ := telemetryRead_goesOn ks executing reads job kept bad middle
      exact ⟨corrects, queue, by rw [if_neg bad]; exact ⟨joined, trunk, lengths, granted⟩⟩
  · have kinds : b.job.isColumn = false ∧ b.job.isPoke = false ∧ b.job.uncorrectableCounter? = some c := by
      rcases own with ⟨⟨u, job⟩, rfl⟩ | ⟨job, rfl⟩ | ⟨job, rfl⟩ <;> rw [job] <;> exact ⟨rfl, rfl, rfl⟩
    obtain ⟨column, poke, counter⟩ := kinds
    refine ⟨_, droppedRead_exec ks busy column poke dropped carries, ?_⟩
    simp only [fails, ← burstFails_iff]
    exact droppedRead_spec s ks b counter

end Sys2Proof.Machine

namespace Sys2Proof.Machine

/-! ## The products of a burst (R52, R53) -/

theorem coefficients_length (bytes : List Byte) : (coefficients bytes).length = bytes.length / 2 := by
  simp [coefficients, elements, length_splitElements]

theorem coefficients_get (bytes : List Byte) {k : Nat} (hk : k < bytes.length / 2) :
    (coefficients bytes).getD k 0 = signedAt bytes (2 * k) 2 := by
  have inside : k < (splitElements 2 (bytes.length / 2) bytes).length := by rwa [length_splitElements]
  rw [List.getD_eq_getElem _ _ (by rwa [coefficients_length])]
  unfold coefficients elements
  rw [List.getElem_map, getElem_splitElements _ _ _ _ inside]
  rfl

/-- Each product is added to the accumulator of its actuator, and no other one changes (R53). -/
theorem addProducts_get (v : Int) (ms : List Int) (sums : Table (0 : Int)) (j n : Nat) : (addProducts sums v j ms).get n
    = sums.get n + (if j ≤ n ∧ n < j + ms.length then v * ms.getD (n - j) 0 else 0) := by
  induction ms generalizing sums j with
  | nil => rw [addProducts, if_neg (by simp), Int.add_zero]
  | cons m ms ih =>
    rw [addProducts, ih, Table_get_set]
    by_cases first : n = j
    · subst first
      simp
    · rw [if_neg first]
      by_cases later : j + 1 ≤ n ∧ n < j + 1 + ms.length
      · rw [if_pos later, if_pos (by simp only [List.length_cons]; omega), show n - j = n - (j + 1) + 1 by omega,
          List.getD_cons_succ]
      · rw [if_neg later, if_neg (by simp only [List.length_cons]; omega)]

/-- What a burst of coefficients adds to the accumulator of an actuator (R52, R53). -/
def productAt (bytes : List Byte) (v : Int) (g j : Nat) : Int :=
  if 512 * g ≤ j ∧ j < 512 * g + bytes.length / 2 then v * signedAt bytes (2 * (j - 512 * g)) 2 else 0

theorem addProducts_coefficients (sums : Table (0 : Int)) (bytes : List Byte) (v : Int) (g j : Nat) :
    (addProducts sums v (Config.segmentSize * g) (coefficients bytes)).get j = sums.get j + productAt bytes v g j := by
  rw [addProducts_get, coefficients_length, show Config.segmentSize = 512 from rfl]
  unfold productAt
  by_cases inside : 512 * g ≤ j ∧ j < 512 * g + bytes.length / 2
  · rw [if_pos inside, if_pos inside, coefficients_get _ (by omega)]
  · rw [if_neg inside, if_neg inside]

/-- The burst of a column fetch is added to the sums of its context, and nothing else changes (R52). -/
theorem addBurst_eq {s : State} {b : Burst} {c bank : Ix} {i g : Nat} {v : ColumnPass} (job : b.job = .columnFetch c bank i g)
    (pass : s.engine.pass = some v) : s.addBurst b = s.setCtx c { s.ctx c with
      sums := addProducts (s.ctx c).sums v.value (Config.segmentSize * g) (coefficients (s.dramBytes b.address b.length)) } := by
  unfold State.addBurst
  rw [job, pass]

/-! ## The engine at work from a state like another (R13, R15, R17) -/

/-- The engine finds in `u` what it would find in `s`, but for sums, flags, latch and pass. -/
structure State.LikeFor (s u : State) : Prop where
  ports : u.ports = s.ports
  work : u.engine.work = s.engine.work
  refs : u.engine.refs = s.engine.refs
  hold : u.engine.hold = s.engine.hold
  params : u.params = s.params
  counters : ∀ p (q : PortCounter), u.counter (.port p q) = s.counter (.port p q)
  ctx : ∀ x, u.ctx x = { s.ctx x with sums := (u.ctx x).sums, flags := (u.ctx x).flags }

section
variable {s u : State} (like : s.LikeFor u)
include like

theorem State.LikeFor.port (p : Ix) : u.port p = s.port p := port_congr like.ports p

theorem State.LikeFor.seen (x : Ix) : (u.ctx x).seen = (s.ctx x).seen := by rw [like.ctx]
theorem State.LikeFor.slopes (x : Ix) : (u.ctx x).slopes = (s.ctx x).slopes := by rw [like.ctx]
theorem State.LikeFor.state (x : Ix) : (u.ctx x).state = (s.ctx x).state := by rw [like.ctx]

theorem State.LikeFor.indexAt : u.indexAt = s.indexAt := by
  funext p d j
  exact indexAt_congr like.ports p d j

theorem State.LikeFor.differenceAt : u.differenceAt = s.differenceAt := by
  funext p d j
  simp only [State.differenceAt, like.port, like.refs, like.indexAt]

theorem State.LikeFor.correctedAt : u.correctedAt = s.correctedAt := by
  funext p d j
  simp only [State.correctedAt, like.differenceAt]

theorem State.LikeFor.validAt : u.validAt = s.validAt := by
  funext p d j
  simp only [State.validAt, like.port, like.seen, like.indexAt]

theorem State.LikeFor.duplicateAt : u.duplicateAt = s.duplicateAt := by
  funext p d j
  simp only [State.duplicateAt, like.port, like.seen, like.indexAt]

theorem State.LikeFor.treats {t : State} {p : Ix} {d : Descriptor} {k m : Nat} (treated : u.treats t p d k m) :
    s.treats t p d k m := by
  unfold State.treats State.countedTimes at treated ⊢
  simpa only [like.validAt, like.duplicateAt, like.correctedAt, like.differenceAt, like.indexAt, like.seen, like.slopes, like.hold,
    like.counters] using treated

theorem State.LikeFor.releases {t : State} {p : Ix} {d : Descriptor} (released : u.releases t p d) : s.releases t p d := by
  unfold State.releases at released ⊢
  rwa [like.port] at released

theorem State.LikeFor.ownerOf : u.ownerOf = s.ownerOf := by
  funext j
  exact ownerOf_congr like.ports j

theorem State.LikeFor.holdEntry : u.holdEntry = s.holdEntry := by
  funext j
  simp only [State.holdEntry, like.ownerOf, like.port, like.hold]

theorem State.LikeFor.heldAt : u.heldAt = s.heldAt := by
  funext j
  simp only [State.heldAt, like.ownerOf, like.port, like.holdEntry]

theorem State.LikeFor.lostAt : u.lostAt = s.lostAt := by
  funext j
  simp only [State.lostAt, like.ownerOf, like.port, like.holdEntry]

theorem State.LikeFor.slopeTotal : u.slopeTotal = s.slopeTotal := by
  simp only [State.slopeTotal, like.port]

theorem State.LikeFor.ages {t : State} {c : Ix} {i m : Nat} (aged : u.ages t c i m) : s.ages t c i m := by
  unfold State.ages at aged ⊢
  simpa only [like.seen, like.heldAt, like.holdEntry, like.hold] using aged

theorem State.LikeFor.fills {t : State} {c : Ix} {i m : Nat} (filled : u.fills t c i m) : s.fills t c i m := by
  unfold State.fills State.countedTimes State.unseenCount at filled ⊢
  simpa only [like.seen, like.slopes, like.heldAt, like.lostAt, like.holdEntry, like.ownerOf, like.counters] using filled

theorem State.LikeFor.awaits {c : Ix} : u.awaitsSegments c ↔ s.awaitsSegments c := by
  unfold State.awaitsSegments
  rw [like.params, like.ctx]

theorem State.LikeFor.endsJob {t : State} {c : Ix} {i : Nat} (ended : u.endsJob t c i) : s.endsJob t c i := by
  obtain ⟨aged, work, filled⟩ := ended
  rw [like.slopeTotal] at aged filled
  refine ⟨like.ages aged, work, fun awaits => ?_⟩
  obtain ⟨fills, state, job⟩ := filled (like.awaits.mpr awaits)
  exact ⟨like.fills fills, state, job⟩

/-- With the CORRUPT mark and the latch as they were, the engine fetches the same columns. -/
theorem State.LikeFor.ground (c : Ix) (latched : u.isPending .matrixUncorrectable = s.isPending .matrixUncorrectable)
    (flags : (u.ctx c).flags = (s.ctx c).flags) : s.SameGround u c :=
  ⟨like.ports, like.refs, like.params, latched, by unfold Context.isCorrupt Context.hasFlag; rw [flags], by rw [like.ctx]⟩

end

theorem ages_refl (s : State) (c : Ix) (i : Nat) : s.ages s c i i := fun j => by rw [if_neg (by omega)]

theorem fills_refl (s : State) (c : Ix) (i : Nat) : s.fills s c i i :=
  ⟨rfl, fun j => by rw [if_neg (by omega)], fun j _ _ => by omega, fun q => by simp [State.countedTimes, State.unseenCount]⟩

end Sys2Proof.Machine

namespace Sys2Proof.Machine

/-! ## What the engine leaves as it goes on with a packet (R13, R15) -/

section
variable (s : State) (p : Ix) (d : Descriptor)

/-- The release of a packet leaves of a context all but the held packets and the job (R13, R32). -/
theorem releasePacket_ctx (x : Ix) : (s.releasePacket p d).ctx x
    = { s.ctx x with heldCount := ((s.releasePacket p d).ctx x).heldCount, job := ((s.releasePacket p d).ctx x).job } := by
  have tested (u : State) (c : Ix) : (u.completionTest c).ctx x = { u.ctx x with job := ((u.completionTest c).ctx x).job } := by
    unfold State.completionTest
    dsimp only
    split
    · cases c <;> cases x <;> rfl
    · rfl
  unfold State.releasePacket
  dsimp only
  split
  · rw [tested]
    rcases ix_eq_or_other d.ctx x with rfl | rfl
    · rw [State_ctx_setCtx]
      rfl
    · rw [State_ctx_setCtx_other]
      rfl
  · rfl

theorem releasePacket_other : (s.releasePacket p d).ctx d.ctx.other = s.ctx d.ctx.other := by
  have tested (u : State) (c : Ix) : (u.completionTest c).ctx c.other = u.ctx c.other := by
    unfold State.completionTest
    dsimp only
    split
    · exact State_ctx_setCtx_other _ c _
    · rfl
  unfold State.releasePacket
  dsimp only
  split
  · rw [tested, State_ctx_setCtx_other]
    rfl
  · rfl

/-- The treatment of a slope concerns its packet's context, and there neither the state nor the CORRUPT mark (R15). -/
theorem treatSlope_contexts (k : Nat) : (s.treatSlope p d k).2.ctx d.ctx.other = s.ctx d.ctx.other
    ∧ ((s.treatSlope p d k).2.ctx d.ctx).state = (s.ctx d.ctx).state
    ∧ ((s.treatSlope p d k).2.ctx d.ctx).isCorrupt = (s.ctx d.ctx).isCorrupt := by
  have accept (i : Nat) (v : Int) : (s.acceptSlope p d.ctx i v).ctx d.ctx.other = s.ctx d.ctx.other
      ∧ ((s.acceptSlope p d.ctx i v).ctx d.ctx).state = (s.ctx d.ctx).state := by
    unfold State.acceptSlope State.bumpIf Context.addFlagIf
    dsimp only
    split <;> cases d.ctx <;> exact ⟨rfl, rfl⟩
  unfold State.treatSlope
  dsimp only
  split
  · exact ⟨rfl, rfl, rfl⟩
  · split
    · exact ⟨rfl, rfl, rfl⟩
    · obtain ⟨ground, -⟩ := acceptSlope_spec s p d.ctx (s.localIndex p (d.first + k)) ((s.port p).slopeAt k).toInt
      exact ⟨(accept _ _).1, (accept _ _).2, ground.corrupt⟩

/-- Going on with a packet leaves the other context, and the state and the CORRUPT mark of its own (R13, R15). -/
theorem continuePacket_contexts (k n : Nat) : (s.continuePacket p d k n).ctx d.ctx.other = s.ctx d.ctx.other
    ∧ ((s.continuePacket p d k n).ctx d.ctx).state = (s.ctx d.ctx).state
    ∧ ((s.continuePacket p d k n).ctx d.ctx).isCorrupt = (s.ctx d.ctx).isCorrupt := by
  induction n generalizing s k with
  | zero =>
    refine ⟨releasePacket_other _ p d, ?_, ?_⟩
    · rw [State.continuePacket, releasePacket_ctx]
      rfl
    · rw [State.continuePacket, releasePacket_ctx]
      rfl
  | succ n ih =>
    obtain ⟨other, state, corrupt⟩ := treatSlope_contexts s p d k
    unfold State.continuePacket
    dsimp only
    split
    · have fetched (w : State) (i : Nat) (v : Int) (x : Ix) : (w.startColumn d.ctx i v).ctx x = w.ctx x := by
        obtain ⟨-, -, frames, -⟩ := startColumn_spec w d.ctx i v
        exact ctx_congr frames x
      rw [fetched, fetched]
      exact ⟨other, state, corrupt⟩
    · obtain ⟨other', state', corrupt'⟩ := ih (s.treatSlope p d k).2 (k + 1)
      exact ⟨other'.trans other, state'.trans state, corrupt'.trans corrupt⟩

end

/-! ## What the engine leaves as it goes on with a job (R17) -/

/-- A context that becomes ACCUMULATED and waits for its first segment is all that changes (R34, R81). -/
theorem accumulated_awaits_other {s : State} {c : Ix} (awaits : s.awaitsSegments c) :
    (s.accumulated c).ctx c.other = s.ctx c.other := by
  obtain ⟨middle, actuators, pending, stored, empty⟩ := awaits
  generalize hu : (s.setCtx c { s.ctx c with state := .accumulated, job := .ended }) = u
  have ctx : u.ctx c = { s.ctx c with state := .accumulated, job := .ended } := by rw [← hu, State_ctx_setCtx]
  have params : u.params = s.params := by rw [← hu]; rfl
  have merged : u.mergeAllStored c = u.setCtx c { u.ctx c with storedOrder := [] } := by
    unfold State.mergeAllStored
    rw [show (u.ctx c).storedOrder = [] by rw [ctx]; exact stored]
    rfl
  have waiting : (u.setCtx c { u.ctx c with storedOrder := [] }).allMerged c = false := by
    unfold State.allMerged State.segments
    rw [List.all_eq_false]
    refine ⟨0, ?_, ?_⟩
    · rw [State_setCtx_params, params]
      simp only [segmentCount, ceilDiv, Config.segmentSize, List.mem_range]
      omega
    · rw [State_ctx_setCtx, ctx]
      simp [empty]
  unfold State.accumulated State.afterAccumulated
  rw [hu, params, middle, ctx]
  dsimp only
  rw [pending, merged, if_neg (by simp), if_neg (by simp [waiting]), State_ctx_setCtx_other, ← hu, State_ctx_setCtx_other]

/-- A substitution leaves the other context, and of its own the sums, the CORRUPT mark and what is waited for (R17). -/
theorem substitute_contexts (s : State) (c : Ix) (i : Nat) : (s.substitute c i).2.ctx c.other = s.ctx c.other
    ∧ ((s.substitute c i).2.ctx c).isCorrupt = (s.ctx c).isCorrupt
    ∧ (s.awaitsSegments c → (s.substitute c i).2.awaitsSegments c) ∧ (s.substitute c i).2.engine.pass = s.engine.pass := by
  obtain ⟨ground, -⟩ := substitute_spec s c i
  have rest : (s.substitute c i).2.ctx c.other = s.ctx c.other
      ∧ ((s.substitute c i).2.ctx c).deliveryPending = (s.ctx c).deliveryPending
      ∧ ((s.substitute c i).2.ctx c).storedOrder = (s.ctx c).storedOrder
      ∧ ((s.substitute c i).2.ctx c).slots = (s.ctx c).slots ∧ (s.substitute c i).2.engine.pass = s.engine.pass := by
    unfold State.substitute
    dsimp only
    split <;> cases c <;> exact ⟨rfl, rfl, rfl, rfl, rfl⟩
  obtain ⟨other, pending, stored, slots, pass⟩ := rest
  refine ⟨other, ground.corrupt, fun awaits => ?_, pass⟩
  unfold State.awaitsSegments at awaits ⊢
  rwa [pending, stored, slots, ground.params]

/-- The end of a job leaves the engine as it is (R17, R34). -/
theorem accumulated_engine (s : State) (c : Ix) :
    (s.accumulated c).engine.work = s.engine.work ∧ (s.accumulated c).engine.pass = s.engine.pass := by
  have same := (accumulated_moves s c).frame .engine (by decide)
  simp only [Part.same, Prod.mk.injEq] at same
  obtain ⟨-, work, pass⟩ := same
  exact ⟨work.symm, pass.symm⟩

/-- Going on with a job, as far as a fetch or to the wait for segments, leaves the other context, and the sums and the CORRUPT mark
of its own; with nothing fetched also the pass (R17, R34, R52). -/
theorem continueJob_keeps (s : State) (c : Ix) (i n : Nat) :
    let t := s.continueJob c i n
    (t.engine.work = .idle → t.engine.pass = s.engine.pass)
    ∧ (t.engine.work ≠ .idle ∨ s.awaitsSegments c → t.ctx c.other = s.ctx c.other ∧ (t.ctx c).sums = (s.ctx c).sums
      ∧ (t.ctx c).isCorrupt = (s.ctx c).isCorrupt) := by
  induction n generalizing s i with
  | zero =>
    dsimp only [State.continueJob]
    obtain ⟨work, pass⟩ := accumulated_engine { s with engine := { s.engine with work := .idle } } c
    refine ⟨fun _ => pass, fun h => ?_⟩
    have awaits := h.resolve_left (fun busy => busy work)
    obtain ⟨ctx, -⟩ := accumulated_awaits { s with engine := { s.engine with work := .idle } } c awaits
    rw [ctx]
    exact ⟨accumulated_awaits_other (s := { s with engine := { s.engine with work := .idle } }) awaits, rfl, rfl⟩
  | succ n ih =>
    dsimp only
    unfold State.continueJob
    split
    · exact ih s (i + 1)
    · obtain ⟨other, corrupt, awaits, pass⟩ := substitute_contexts s c i
      have sums := substitute_sums s c i
      dsimp only
      split
      · generalize hw : ({ (s.substitute c i).2 with
          engine := { (s.substitute c i).2.engine with work := .job c (i + 1) } } : State) = w
        obtain ⟨-, engine, frames, -⟩ := startColumn_spec w c i (s.substitute c i).1
        rw [engine, ctx_congr frames, ctx_congr frames, ← hw]
        exact ⟨fun idle => by simp at idle, fun _ => ⟨other, sums, corrupt⟩⟩
      · obtain ⟨pass', kept⟩ := ih (s.substitute c i).2 (i + 1)
        refine ⟨fun idle => (pass' idle).trans pass, fun h => ?_⟩
        obtain ⟨other', sums', corrupt'⟩ := kept (h.imp id awaits)
        exact ⟨other'.trans other, sums'.trans sums, corrupt'.trans corrupt⟩

/-! ## What the engine leaves of a checked read (R39, R52) -/

/-- `t` comes from `s` by work that spares what a read's check has found, whatever bursts it has queued. -/
abbrev State.SparesCounts (s t : State) : Prop := s.SparesReads (t.setArbiter s.arbiter)

theorem State.SparesReads.counts {s t : State} (h : s.SparesReads t) : s.SparesCounts t :=
  ⟨h.counters, h.pending, h.latched, h.reports, fun _ hx => hx⟩

theorem State.SparesCounts.after {s u t : State} (k : u.SparesCounts t) (h : s.SparesCounts u) : s.SparesCounts t := by
  have sameArbiter : (u.setArbiter s.arbiter).SparesReads (t.setArbiter s.arbiter) :=
    ⟨k.counters, k.pending, k.latched, k.reports, fun _ hx => hx⟩
  exact h.trans sameArbiter

section
variable (s : State)

theorem engine_sparesReads (g : Engine) : s.SparesReads { s with engine := g } := .of_same rfl rfl rfl

theorem startColumn_sparesCounts (c : Ix) (i : Nat) (v : Int) : s.SparesCounts (s.startColumn c i v) := by
  obtain ⟨-, -, -, -, -, events, counters⟩ := startColumn_spec s c i v
  exact .of_same (congrArg Events.pending events) rfl counters

theorem continuePacket_sparesCounts (p : Ix) (d : Descriptor) (k n : Nat) : s.SparesCounts (s.continuePacket p d k n) := by
  induction n generalizing s k with
  | zero => exact ((releasePacket_sparesReads _ p d).after (engine_sparesReads s _)).counts
  | succ n ih =>
    have treated := (treatSlope_sparesReads s p d k).counts
    unfold State.continuePacket
    dsimp only
    split
    · exact (startColumn_sparesCounts _ _ _ _).after ((engine_sparesReads _ _).counts.after treated)
    · exact (ih _ _).after treated

theorem continueJob_sparesCounts (c : Ix) (i n : Nat) : s.SparesCounts (s.continueJob c i n) := by
  induction n generalizing s i with
  | zero => exact ((accumulated_sparesReads _ c).after (engine_sparesReads s _)).counts
  | succ n ih =>
    have filled := (substitute_sparesReads s c i).counts
    unfold State.continueJob
    split
    · exact ih _ _
    · dsimp only
      split
      · exact (startColumn_sparesCounts _ _ _ _).after ((engine_sparesReads _ _).counts.after filled)
      · exact (ih _ _).after filled

theorem continueWork_sparesCounts : s.SparesCounts s.continueWork := by
  unfold State.continueWork
  split
  · exact (State.SparesReads.refl s).counts
  · exact continuePacket_sparesCounts s _ _ _ _
  · exact continueJob_sparesCounts s _ _ _
  · dsimp only
    split
    · exact ((releasePacket_sparesReads _ _ _).after (engine_sparesReads s _)).counts
    · exact (engine_sparesReads s _).counts

end

/-! ## No column is fetched once MATRIX_UNCORRECTABLE is latched (R55) -/

theorem fetches_latched {s : State} (latched : s.isPending .matrixUncorrectable = true) (c : Ix) : s.fetches c = false := by
  simp [State.fetches, latched]

theorem fatal_matrixUncorrectable : hasEvent fatalSet .matrixUncorrectable = true := by decide

section
variable {s : State} (latched : s.isPending .matrixUncorrectable = true)
include latched

theorem continuePacket_latched (p : Ix) (d : Descriptor) (k n : Nat) :
    (s.continuePacket p d k n).engine.work = .idle ∧ (s.continuePacket p d k n).arbiter = s.arbiter := by
  induction n generalizing s k with
  | zero =>
    obtain ⟨-, -, engine, arbiter, -⟩ := releasePacket_spec { s with engine := { s.engine with work := .idle } } p d
    exact ⟨by rw [State.continuePacket, engine], by rw [State.continuePacket, arbiter]⟩
  | succ n ih =>
    have later := (treatSlope_sparesReads s p d k).latched _ fatal_matrixUncorrectable latched
    have arbiter := ((treatSlope_moves s p d k).frame .arbiter (by decide)).symm
    unfold State.continuePacket
    dsimp only
    rw [if_neg (by simp [fetches_latched later])]
    obtain ⟨work, kept⟩ := ih later (k + 1)
    exact ⟨work, kept.trans arbiter⟩

theorem continueJob_latched (c : Ix) (i n : Nat) : (s.continueJob c i n).engine.work = .idle
    ∧ ∀ x ∈ (s.continueJob c i n).arbiter.columnFetch, x ∈ s.arbiter.columnFetch := by
  induction n generalizing s i with
  | zero =>
    exact ⟨(accumulated_engine _ c).1,
      (accumulated_sparesReads { s with engine := { s.engine with work := .idle } } c).columns⟩
  | succ n ih =>
    have later := (substitute_sparesReads s c i).latched _ fatal_matrixUncorrectable latched
    unfold State.continueJob
    split
    · exact ih latched (i + 1)
    · dsimp only
      rw [if_neg (by simp [fetches_latched later])]
      obtain ⟨work, columns⟩ := ih later (i + 1)
      exact ⟨work, fun x hx => (substitute_sparesReads s c i).columns x (columns x hx)⟩

/-- The engine goes on without a fetch: the pass in hand and the column-fetch queue get nothing new (R55). -/
theorem continueWork_latched : s.continueWork.engine.pass = s.engine.pass
    ∧ ∀ x ∈ s.continueWork.arbiter.columnFetch, x ∈ s.arbiter.columnFetch := by
  unfold State.continueWork
  split
  · exact ⟨rfl, fun _ hx => hx⟩
  · next p d k _ =>
    obtain ⟨work, arbiter⟩ := continuePacket_latched latched p d k (d.count - k)
    obtain ⟨-, pass, -⟩ := continuePacket_keeps s p d k (d.count - k)
    exact ⟨pass work, by rw [arbiter]; exact fun _ hx => hx⟩
  · next c i _ =>
    obtain ⟨work, columns⟩ := continueJob_latched latched c i (s.slopeTotal - i)
    obtain ⟨pass, -⟩ := continueJob_keeps s c i (s.slopeTotal - i)
    exact ⟨pass work, columns⟩
  · dsimp only
    split
    · next p d _ =>
      obtain ⟨-, -, engine, arbiter, -⟩ := releasePacket_spec { s with engine := { s.engine with work := .idle } } p d
      rw [engine, arbiter]
      exact ⟨rfl, fun _ hx => hx⟩
    · exact ⟨rfl, fun _ hx => hx⟩

end

end Sys2Proof.Machine

namespace Sys2Proof.Machine

/-! ## A column burst is delivered (R39, R52, R54) -/

theorem columnBurstDelivered_exec {s : State} {b : Burst} (ks : List Strike) (busy : s.arbiter.inProgress = some b)
    (column : b.job.isColumn = true) : exec (.columnBurstDelivered ks) s = .next ((s.burstEnded ks).columnDelivered b) := by
  show execColumnBurstDelivered ks s = _
  unfold execColumnBurstDelivered
  rw [takeBurst_struck ks busy column]

section
variable {s u : State} (like : s.LikeFor u)
include like

theorem State.LikeFor.endPass : s.LikeFor u.endPass :=
  ⟨like.ports, like.work, like.refs, like.hold, like.params, like.counters, like.ctx⟩

theorem State.LikeFor.setCtx (c : Ix) (sums : Table (0 : Int)) (flags : BitVec 16) :
    s.LikeFor (u.setCtx c { u.ctx c with sums := sums, flags := flags }) := by
  refine ⟨like.ports, like.work, like.refs, like.hold, like.params, like.counters, fun x => ?_⟩
  rcases ix_eq_or_other c x with rfl | rfl
  · rw [State_ctx_setCtx, like.ctx]
  · rw [State_ctx_setCtx_other]
    exact like.ctx _

/-- Nothing of the engine's and of the contexts' is in the hands of the arbiter, of events and of most counters. -/
theorem State.LikeFor.of_same {t : State} (ports : t.ports = u.ports) (engine : t.engine = u.engine) (params : t.params = u.params)
    (frames : t.frames = u.frames) (counters : ∀ p (q : PortCounter), t.counter (.port p q) = u.counter (.port p q)) :
    s.LikeFor t := by
  refine ⟨ports.trans like.ports, by rw [engine, like.work], by rw [engine, like.refs], by rw [engine, like.hold],
    params.trans like.params, fun p q => (counters p q).trans (like.counters p q), fun x => ?_⟩
  rw [ctx_congr frames]
  exact like.ctx x

theorem State.LikeFor.grantDram : s.LikeFor u.grantDram :=
  like.of_same (State_grantDram_ports u) (State_grantDram_engine u) (State_grantDram_params u) (State_grantDram_frames u)
    fun _ _ => counter_congr (State_grantDram_counters u) _

theorem State.LikeFor.raise (e : Event) : s.LikeFor (u.raise e) :=
  like.of_same (State_raise_ports u e) (State_raise_engine u e) (State_raise_params u e) (State_raise_frames u e)
    fun _ _ => counter_raise u e (by simp) (by simp) (by simp)

end

theorem likeFor_refl (s : State) : s.LikeFor s := ⟨rfl, rfl, rfl, rfl, rfl, fun _ _ => rfl, fun _ => rfl⟩

/-- The check of a burst leaves the engine its work and all that it reads (R39). -/
theorem checkRead_like (s : State) (ks : List Strike) (b : Burst) : s.LikeFor ((s.burstEnded ks).checkRead b) := by
  obtain ⟨ports, engine, params, -, frames, -, -, counters⟩ := checkRead_spec (s.burstEnded ks) b
  exact (likeFor_refl s).of_same ports engine params frames counters

/-- The check of a column burst and the grant of the next one leave the engine its work and all that it reads (R39, R58). -/
theorem checkRead_granted_like (s : State) (ks : List Strike) (b : Burst) :
    let u := ((s.burstEnded ks).checkRead b).grantDram
    s.LikeFor u ∧ u.engine = s.engine ∧ u.frames = s.frames ∧ u.isPending .matrixUncorrectable = s.isPending .matrixUncorrectable
    ∧ u.dram = (s.strike ks).dram ∧ u.arbiter = s.arbiter.completed := by
  have read := readFrom_checkRead s ks b
  obtain ⟨-, engine, -, -, -, latched, -, -⟩ := checkRead_spec (s.burstEnded ks) b
  refine ⟨(checkRead_like s ks b).grantDram, (State_grantDram_engine _).trans engine,
    (State_grantDram_frames _).trans read.frames, ?_, (State_grantDram_dram _).trans read.dram, read.granted⟩
  unfold State.isPending at latched ⊢
  rw [State_grantDram_events, latched]
  rfl

/-- The state in which a burst of a column fetch has been checked and added, and the next one granted (R39, R52, R58). -/
def State.burstAdded (s : State) (ks : List Strike) (b : Burst) : State := ((s.burstEnded ks).checkRead b).grantDram.addBurst b

section
variable {s : State} {ks : List Strike} {b : Burst} {c bank : Ix} {i g : Nat} {v : ColumnPass}
  (job : b.job = .columnFetch c bank i g) (pass : s.engine.pass = some v)
include job pass

theorem burstAdded_spec :
    let u := s.burstAdded ks b
    s.LikeFor u ∧ u.engine = s.engine ∧ u.arbiter = s.arbiter.completed
    ∧ u.isPending .matrixUncorrectable = s.isPending .matrixUncorrectable
    ∧ u.ctx c.other = s.ctx c.other ∧ (∀ x, (u.ctx x).flags = (s.ctx x).flags)
    ∧ (∀ j, (u.ctx c).sums.get j = (s.ctx c).sums.get j + productAt (s.dramBytes b.address b.length) v.value g j)
    ∧ ((s.burstEnded ks).checkRead b).SparesReads u ∧ u.dram = (s.strike ks).dram := by
  obtain ⟨like, engine, frames, latched, dram, arbiter⟩ := checkRead_granted_like s ks b
  have spared := grantDram_sparesReads ((s.burstEnded ks).checkRead b)
  dsimp only at like engine frames latched dram arbiter ⊢
  unfold State.burstAdded
  generalize ((s.burstEnded ks).checkRead b).grantDram = w at *
  have bytes : w.dramBytes b.address b.length = s.dramBytes b.address b.length := by
    unfold State.dramBytes
    rw [dram]
    rfl
  rw [addBurst_eq job (engine ▸ pass), bytes, ctx_congr frames]
  refine ⟨?_, engine, arbiter, latched, ?_, fun x => ?_, fun j => ?_, ?_, dram⟩
  · have := like.setCtx c (addProducts (s.ctx c).sums v.value (Config.segmentSize * g)
      (coefficients (s.dramBytes b.address b.length))) (w.ctx c).flags
    rwa [ctx_congr frames] at this
  · rw [State_ctx_setCtx_other, ctx_congr frames]
  · rcases ix_eq_or_other c x with rfl | rfl
    · rw [State_ctx_setCtx]
    · rw [State_ctx_setCtx_other, ctx_congr frames]
  · rw [State_ctx_setCtx]
    exact addProducts_coefficients _ _ _ _ _
  · exact (setCtx_moves w c _).sparesReads.after spared

end

/-- What a burst with no double-bit error that is still waited for makes of the state (R52). -/
theorem columnDelivered_added {s : State} {ks : List Strike} {b : Burst} (clean : ¬(s.burstEnded ks).burstFails b = true)
    (kept : b.dropped = false) : (s.burstEnded ks).columnDelivered b
      = if b.last then (s.burstAdded ks b).endPass.continueWork else s.burstAdded ks b := by
  unfold State.columnDelivered State.burstAdded
  dsimp only
  rw [if_neg clean, if_neg (by simp [kept])]

/-- The engine goes on from a state like another with a packet (R13, R15). -/
theorem State.LikeFor.continues_packet {s u : State} {a : Arbiter} (like : s.LikeFor u) {p : Ix} {d : Descriptor} {k : Nat}
    (work : s.engine.work = .packet p d k) (inside : k ≤ d.count) (arbiter : u.arbiter = a)
    (latched : u.isPending .matrixUncorrectable = s.isPending .matrixUncorrectable)
    (flags : (u.ctx d.ctx).flags = (s.ctx d.ctx).flags) :
    u.continueWork = u.continuePacket p d k (d.count - k) ∧ s.goesOn u.continueWork a p d k := by
  have eq : u.continueWork = u.continuePacket p d k (d.count - k) := by
    unfold State.continueWork
    rw [like.work, work]
  refine ⟨eq, ?_⟩
  rw [eq]
  exact continuePacket_goesOn (d.count - k) k u (Nat.le_refl k) (by omega) arbiter (like.ground d.ctx latched flags)
    (like.treats (treats_refl u p d k)) (fun x _ _ => by omega)

/-- The engine goes on from a state like another with a job (R17). -/
theorem State.LikeFor.continues_job {s u : State} {a : Arbiter} (like : s.LikeFor u) {c : Ix} {k : Nat}
    (work : s.engine.work = .job c k) (inside : k ≤ s.slopeTotal) (arbiter : u.arbiter = a)
    (latched : u.isPending .matrixUncorrectable = s.isPending .matrixUncorrectable)
    (flags : (u.ctx c).flags = (s.ctx c).flags) :
    u.continueWork = u.continueJob c k (s.slopeTotal - k) ∧ s.goesOnFilling u.continueWork a c k := by
  have eq : u.continueWork = u.continueJob c k (s.slopeTotal - k) := by
    unfold State.continueWork
    rw [like.work, work, ← like.slopeTotal]
  refine ⟨eq, ?_⟩
  rw [eq]
  exact continueJob_goesOn (s.slopeTotal - k) k u (Nat.le_refl k) (by omega) arbiter (like.ground c latched flags)
    (like.ages (ages_refl u c k)) (like.fills (fills_refl u c k)) (like.state c) like.awaits.mpr (fun x _ _ => by omega)

/-- Work that follows the check corrects as the check has, whatever bursts it queues (R39). -/
theorem corrects_of_sparesCounts {s t : State} {ks : List Strike} {b : Burst}
    (spared : ((s.burstEnded ks).checkRead b).SparesCounts t) (errors : t.dram = (s.strike ks).dram) : s.corrects t ks b :=
  (readFrom_checkRead s ks b).corrects (t := t.setArbiter ((s.burstEnded ks).checkRead b).arbiter) spared
    (errors.trans (readFrom_checkRead s ks b).dram.symm)

theorem continueWork_dram (s : State) : s.continueWork.dram = s.dram := by
  have moved := continueWork_moves s
  have memory := moved.frame .memory (by decide)
  have errors := moved.frame .errors (by decide)
  have epoch := moved.frame .epoch (by decide)
  simp only [Part.same] at memory errors epoch
  cases hs : s.dram with
  | mk _ _ _ =>
    cases ht : s.continueWork.dram with
    | mk _ _ _ =>
      rw [hs, ht] at memory errors epoch
      dsimp only at memory errors epoch
      rw [memory, errors, epoch]

section
variable {s : State} {ks : List Strike} {b : Burst} {c bank : Ix} {i g : Nat} {v : ColumnPass}
  (job : b.job = .columnFetch c bank i g) (pass : s.engine.pass = some v)
include job pass

/-- The last burst of a column of a packet: the engine goes on with the next slope (R13, R15, R52). -/
theorem burstAdded_packet {p : Ix} {d : Descriptor} {k : Nat} (work : s.engine.work = .packet p d k) (inside : k ≤ d.count) :
    let t := (s.burstAdded ks b).endPass.continueWork
    (∀ j, (t.ctx c).sums.get j = (s.ctx c).sums.get j + productAt (s.dramBytes b.address b.length) v.value g j)
    ∧ s.goesOn t s.arbiter.completed p d k ∧ (t.engine.work = .idle → t.engine.pass = none)
    ∧ (k = d.count ∨ d.ctx = c →
      t.ctx c.other = { s.ctx c.other with heldCount := (t.ctx c.other).heldCount, job := (t.ctx c.other).job }) := by
  obtain ⟨like, -, arbiter, latched, other, flags, sums, -, -⟩ := burstAdded_spec (ks := ks) job pass
  obtain ⟨eq, goes⟩ := like.endPass.continues_packet work inside arbiter latched (flags d.ctx)
  obtain ⟨-, pass', sums'⟩ := continuePacket_keeps (s.burstAdded ks b).endPass p d k (d.count - k)
  dsimp only at *
  refine ⟨fun j => ?_, goes, ?_, fun h => ?_⟩
  · rw [eq, sums']
    exact sums j
  · rw [eq]
    exact pass'
  · rw [eq]
    rcases h with rfl | rfl
    · generalize hw : ({ (s.burstAdded ks b).endPass with
        engine := { (s.burstAdded ks b).endPass.engine with work := .idle } } : State) = w
      have released := releasePacket_ctx w p d c.other
      rw [show w.ctx c.other = s.ctx c.other by rw [← hw]; exact other] at released
      rw [Nat.sub_self, State.continuePacket, hw]
      exact released
    · obtain ⟨kept, -⟩ := continuePacket_contexts (s.burstAdded ks b).endPass p d k (d.count - k)
      rw [kept]
      exact other.trans (by rw [show (s.burstAdded ks b).endPass.ctx d.ctx.other = s.ctx d.ctx.other from other])

/-- The last burst of a column of a job: the engine goes on with the next index (R17, R52). -/
theorem burstAdded_job {k : Nat} (work : s.engine.work = .job c k) (inside : k ≤ s.slopeTotal) :
    let t := (s.burstAdded ks b).endPass.continueWork
    s.goesOnFilling t s.arbiter.completed c k ∧ (t.engine.work = .idle → t.engine.pass = none)
    ∧ (t.engine.work ≠ .idle ∨ s.awaitsSegments c →
      (∀ j, (t.ctx c).sums.get j = (s.ctx c).sums.get j + productAt (s.dramBytes b.address b.length) v.value g j)
      ∧ t.ctx c.other = s.ctx c.other) := by
  obtain ⟨like, -, arbiter, latched, other, flags, sums, -, -⟩ := burstAdded_spec (ks := ks) job pass
  obtain ⟨eq, goes⟩ := like.endPass.continues_job work inside arbiter latched (flags c)
  obtain ⟨pass', kept⟩ := continueJob_keeps (s.burstAdded ks b).endPass c k (s.slopeTotal - k)
  dsimp only at *
  refine ⟨goes, by rw [eq]; exact pass', fun h => ?_⟩
  rw [eq] at h ⊢
  obtain ⟨other', sums', -⟩ := kept (h.imp id like.endPass.awaits.mpr)
  rw [other', sums']
  exact ⟨sums, other⟩

end

/-- An engine that drains has nothing in hand afterwards, and the ring releases the packet that drained (R54). -/
theorem continueWork_draining {s : State} {packet : Option (Ix × Descriptor)} (work : s.engine.work = .draining packet) :
    let t := s.continueWork
    t.engine.work = .idle ∧ t.engine.pass = s.engine.pass ∧ t.arbiter = s.arbiter
    ∧ (∀ x, (t.ctx x).sums = (s.ctx x).sums ∧ (t.ctx x).state = (s.ctx x).state ∧ (t.ctx x).flags = (s.ctx x).flags)
    ∧ (∀ p d, packet = some (p, d) → s.releases t p d) ∧ (packet = none → t.ports = s.ports) := by
  unfold State.continueWork
  rw [work]
  cases packet with
  | none => exact ⟨rfl, rfl, rfl, (fun _ => ⟨rfl, rfl, rfl⟩), (fun _ _ h => nomatch h), fun _ => rfl⟩
  | some x =>
    obtain ⟨p, d⟩ := x
    obtain ⟨releases, contexts, engine, arbiter, -, -⟩ :=
      releasePacket_spec { s with engine := { s.engine with work := .idle } } p d
    dsimp only
    refine ⟨by rw [engine], by rw [engine], by rw [arbiter], fun x => ?_, fun p' d' h => ?_, fun h => by cases h⟩
    · obtain ⟨-, -, flags, sums, state⟩ := contexts x
      exact ⟨sums, state, flags⟩
    · cases h
      exact releases

/-- Settles O20: the burst is added, and the engine waits for the next one or goes on; a burst given up only ends the draining. -/
theorem columnBurstAddsItsProducts : Obligations.ColumnBurstAddsItsProducts := by
  refine ⟨fun s ks b c bank i g v busy job kept sound pass => ?_, fun s ks b packet busy column dropped work sound => ?_⟩
  · have clean : ¬(s.burstEnded ks).burstFails b = true := by
      rw [burstFails_iff]
      rintro ⟨k, member, double⟩
      exact sound k member double
    obtain ⟨like, engine, arbiter, -, other, -, sums, spared, dram⟩ := burstAdded_spec (ks := ks) job pass
    refine ⟨_, columnBurstDelivered_exec ks busy (by rw [job]; rfl), ?_⟩
    rw [columnDelivered_added clean kept]
    simp only [productAt, dramBytes_length] at sums
    cases last : b.last with
    | false =>
      rw [if_neg (by simp)]
      refine ⟨corrects_of_sparesCounts spared.counts dram, ?_, fun h => by simp at h, fun h => by simp at h⟩
      exact fun _ => ⟨sums, other, congrArg Engine.pass engine, congrArg Engine.work engine, like.ports, arbiter⟩
    | true =>
      rw [if_pos rfl]
      refine ⟨corrects_of_sparesCounts ((continueWork_sparesCounts _).after ((engine_sparesReads _ _).counts.after spared.counts))
        ((continueWork_dram _).trans dram), fun h => by simp at h, fun _ p d k work inside => ?_, fun _ k work inside => ?_⟩
      · have goes := burstAdded_packet (ks := ks) job pass work inside
        simpa only [productAt, dramBytes_length] using goes
      · have goes := burstAdded_job (ks := ks) job pass work inside
        simpa only [productAt, dramBytes_length] using goes
  · have clean : ¬(s.burstEnded ks).burstFails b = true := by
      rw [burstFails_iff]
      rintro ⟨k, member, double⟩
      exact sound k member double
    obtain ⟨like, engine, frames, -, dram, arbiter⟩ := checkRead_granted_like s ks b
    obtain ⟨idle, -, kept, contexts, releases, ports⟩ := continueWork_draining (like.work.trans work)
    have spared := (grantDram_sparesReads ((s.burstEnded ks).checkRead b)).counts
    refine ⟨_, columnBurstDelivered_exec ks busy column, ?_⟩
    unfold State.columnDelivered
    dsimp only
    rw [if_neg clean, if_pos dropped]
    refine ⟨corrects_of_sparesCounts ((continueWork_sparesCounts _).after spared) ((continueWork_dram _).trans dram), idle,
      kept.trans arbiter, fun c => ?_, fun p d h => like.releases (releases p d h), fun h => (ports h).trans like.ports⟩
    obtain ⟨sums, state, -⟩ := contexts c
    rw [sums, state, ctx_congr frames]
    exact ⟨rfl, rfl⟩

end Sys2Proof.Machine

namespace Sys2Proof.Machine

/-! ## An uncorrectable column burst (R39, R55) -/

theorem markCorrupt_like {s u : State} (like : s.LikeFor u) (c : Ix) : s.LikeFor (u.markCorrupt c) := by
  unfold State.markCorrupt Context.addFlagIf Context.addFlag
  dsimp only
  split
  · exact like.setCtx c (u.ctx c).sums _
  · exact like.setCtx c (u.ctx c).sums (u.ctx c).flags

theorem markCorrupt_other (s : State) (c : Ix) : (s.markCorrupt c).ctx c.other = s.ctx c.other := State_ctx_setCtx_other _ _ _

theorem markCorrupt_own (s : State) (c : Ix) : ((s.markCorrupt c).ctx c).sums = (s.ctx c).sums
    ∧ ((s.ctx c).isOpen = true → (s.ctx c).state ≠ .done → ((s.markCorrupt c).ctx c).isCorrupt = true) := by
  unfold State.markCorrupt
  dsimp only
  rw [State_ctx_setCtx]
  refine ⟨?_, fun isOpen notDone => ?_⟩
  · unfold Context.addFlagIf
    split <;> rfl
  · unfold Context.isCorrupt
    rw [hasFlag_addFlagIf]
    simp [isOpen, notDone]

/-- Both contexts are marked: those that are open and not DONE are CORRUPT (R55). -/
theorem markCorrupt_both (s : State) (x : Ix) :
    let t := (s.markCorrupt .zero).markCorrupt .one
    (t.ctx x).sums = (s.ctx x).sums ∧ ((s.ctx x).isOpen = true → (s.ctx x).state ≠ .done → (t.ctx x).isCorrupt = true) := by
  cases x with
  | zero =>
    have second : ((s.markCorrupt .zero).markCorrupt .one).ctx .zero = (s.markCorrupt .zero).ctx .zero :=
      markCorrupt_other (s.markCorrupt .zero) .one
    have first := markCorrupt_own s .zero
    dsimp only
    rwa [second]
  | one =>
    have second := markCorrupt_own (s.markCorrupt .zero) .one
    rwa [show (s.markCorrupt .zero).ctx .one = s.ctx .one from markCorrupt_other s .zero] at second

/-- What an uncorrectable column burst makes of the state before the engine goes on (R39, R55). -/
def State.burstSpoilt (s : State) (ks : List Strike) (b : Burst) : State :=
  ((s.burstEnded ks).checkRead b).matrixFails.grantDram.endPass

theorem columnDelivered_spoilt {s : State} {ks : List Strike} {b : Burst} (fails : (s.burstEnded ks).burstFails b = true) :
    (s.burstEnded ks).columnDelivered b = (s.burstSpoilt ks b).continueWork := by
  unfold State.columnDelivered
  dsimp only
  rw [if_pos fails]
  rfl

theorem burstSpoilt_like (s : State) (ks : List Strike) (b : Burst) :
    let u := s.burstSpoilt ks b
    s.LikeFor u ∧ (∀ x, (u.ctx x).sums = (s.ctx x).sums
      ∧ ((s.ctx x).isOpen = true → (s.ctx x).state ≠ .done → (u.ctx x).isCorrupt = true))
    ∧ u.isPending .matrixUncorrectable = true ∧ u.engine.pass = none
    ∧ ∀ x ∈ u.arbiter.columnFetch, x.job.isColumn = false := by
  have like := checkRead_like s ks b
  unfold State.burstSpoilt
  have frames := (readFrom_checkRead s ks b).frames
  dsimp only at *
  generalize (s.burstEnded ks).checkRead b = v at *
  generalize hm : ((v.withdraw BurstJob.isColumn).markCorrupt .zero).markCorrupt .one = m
  have marked : s.LikeFor m := by
    have withdrawn : s.LikeFor (v.withdraw BurstJob.isColumn) := like.of_same rfl rfl rfl rfl fun _ _ => rfl
    rw [← hm]
    exact markCorrupt_like (markCorrupt_like withdrawn .zero) .one
  have fails : v.matrixFails = m.raise .matrixUncorrectable := by rw [← hm]; rfl
  have frames' : v.matrixFails.grantDram.endPass.frames = m.frames := by
    rw [fails]
    exact (State_grantDram_frames _).trans (State_raise_frames _ _)
  refine ⟨?_, fun x => ?_, ?_, rfl, fun x hx => ?_⟩
  · rw [fails]
    exact (marked.raise .matrixUncorrectable).grantDram.endPass
  · have both := markCorrupt_both (v.withdraw BurstJob.isColumn) x
    rw [hm] at both
    rw [ctx_congr frames']
    rwa [show (v.withdraw BurstJob.isColumn).ctx x = s.ctx x from ctx_congr frames x] at both
  · have latched := (raise_raised m .matrixUncorrectable).2 fatal_matrixUncorrectable
    rw [fails]
    exact (grantDram_sparesReads _).latched _ fatal_matrixUncorrectable latched
  · have kept := (grantDram_sparesReads v.matrixFails).columns x hx
    have arbiter : v.matrixFails.arbiter = v.arbiter.withdraw BurstJob.isColumn := by
      rw [fails, State_raise_arbiter, ← hm]
      rfl
    rw [arbiter] at kept
    simpa using (List.mem_filter.mp kept).2

/-- The uncorrectable burst is counted, and its place is the last uncorrectable location (R39). -/
theorem burstSpoilt_counted {s : State} {ks : List Strike} {b : Burst} (fails : (s.burstEnded ks).burstFails b = true)
    (column : b.job.isColumn = true) : s.counted (s.burstSpoilt ks b) .uncorrectableColumn 1
      ∧ (s.burstSpoilt ks b).bankStore.lastBad = some (placeOf b.address, s.now) := by
  have counter : b.job.uncorrectableCounter? = some .uncorrectableColumn := by
    cases hj : b.job <;> simp [hj, BurstJob.isColumn] at column ⊢
    rfl
  have counted := checkRead_counted fails counter
  have lastBad : ((s.burstEnded ks).checkRead b).bankStore.lastBad = some (placeOf b.address, s.now) := by
    rw [checkRead_burstEnded, if_pos fails, noteUncorrectable_lastBad, State.now, readFrom_readChecked.frames]
    rfl
  unfold State.burstSpoilt
  generalize (s.burstEnded ks).checkRead b = v at *
  generalize hm : ((v.withdraw BurstJob.isColumn).markCorrupt .zero).markCorrupt .one = m
  have fails : v.matrixFails = m.raise .matrixUncorrectable := by rw [← hm]; rfl
  constructor
  · unfold State.counted at counted ⊢
    rw [← counted, fails]
    refine (counter_congr (State_grantDram_counters _) _).trans ((counter_raise _ _ (by decide) (by decide) (by decide)).trans ?_)
    rw [← hm]
    rfl
  · refine (grantDram_lastBad _).trans ?_
    rw [fails, State_raise_bankStore, ← lastBad, ← hm]
    rfl

section
variable {s : State} {ks : List Strike} {b : Burst}

/-- With a packet in hand its remaining slopes are treated with no column fetched (R15, R55). -/
theorem burstSpoilt_packet {p : Ix} {d : Descriptor} {k : Nat} (work : s.engine.work = .packet p d k) (inside : k ≤ d.count) :
    let t := (s.burstSpoilt ks b).continueWork
    s.treats t p d k d.count ∧ s.releases t p d ∧ t.engine.work = .idle
    ∧ ∀ x : Ix, (t.ctx x).sums = (s.ctx x).sums ∧ (t.ctx x).state = (s.ctx x).state
      ∧ ((s.ctx x).isOpen = true → (s.ctx x).state ≠ .done → (t.ctx x).isCorrupt = true) := by
  obtain ⟨like, spoilt, latched, -, -⟩ := burstSpoilt_like s ks b
  dsimp only at *
  generalize s.burstSpoilt ks b = u at *
  obtain ⟨eq, goes⟩ := (likeFor_refl u).continues_packet (like.work.trans work) inside rfl rfl rfl
  have fetched (x : Nat) : u.fetchedAt p d x = false := by simp [State.fetchedAt, fetches_latched latched]
  obtain ⟨j, -, -, column, -⟩ | ⟨-, treated, idle, -, released⟩ := goes
  · rw [fetched] at column
    cases column
  · refine ⟨like.treats treated, like.releases released, idle, fun x => ?_⟩
    obtain ⟨sums, corrupt⟩ := spoilt x
    obtain ⟨-, -, sums'⟩ := continuePacket_keeps u p d k (d.count - k)
    obtain ⟨other, state, corrupt'⟩ := continuePacket_contexts u p d k (d.count - k)
    rw [eq]
    refine ⟨(sums' x).trans sums, ?_⟩
    rcases ix_eq_or_other d.ctx x with rfl | rfl
    · rw [state, corrupt', like.state]
      exact ⟨rfl, corrupt⟩
    · rw [other, like.state]
      exact ⟨rfl, corrupt⟩

/-- An engine that drains has done (R54, R55). -/
theorem burstSpoilt_draining {packet : Option (Ix × Descriptor)} (work : s.engine.work = .draining packet) :
    let t := (s.burstSpoilt ks b).continueWork
    t.engine.work = .idle ∧ (∀ p d, packet = some (p, d) → s.releases t p d)
    ∧ ∀ x : Ix, (t.ctx x).sums = (s.ctx x).sums ∧ (t.ctx x).state = (s.ctx x).state
      ∧ ((s.ctx x).isOpen = true → (s.ctx x).state ≠ .done → (t.ctx x).isCorrupt = true) := by
  obtain ⟨like, spoilt, -, -, -⟩ := burstSpoilt_like s ks b
  dsimp only at *
  generalize s.burstSpoilt ks b = u at *
  obtain ⟨idle, -, -, contexts, releases, -⟩ := continueWork_draining (like.work.trans work)
  refine ⟨idle, fun p d h => like.releases (releases p d h), fun x => ?_⟩
  obtain ⟨sums, corrupt⟩ := spoilt x
  obtain ⟨sums', state, flags⟩ := contexts x
  refine ⟨sums'.trans sums, state.trans (like.state x), fun isOpen notDone => ?_⟩
  have marked := corrupt isOpen notDone
  unfold Context.isCorrupt Context.hasFlag at marked ⊢
  rwa [flags]

/-- A job runs to its end with no column fetched (R17, R55). -/
theorem burstSpoilt_job {c : Ix} {i : Nat} (work : s.engine.work = .job c i) (inside : i ≤ s.slopeTotal) :
    let t := (s.burstSpoilt ks b).continueWork
    s.endsJob t c i ∧ (s.awaitsSegments c → ∀ x : Ix, (t.ctx x).sums = (s.ctx x).sums
      ∧ ((s.ctx x).isOpen = true → (s.ctx x).state ≠ .done → (t.ctx x).isCorrupt = true)) := by
  obtain ⟨like, spoilt, latched, -, -⟩ := burstSpoilt_like s ks b
  dsimp only at *
  generalize s.burstSpoilt ks b = u at *
  obtain ⟨eq, goes⟩ := (likeFor_refl u).continues_job (like.work.trans work) (by rwa [like.slopeTotal]) rfl rfl rfl
  have fetched (x : Nat) : u.fillFetchedAt c x = false := by simp [State.fillFetchedAt, fetches_latched latched]
  obtain ⟨j, -, -, column, -⟩ | ⟨-, ended, -⟩ := goes
  · rw [fetched] at column
    cases column
  · refine ⟨like.endsJob ended, fun awaits x => ?_⟩
    obtain ⟨sums, corrupt⟩ := spoilt x
    obtain ⟨-, kept⟩ := continueJob_keeps u c i (u.slopeTotal - i)
    obtain ⟨other, sums', corrupt'⟩ := kept (.inr (like.awaits.mpr awaits))
    rw [eq]
    rcases ix_eq_or_other c x with rfl | rfl
    · rw [sums', corrupt']
      exact ⟨sums, corrupt⟩
    · rw [other]
      exact ⟨sums, corrupt⟩

end

/-- Settles O21: what the burst spoils, and then each kind of work run to its end. -/
theorem uncorrectableColumnBurstMakesTheNodeNonContributing : Obligations.UncorrectableColumnBurstMakesTheNodeNonContributing := by
  intro s ks b busy column double
  have fails := (burstFails_iff s ks b).mpr double
  obtain ⟨like, -, latched, pass, columns⟩ := burstSpoilt_like s ks b
  obtain ⟨counted, lastBad⟩ := burstSpoilt_counted fails column
  have spared := continueWork_sparesCounts (s.burstSpoilt ks b)
  obtain ⟨pass', columns'⟩ := continueWork_latched latched
  refine ⟨_, columnBurstDelivered_exec ks busy column, ?_⟩
  rw [columnDelivered_spoilt fails]
  refine ⟨spared.latched _ fatal_matrixUncorrectable latched, (spared.counters _ rfl).trans counted,
    (continueWork_moves _).frame .lastBad (by decide) ▸ lastBad, fun x hx => columns x (columns' x hx), pass'.trans pass,
    fun p d k work inside => ?_, fun packet work => ?_, fun c i work inside => burstSpoilt_job work inside⟩
  · obtain ⟨treats, releases, idle, contexts⟩ := burstSpoilt_packet (ks := ks) (b := b) work inside
    refine ⟨treats, releases, idle, fun x => ?_, fun x => ?_⟩ <;> obtain ⟨sums, state, corrupt⟩ := contexts x
    exacts [⟨sums, corrupt⟩, state]
  · obtain ⟨idle, releases, contexts⟩ := burstSpoilt_draining (ks := ks) (b := b) work
    refine ⟨idle, fun x => ?_, releases, fun x => ?_⟩ <;> obtain ⟨sums, state, corrupt⟩ := contexts x
    exacts [⟨sums, corrupt⟩, state]

end Sys2Proof.Machine

namespace Sys2Proof.Machine

-- One theorem after the other, so that checking the whole package keeps to few threads.
set_option Elab.async false

/-! ## Work that stores nothing in the stacked DRAM (R39, R58) -/

/-- `t` holds the bytes that `s` holds. -/
def State.SameMemory (s t : State) : Prop := t.dram.memory = s.dram.memory

/-- A command goes on to a state that holds the bytes that `s` holds. -/
def KeepsMemory (s : State) (o : Host.Outcome State Fault Refusal) : Prop := ∃ t, o = .next t ∧ s.SameMemory t

theorem keepsMemory_next {s t : State} (h : s.SameMemory t) : KeepsMemory s (.next t) := ⟨t, rfl, h⟩

theorem State.SameMemory.refl (s : State) : s.SameMemory s := rfl

theorem State.SameMemory.after {s u t : State} (k : u.SameMemory t) (h : s.SameMemory u) : s.SameMemory t := Eq.trans k h

theorem State.SameMemory.ite {s t u : State} {c : Prop} [Decidable c] (h : s.SameMemory t) (k : s.SameMemory u) :
    s.SameMemory (if c then t else u) := by
  split
  · exact h
  · exact k

/-- A move that does not name the memory stores nothing. -/
theorem Moves.memory {ps : List Part} {s t : State} (h : Moves ps s t) (outside : Part.memory ∉ ps := by decide) :
    s.SameMemory t := (h.frame .memory outside).symm

section
variable (s : State)

/-! ### Requests (R183, R187) -/

theorem serve_sameMemory (i : Instr) (f : State → Request → State) (h : ∀ (t : State) r, t.SameMemory (f t r)) :
    s.SameMemory (s.serve i f) := by
  unfold State.serve
  split
  · exact (h _ _).after (dequeue_moves s).memory
  · exact .refl s

theorem judge_sameMemory (r : Request) (checks : List (Bool × Status)) (f : State → State) (h : ∀ t : State, t.SameMemory (f t)) :
    s.SameMemory (s.judge r checks f) := by
  unfold State.judge
  split
  · exact (refuse_moves _ _ _).memory
  · exact (h _).after (bump_moves s .requestsAccepted).memory

theorem judgeStaged_sameMemory (r : Request) (checks : List (Bool × Status)) (f : State → State)
    (h : ∀ t : State, t.SameMemory (f t)) : s.SameMemory (s.judgeStaged r checks f) := by
  unfold State.judgeStaged
  split
  · exact (refuse_moves _ _ _).memory
  · exact h s

theorem withBank_sameMemory (r : Request) (checks : List (Bool × Status)) (f : Ix → State) (h : ∀ b, s.SameMemory (f b)) :
    s.SameMemory (s.withBank r checks f) := by
  unfold State.withBank
  split
  · exact (refuse_moves _ _ _).memory
  · exact (refuse_moves _ _ _).memory
  · exact h _

theorem done_sameMemory (r : Request) (body : List Byte) : s.SameMemory (s.done r body) := (done_moves s r body).memory

theorem execute_sameMemory (r : Request) (t : Transfer) (bs : List Burst) : s.SameMemory (s.execute r t bs) :=
  (queueBursts_moves _ bs).memory.after rfl

theorem applyActuator_sameMemory (w : ActuatorWrite) : s.SameMemory (s.applyActuator w) :=
  (applyActuator_frame s w .memory (by decide)).symm

theorem stageActuator_sameMemory (r : Request) (w : ActuatorWrite) : s.SameMemory (s.stageActuator r w) := by
  unfold State.stageActuator
  refine .ite (.ite (stagedFull_moves s r).memory ((bump_moves _ _).memory.after ((bump_moves _ _).memory.after rfl))) ?_
  have applied := (applyActuator_sameMemory (s.bump .requestsAccepted) w).after (bump_moves s .requestsAccepted).memory
  exact (done_sameMemory _ r []).after (.ite ((recomputeClasses_moves _).memory.after applied) applied)

end

/-! ### Slope ports, engine and links (R4, R5, R13, R17, R63, R64, R70, R71, R147, R151) -/

section
variable (s : State)

theorem slLinkDown_keeps (p : Ix) : KeepsMemory s (execSlLinkDown p s) := by
  refine keepsMemory_next (.ite ?_ (.refl s))
  have down : s.SameMemory (((s.setPort p { s.port p with linkUp := false }).bump (.port p .linkDown)).raise .linkDown) :=
    (raise_moves _ _).memory.after ((bump_moves _ _).memory.after rfl)
  dsimp only
  split
  · exact (bump_moves _ _).memory.after ((flush_moves _ _ _).memory.after down)
  · exact down

theorem slopePacketHeader_keeps (p : Ix) (h : List Byte) : KeepsMemory s (execSlopePacketHeader p h s) :=
  keepsMemory_next (.ite (header_moves s p h).memory (.refl s))

theorem slopePacketEnd_keeps (p : Ix) (bs : List Byte) : KeepsMemory s (execSlopePacketEnd p bs s) := by
  refine keepsMemory_next ?_
  split
  · exact (packetEnd_moves s p _ bs).memory
  · exact .refl s

theorem columnEngineTakePacket_keeps : KeepsMemory s (execColumnEngineTakePacket s) := by
  refine keepsMemory_next (.ite ?_ (.refl s))
  split
  · split
    · exact (takePacket_moves s _ _).memory
    · exact .refl s
  · exact .refl s

theorem substitutionJobRun_keeps : KeepsMemory s (execSubstitutionJobRun s) := by
  refine keepsMemory_next ?_
  split
  · exact (continueJob_moves _ _ _ _).memory.after rfl
  · exact .refl s

theorem tiFrameReceived_keeps (f : List Byte) : KeepsMemory s (execTiFrameReceived f s) :=
  keepsMemory_next (.ite (receive_moves s f).memory (.refl s))

theorem tiLinkDown_keeps (b : Bool) : KeepsMemory s (execTiLinkDown b s) :=
  keepsMemory_next (.ite ((bumpIf_moves _ _ _).memory.after ((bump_moves _ _).memory.after ((raise_moves _ _).memory.after rfl)))
    (.refl s))

theorem toSendEnd_keeps : KeepsMemory s (execToSendEnd s) := by
  refine keepsMemory_next ?_
  split
  · next x _ =>
    have sent : s.SameMemory (State.bump { s with trunk := { s.trunk with sending := none } }
        (if x.realtime then .realtimeSent else .controlSent)) := (bump_moves _ _).memory.after rfl
    exact (grantTo_moves _).memory.after (.ite (State.SameMemory.after rfl sent) sent)
  · exact .refl s

theorem toLinkDown_keeps : KeepsMemory s (execToLinkDown s) := by
  refine keepsMemory_next (.ite ?_ (.refl s))
  have down := (bumpIf_moves _ s.trunk.sending.isSome .transmitAborted).memory.after ((bump_moves _ .toLinkDown).memory.after
    ((raise_moves { s with trunk := { s.trunk with toUp := false, sending := none } } .linkDown).memory.after
      (rfl : s.SameMemory _)))
  exact .ite (State.SameMemory.after rfl down) down

theorem toLinkUp_keeps : KeepsMemory s (execToLinkUp s) := keepsMemory_next ((grantTo_moves _).memory.after rfl)

theorem mlSendEnd_keeps : KeepsMemory s (execMlSendEnd s) := by
  refine keepsMemory_next ?_
  split
  · next f _ =>
    have joined : s.SameMemory (if f.makesEntry && s.isTail then s.joinEchoes f else s) := by
      split
      · next entry =>
        simp only [Bool.and_eq_true] at entry
        exact (joinEchoes_moves s f entry.2).memory
      · exact .refl s
    exact State.SameMemory.after rfl ((bump_moves _ f.kind.sentCounter).memory.after joined)
  · exact .refl s

theorem mlLinkDown_keeps : KeepsMemory s (execMlLinkDown s) := by
  refine keepsMemory_next (.ite ?_ (.refl s))
  have down := (bumpIf_moves _ s.mirror.waiting.isSome .unsent).memory.after
    ((bumpIf_moves _ s.mirror.sending.isSome .mlTransmitAborted).memory.after ((bump_moves _ .mlLinkDown).memory.after
      ((raise_moves { s with mirror := { s.mirror with up := false, sending := none, waiting := none } } .linkDown).memory.after
        (rfl : s.SameMemory _))))
  exact .ite ((loseMirror_moves _).memory.after down) down

theorem echoReceived_keeps (f : List Byte) : KeepsMemory s (execEchoReceived f s) :=
  keepsMemory_next (.ite (echo_moves s f).memory (.refl s))

/-! ### Timers (R33, R35, R143, R145, R150, R188, R191) -/

theorem assemblyDeadline_keeps (c : Ix) : KeepsMemory s (execAssemblyDeadline c s) :=
  keepsMemory_next (.ite ((assemblyExpires_moves _ c).memory.after (advanceTo_moves s _).memory) (.refl s))

theorem deliveryDeadline_keeps (c : Ix) : KeepsMemory s (execDeliveryDeadline c s) :=
  keepsMemory_next (.ite ((deliveryExpires_moves _ c).memory.after (advanceTo_moves s _).memory) (.refl s))

theorem parkRefreshExpiry_keeps : KeepsMemory s (execParkRefreshExpiry s) := by
  refine keepsMemory_next ?_
  split
  · exact (refreshPark_moves _).memory.after (advanceTo_moves s _).memory
  · exact .refl s

theorem starvationExpiry_keeps : KeepsMemory s (execStarvationExpiry s) := by
  refine keepsMemory_next ?_
  split
  · exact (drainActuator_moves _ none).memory.after ((bump_moves _ _).memory.after ((raise_moves _ _).memory.after
      (State.SameMemory.after rfl (advanceTo_moves s _).memory)))
  · exact .refl s

theorem echoEntryExpiry_keeps : KeepsMemory s (execEchoEntryExpiry s) := by
  refine keepsMemory_next ?_
  split
  · exact (missEcho_moves _).memory.after (State.SameMemory.after rfl (advanceTo_moves s _).memory)
  · exact .refl s

theorem eventHoldoffExpiry_keeps : KeepsMemory s (execEventHoldoffExpiry s) := by
  refine keepsMemory_next ?_
  split
  · exact (reportTest_moves _).memory.after (State.SameMemory.after rfl (advanceTo_moves s _).memory)
  · exact .refl s

theorem requestWatchdogExpiry_keeps (w : WatchdogTarget) : KeepsMemory s (execRequestWatchdogExpiry w s) := by
  refine keepsMemory_next ?_
  cases w with
  | execution =>
    dsimp only
    split
    · exact .ite (.refl s) ((withdrawExecution_moves _ _).memory.after (advanceTo_moves s _).memory)
    · exact .refl s
  | slopeSide =>
    dsimp only
    split
    · exact (stagedTimedOut_moves _ _).memory.after (State.SameMemory.after rfl (advanceTo_moves s _).memory)
    · exact .refl s
  | actuatorSide =>
    dsimp only
    split
    · exact (stagedTimedOut_moves _ _).memory.after (State.SameMemory.after rfl (advanceTo_moves s _).memory)
    · exact .refl s

/-! ### Reads (R51, R158, R178, R185, R193) -/

theorem readObject_keeps : KeepsMemory s (execReadObject s) :=
  keepsMemory_next (serve_sameMemory s _ _ fun t r => judge_sameMemory t r _ _ fun u => done_sameMemory u r _)

theorem readCounters_keeps : KeepsMemory s (execReadCounters s) := by
  refine keepsMemory_next (serve_sameMemory s _ _ fun t r => judge_sameMemory t r _ _ fun u => ?_)
  exact (done_sameMemory _ r _).after (.ite rfl (.refl u))

theorem readMatrixColumnSegment_keeps : KeepsMemory s (execReadMatrixColumnSegment s) := by
  refine keepsMemory_next (serve_sameMemory s _ _ fun t r => ?_)
  split
  · exact (refuse_moves _ _ _).memory
  · exact (refuse_moves _ _ _).memory
  · refine judge_sameMemory t r _ _ fun u => .ite (execute_sameMemory u r _ _) ?_
    exact (done_sameMemory _ r _).after (bump_moves u .readbacks).memory

theorem readPokeRecords_keeps : KeepsMemory s (execReadPokeRecords s) :=
  keepsMemory_next (serve_sameMemory s _ _ fun t r => judge_sameMemory t r _ _ fun u => execute_sameMemory u r _ _)

theorem readTelemetry_keeps : KeepsMemory s (execReadTelemetry s) :=
  keepsMemory_next (serve_sameMemory s _ _ fun t r => judge_sameMemory t r _ _ fun u =>
    .ite (done_sameMemory u r _) (execute_sameMemory u r _ _))

/-! ### Writes (R2, R14, R99, R108, R114 to R117, R127, R158, R169, R186, R192) -/

theorem setParams_sameMemory (new : Params) : s.SameMemory (s.setParams new) := by
  have silenced : s.SameMemory (if s.isTail && !({ s with params := new } : State).isTail then
      { s with params := new, mirror := s.mirror.silenced } else { s with params := new }) := .ite rfl rfl
  exact .ite silenced ((recheckSwap_moves _).memory.after silenced)

theorem setPortNow_sameMemory (p : Ix) (new : PortConfig) : s.SameMemory (s.setPortNow p new) :=
  .ite ((recheckSwap_moves _).memory.after ((zeroHold_moves _).memory.after ((emptyRing_moves _ p).memory.after rfl))) rfl

theorem writePortChecked_sameMemory (r : Request) : s.SameMemory (s.writePortChecked r) := by
  unfold State.writePortChecked
  dsimp only
  split
  · exact (done_sameMemory _ r _).after ((setPortNow_sameMemory _ _ _).after (bump_moves s .requestsAccepted).memory)
  · exact .ite (stagedFull_moves s r).memory ((stageSlope_moves _ r _).memory.after (setPortNow_sameMemory s _ _))

theorem writeNodeParameters_keeps : KeepsMemory s (execWriteNodeParameters s) :=
  keepsMemory_next (serve_sameMemory s _ _ fun t r => judge_sameMemory t r _ _ fun u =>
    (done_sameMemory _ r _).after (setParams_sameMemory u _))

theorem writePortConfiguration_keeps : KeepsMemory s (execWritePortConfiguration s) :=
  keepsMemory_next (serve_sameMemory s _ _ fun t r => judgeStaged_sameMemory t r _ _ fun u => writePortChecked_sameMemory u r)

theorem writeReferenceSlopes_keeps : KeepsMemory s (execWriteReferenceSlopes s) :=
  keepsMemory_next (serve_sameMemory s _ _ fun t r => judgeStaged_sameMemory t r _ _ fun u => (stageSlope_moves u r _).memory)

/-- A request whose checks stage an actuator-side write (R119, R187). -/
theorem stagedOnActuators_keeps (i : Instr) (checks : State → Request → List (Bool × Status)) (w : Request → ActuatorWrite) :
    KeepsMemory s (.next (s.serve i fun t r => t.judgeStaged r (checks t r) fun u => u.stageActuator r (w r))) :=
  keepsMemory_next (serve_sameMemory s _ _ fun t r => judgeStaged_sameMemory t r _ _ fun u => stageActuator_sameMemory u r _)

theorem writePokeRecords_keeps : KeepsMemory s (execWritePokeRecords s) :=
  keepsMemory_next (serve_sameMemory s _ _ fun t r => judge_sameMemory t r _ _ fun u => execute_sameMemory u r _ _)

theorem writeTelemetryConfiguration_keeps : KeepsMemory s (execWriteTelemetryConfiguration s) :=
  keepsMemory_next (serve_sameMemory s _ _ fun t r => judge_sameMemory t r _ _ fun u =>
    (done_sameMemory _ r _).after (setTelemetry_moves u _).memory)

theorem writeEventState_keeps : KeepsMemory s (execWriteEventState s) :=
  keepsMemory_next (serve_sameMemory s _ _ fun t r => judge_sameMemory t r _ _ fun u =>
    (reportTest_moves _).memory.after ((done_sameMemory _ r _).after (rfl : u.SameMemory _)))

theorem writeObjectOther_keeps : KeepsMemory s (execWriteObjectOther s) :=
  keepsMemory_next (serve_sameMemory s _ _ fun t r => (refuse_moves t r _).memory)

/-! ### Bank requests (R43 to R50) -/

theorem bankSetup_keeps : KeepsMemory s (execBankSetup s) :=
  keepsMemory_next (serve_sameMemory s _ _ fun t r => withBank_sameMemory t r _ _ fun _ => judge_sameMemory t r _ _ fun u =>
    (done_sameMemory _ r _).after (rfl : u.SameMemory _))

theorem loadColumn_keeps : KeepsMemory s (execLoadColumn s) :=
  keepsMemory_next (serve_sameMemory s _ _ fun t r => withBank_sameMemory t r _ _ fun _ => judge_sameMemory t r _ _ fun u =>
    execute_sameMemory u r _ _)

theorem closeBank_keeps : KeepsMemory s (execCloseBank s) := by
  refine keepsMemory_next (serve_sameMemory s _ _ fun t r => withBank_sameMemory t r _ _ fun b => ?_)
  have accepted := (bump_moves t .requestsAccepted).memory
  dsimp only
  split
  · exact (refuse_moves _ _ _).memory
  · exact .ite ((done_sameMemory _ r _).after (State.SameMemory.after rfl accepted))
      ((respond_moves _ _ _ _ _).memory.after (bump_moves t .requestsRefused).memory)
  · exact (done_sameMemory _ r _).after accepted
  · exact (done_sameMemory _ r _).after accepted

theorem swapBank_keeps : KeepsMemory s (execSwapBank s) :=
  keepsMemory_next (serve_sameMemory s _ _ fun t r => withBank_sameMemory t r _ _ fun _ => judge_sameMemory t r _ _ fun u =>
    (done_sameMemory _ r _).after (rfl : u.SameMemory _))

theorem retireBank_keeps : KeepsMemory s (execRetireBank s) :=
  keepsMemory_next (serve_sameMemory s _ _ fun t r => judge_sameMemory t r _ _ fun u =>
    (done_sameMemory _ r _).after (retire_moves u).memory)

/-! ### Loop, poke and telemetry requests (R112, R136 to R138, R160, R161, R172) -/

theorem leaveRunning_sameMemory (l : LoopState) : s.SameMemory (s.leaveRunning l) :=
  .ite ((drainActuator_moves _ none).memory.after rfl) rfl

theorem loopOff_keeps : KeepsMemory s (execLoopOff s) :=
  keepsMemory_next (serve_sameMemory s _ _ fun t r => judge_sameMemory t r _ _ fun u =>
    (done_sameMemory _ r _).after ((leaveRunning_sameMemory _ _).after (abortPoke_moves u).memory))

theorem loopOpen_keeps : KeepsMemory s (execLoopOpen s) :=
  keepsMemory_next (serve_sameMemory s _ _ fun t r => judge_sameMemory t r _ _ fun u =>
    (done_sameMemory _ r _).after (rfl : u.SameMemory _))

theorem loopClose_keeps : KeepsMemory s (execLoopClose s) :=
  keepsMemory_next (serve_sameMemory s _ _ fun t r => judge_sameMemory t r _ _ fun u =>
    (done_sameMemory _ r _).after (State.SameMemory.after rfl (loadFromOpen_moves u).memory))

theorem loopHold_keeps : KeepsMemory s (execLoopHold s) :=
  keepsMemory_next (serve_sameMemory s _ _ fun t r => judge_sameMemory t r _ _ fun u =>
    (done_sameMemory _ r _).after (leaveRunning_sameMemory u _))

theorem resetIntegrators_keeps : KeepsMemory s (execResetIntegrators s) :=
  keepsMemory_next (serve_sameMemory s _ _ fun t r => judge_sameMemory t r _ _ fun u =>
    (done_sameMemory _ r _).after ((bump_moves _ _).memory.after (parkIntegrators_moves u).memory))

theorem pokeStart_keeps : KeepsMemory s (execPokeStart s) :=
  keepsMemory_next (serve_sameMemory s _ _ fun t r => judge_sameMemory t r _ _ fun u =>
    (done_sameMemory _ r _).after (startPoke_moves u _).memory)

theorem pokeStop_keeps : KeepsMemory s (execPokeStop s) :=
  keepsMemory_next (serve_sameMemory s _ _ fun t r => judge_sameMemory t r _ _ fun u =>
    (done_sameMemory _ r _).after (stopPoke_moves u).memory)

theorem telemetryArm_keeps : KeepsMemory s (execTelemetryArm s) :=
  keepsMemory_next (serve_sameMemory s _ _ fun t r => judge_sameMemory t r _ _ fun u =>
    (done_sameMemory _ r _).after (arm_moves u).memory)

theorem telemetryStop_keeps : KeepsMemory s (execTelemetryStop s) :=
  keepsMemory_next (serve_sameMemory s _ _ fun t r => judge_sameMemory t r _ _ fun u =>
    (done_sameMemory _ r _).after (stopCapture_moves u).memory)

/-! ### Resets (R73, R194, R195) -/

theorem clearFault_keeps : KeepsMemory s (execClearFault s) :=
  keepsMemory_next (serve_sameMemory s _ _ fun t r => judge_sameMemory t r _ _ fun u =>
    (reportTest_moves _).memory.after ((done_sameMemory _ r _).after ((clearTail_moves _).memory.after
      ((restartPorts_moves _).memory.after (clearLatches_moves u).memory))))

theorem nodeReset_keeps : KeepsMemory s (execNodeReset s) :=
  keepsMemory_next (serve_sameMemory s _ _ fun t r => judge_sameMemory t r _ _ fun u => (awaitReset_moves u r).memory)

theorem nodeResetBegin_keeps : KeepsMemory s (execNodeResetBegin s) :=
  keepsMemory_next (.ite ((recomputeClasses_moves _).memory.after (State.SameMemory.after rfl (cancelSwap_moves s).memory))
    (.refl s))

/-! ### The ends of bursts (R39, R57, R58) -/

/-- The burst that a command takes from the DRAM was in progress. -/
theorem takeBurst_inProgress {s t : State} {p : Burst → Bool} {b : Burst} (taken : s.takeBurst p = some (b, t)) :
    s.arbiter.inProgress = some b ∧ s.SameMemory t := by
  unfold State.takeBurst at taken
  split at taken
  · next x busy =>
    split at taken
    · cases taken
      exact ⟨busy, rfl⟩
    · cases taken
  · cases taken

theorem columnBurstDelivered_keeps (ks : List Strike) : KeepsMemory s (execColumnBurstDelivered ks s) := by
  refine keepsMemory_next ?_
  split
  · next b t taken => exact (columnDelivered_moves t b).memory.after (takeBurst_inProgress taken).2
  · exact .refl s

theorem telemetryReadEnd_keeps (ks : List Strike) : KeepsMemory s (execTelemetryReadEnd ks s) := by
  refine keepsMemory_next ?_
  split
  · next b t taken => exact (telemetryReadBurst_moves t b).memory.after (takeBurst_inProgress taken).2
  · exact .refl s

theorem readbackBurstEnd_keeps (ks : List Strike) : KeepsMemory s (execReadbackBurstEnd ks s) := by
  refine keepsMemory_next ?_
  split
  · next e b t _ taken => exact (readbackEnds_moves t e b).memory.after (takeBurst_inProgress taken).2
  · exact .refl s

theorem pokeRecordFetchArrival_keeps (ks : List Strike) : KeepsMemory s (execPokeRecordFetchArrival ks s) := by
  refine keepsMemory_next ?_
  split
  · next b t taken => exact (pokeArrives_moves t b).memory.after (takeBurst_inProgress taken).2
  · exact .refl s

end

/-! ## The bytes of a write burst that ends (R45, R158, R174) -/

/-- `t` holds at an address the byte that `s` holds there, unless the burst writes it. -/
def State.SameOutside (s t : State) (b : Burst) : Prop :=
  ∀ a, ¬(b.address ≤ a ∧ a < b.address + b.data.length) → t.dram.memory.read? a = s.dram.memory.read? a

/-- A command goes on to a state that holds the bytes that `s` holds, but for those of the burst in progress. -/
def StoresTheBurst (s : State) (o : Host.Outcome State Fault Refusal) : Prop :=
  ∃ t, o = .next t ∧ (s.SameMemory t ∨ ∃ b, s.arbiter.inProgress = some b ∧ s.SameOutside t b)

theorem State.SameMemory.outside {s t : State} (h : s.SameMemory t) (b : Burst) : s.SameOutside t b := by
  intro a _
  rw [h]

theorem State.SameOutside.then {s u t : State} {b : Burst} (h : s.SameOutside u b) (k : u.SameMemory t) : s.SameOutside t b := by
  intro a outside
  rw [k, h a outside]

theorem storeBurst_outside (s : State) (b : Burst) : s.SameOutside (s.storeBurst b) b := by
  intro a outside
  unfold State.storeBurst
  split
  · rfl
  · show (s.dram.memory.writeRun b.address b.data).read? a = _
    rw [Memory_read_writeRun, dif_neg outside]

theorem storedAndGranted_outside (s : State) (b : Burst) : s.SameOutside (s.storeBurst b).grantDram b :=
  (storeBurst_outside s b).then (grantDram_moves _).memory

theorem droppedEnds_outside (s : State) (b : Burst) : s.SameOutside (s.droppedEnds b) b := by
  unfold State.droppedEnds
  split
  · exact ((grantDram_moves _).memory.after (checkRead_moves s b).memory).outside b
  · exact storedAndGranted_outside s b

/-- A burst of poke records for a request: a read stores nothing (R158). -/
theorem pokeTransferBurst_outside (s : State) (e : Execution) (b : Burst) : s.SameOutside (s.pokeTransferBurst e b) b := by
  have checked := (checkRead_moves s b).memory
  unfold State.pokeTransferBurst
  split
  · dsimp only
    split
    · exact (storedAndGranted_outside s b).then ((respond_moves _ _ _ _ _).memory.after (leaveExecution_moves _).memory)
    · exact storedAndGranted_outside s b
  · dsimp only
    refine State.SameMemory.outside (.ite ?_ (.ite ?_ ?_)) b
    · exact (respond_moves _ _ _ _ _).memory.after ((leaveExecution_moves _).memory.after ((grantDram_moves _).memory.after
        ((withdraw_moves _ _).memory.after checked)))
    · exact (respond_moves _ _ _ _ _).memory.after ((leaveExecution_moves _).memory.after ((grantDram_moves _).memory.after
        checked))
    · exact State.SameMemory.after rfl ((grantDram_moves _).memory.after checked)
  · exact (grantDram_moves s).memory.outside b

theorem partEnds_outside (s : State) (b : Burst) : s.SameOutside (s.partEnds b) b := by
  unfold State.partEnds
  split
  · exact (telemetryReadBurst_moves s b).memory.outside b
  · split
    · exact pokeTransferBurst_outside s _ b
    · exact droppedEnds_outside s b
  · split
    · exact pokeTransferBurst_outside s _ b
    · exact droppedEnds_outside s b
  all_goals exact droppedEnds_outside s b

section
variable (s : State)

theorem storesTheBurst_refl : StoresTheBurst s (.next s) := ⟨s, rfl, .inl rfl⟩

/-- What a command makes of the burst that it takes from the DRAM. -/
theorem storesTheBurst_taken {u t t' : State} {p : Burst → Bool} {b : Burst} (arbiter : u.arbiter = s.arbiter)
    (memory : s.SameMemory u) (taken : u.takeBurst p = some (b, t)) (stored : t.SameOutside t' b) :
    StoresTheBurst s (.next t') := by
  obtain ⟨busy, same⟩ := takeBurst_inProgress taken
  refine ⟨t', rfl, .inr ⟨b, arbiter ▸ busy, fun a outside => ?_⟩⟩
  rw [stored a outside, same, memory]

theorem telemetryRecordCommit_stores : StoresTheBurst s (execTelemetryRecordCommit s) := by
  unfold execTelemetryRecordCommit
  split
  · next w b t _ taken =>
    exact storesTheBurst_taken s rfl rfl taken ((storedAndGranted_outside t b).then (commitRecord_moves _ w).memory)
  · exact storesTheBurst_refl s

theorem loadColumnWriteEnd_stores : StoresTheBurst s (execLoadColumnWriteEnd s) := by
  unfold execLoadColumnWriteEnd
  split
  · next e b t _ taken =>
    exact storesTheBurst_taken s rfl rfl taken ((storedAndGranted_outside t b).then (loadEnds_moves _ e).memory)
  · exact storesTheBurst_refl s

theorem pokeRecordsTransferEnd_stores (ks : List Strike) : StoresTheBurst s (execPokeRecordsTransferEnd ks s) := by
  unfold execPokeRecordsTransferEnd
  split
  · next e b t _ taken => exact storesTheBurst_taken s (u := s.strike ks) rfl rfl taken (pokeTransferBurst_outside t e b)
  · exact storesTheBurst_refl s

theorem dramBurstComplete_stores (ks : List Strike) : StoresTheBurst s (execDramBurstComplete ks s) := by
  unfold execDramBurstComplete
  split
  · next b t taken =>
    refine storesTheBurst_taken s (u := s.strike ks) rfl rfl taken ?_
    split
    · exact droppedEnds_outside t b
    · exact partEnds_outside t b
  · exact storesTheBurst_refl s

end

theorem KeepsMemory.stores {s : State} {o : Host.Outcome State Fault Refusal} (h : KeepsMemory s o) : StoresTheBurst s o := by
  obtain ⟨t, next, same⟩ := h
  exact ⟨t, next, .inl same⟩

/-- Every command but POWER_ON_RESET stores at most the bytes of the burst in progress (R39, R58, R196). -/
theorem exec_storesTheBurst (i : Instr) (s : State) (notReset : ∀ n, i ≠ .powerOnReset n) : StoresTheBurst s (exec i s) := by
  cases i with
  | powerOnReset n => exact absurd rfl (notReset n)
  | slLinkDown p => exact (slLinkDown_keeps s p).stores
  | slLinkUp p => exact (keepsMemory_next rfl : KeepsMemory s (execSlLinkUp p s)).stores
  | slopePacketHeader p h => exact (slopePacketHeader_keeps s p h).stores
  | slopePacketEnd p bs => exact (slopePacketEnd_keeps s p bs).stores
  | columnEngineTakePacket => exact (columnEngineTakePacket_keeps s).stores
  | substitutionJobRun => exact (substitutionJobRun_keeps s).stores
  | columnBurstDelivered ks => exact (columnBurstDelivered_keeps s ks).stores
  | assemblyDeadline c => exact (assemblyDeadline_keeps s c).stores
  | deliveryDeadline c => exact (deliveryDeadline_keeps s c).stores
  | tiFrameReceived f => exact (tiFrameReceived_keeps s f).stores
  | tiLinkDown b => exact (tiLinkDown_keeps s b).stores
  | tiLinkUp => exact (keepsMemory_next rfl : KeepsMemory s (execTiLinkUp s)).stores
  | toSendEnd => exact (toSendEnd_keeps s).stores
  | toLinkDown => exact (toLinkDown_keeps s).stores
  | toLinkUp => exact (toLinkUp_keeps s).stores
  | parkRefreshExpiry => exact (parkRefreshExpiry_keeps s).stores
  | starvationExpiry => exact (starvationExpiry_keeps s).stores
  | mlSendEnd => exact (mlSendEnd_keeps s).stores
  | mlLinkDown => exact (mlLinkDown_keeps s).stores
  | mlLinkUp => exact (keepsMemory_next rfl : KeepsMemory s (execMlLinkUp s)).stores
  | echoReceived f => exact (echoReceived_keeps s f).stores
  | echoEntryExpiry => exact (echoEntryExpiry_keeps s).stores
  | pokeRecordFetchArrival ks => exact (pokeRecordFetchArrival_keeps s ks).stores
  | telemetryRecordCommit => exact telemetryRecordCommit_stores s
  | telemetryReadEnd ks => exact (telemetryReadEnd_keeps s ks).stores
  | loadColumnWriteEnd => exact loadColumnWriteEnd_stores s
  | readbackBurstEnd ks => exact (readbackBurstEnd_keeps s ks).stores
  | pokeRecordsTransferEnd ks => exact pokeRecordsTransferEnd_stores s ks
  | requestWatchdogExpiry w => exact (requestWatchdogExpiry_keeps s w).stores
  | eventHoldoffExpiry => exact (eventHoldoffExpiry_keeps s).stores
  | readObject => exact (readObject_keeps s).stores
  | readCounters => exact (readCounters_keeps s).stores
  | readMatrixColumnSegment => exact (readMatrixColumnSegment_keeps s).stores
  | readPokeRecords => exact (readPokeRecords_keeps s).stores
  | writeNodeParameters => exact (writeNodeParameters_keeps s).stores
  | writePortConfiguration => exact (writePortConfiguration_keeps s).stores
  | writeReferenceSlopes => exact (writeReferenceSlopes_keeps s).stores
  | writeActuatorEntries => exact (stagedOnActuators_keeps s _ _ _).stores
  | writeGainProfiles => exact (stagedOnActuators_keeps s _ _ _).stores
  | writeOverrideRanges => exact (stagedOnActuators_keeps s _ _ _).stores
  | writeSlaveRecords => exact (stagedOnActuators_keeps s _ _ _).stores
  | writeNeighbourPairs => exact (stagedOnActuators_keeps s _ _ _).stores
  | writeOpenShape => exact (stagedOnActuators_keeps s _ _ _).stores
  | writePokeRecords => exact (writePokeRecords_keeps s).stores
  | writeTelemetryConfiguration => exact (writeTelemetryConfiguration_keeps s).stores
  | writeEventState => exact (writeEventState_keeps s).stores
  | writeObjectOther => exact (writeObjectOther_keeps s).stores
  | bankSetup => exact (bankSetup_keeps s).stores
  | loadColumn => exact (loadColumn_keeps s).stores
  | closeBank => exact (closeBank_keeps s).stores
  | swapBank => exact (swapBank_keeps s).stores
  | retireBank => exact (retireBank_keeps s).stores
  | loopOff => exact (loopOff_keeps s).stores
  | loopOpen => exact (loopOpen_keeps s).stores
  | loopClose => exact (loopClose_keeps s).stores
  | loopHold => exact (loopHold_keeps s).stores
  | resetIntegrators => exact (resetIntegrators_keeps s).stores
  | pokeStart => exact (pokeStart_keeps s).stores
  | pokeStop => exact (pokeStop_keeps s).stores
  | telemetryArm => exact (telemetryArm_keeps s).stores
  | telemetryStop => exact (telemetryStop_keeps s).stores
  | readTelemetry => exact (readTelemetry_keeps s).stores
  | clearFault => exact (clearFault_keeps s).stores
  | nodeReset => exact (nodeReset_keeps s).stores
  | nodeResetBegin => exact (nodeResetBegin_keeps s).stores
  | dramBurstComplete ks => exact dramBurstComplete_stores s ks

/-- Settles O7: a command stores nothing, or the bytes of the burst in progress. -/
theorem dramBytesChangeOnlyInTheStoredBurst : Obligations.DramBytesChangeOnlyInTheStoredBurst := by
  intro i s a notReset outside
  obtain ⟨t, next, stored⟩ := exec_storesTheBurst i s notReset
  refine ⟨t, next, ?_⟩
  rcases stored with same | ⟨b, busy, elsewhere⟩
  · rw [same]
  · exact elsewhere a (outside b busy)

end Sys2Proof.Machine

namespace Sys2Proof.Machine

-- One theorem after the other, so that checking the whole package keeps to few threads.
set_option Elab.async false

/-! ## What every command can do (R183, R184, 95_what_each_step_holds.md) -/

/-- A command goes on to a state by changes of its parts alone, by which no law of `State.Inv` is lost and no counter falls. -/
def MovesBy (i : Instr) (s : State) : Prop := ∃ t, exec i s = .next t ∧ Moves (partsOf i) s t

theorem movesBy_of {i : Instr} {s t : State} (step : exec i s = .next t) (h : Moves (partsOf i) s t) : MovesBy i s :=
  ⟨t, step, h⟩

theorem MovesBy.keepsLaws {i : Instr} {s : State} (h : MovesBy i s) (laws : s.Inv) : ∃ t, exec i s = .next t ∧ t.Inv := by
  obtain ⟨t, step, moves⟩ := h
  exact ⟨t, step, moves.inv laws⟩

/-- The loop state where the moves so far have left the Loop Supervisor alone. -/
theorem loopState_of_moves {ps : List Part} {s t : State} (h : Moves ps s t) (kept : Part.loop ∉ ps := by decide) :
    t.loop.state = s.loop.state := by
  have same := h.frame .loop kept
  simp only [Part.same, Prod.mk.injEq, Loop.mk.injEq] at same
  exact same.2.1.symm

/-! ### Slope ports and the Column Engine (R4, R5, R10, R13, R17, R52) -/

section
variable (s : State)

/-- The report of a link alone is replaced in a port (R4). -/
theorem linkUp_moves (p : Ix) (up : Bool) : Moves [.ports] s (s.setPort p { s.port p with linkUp := up }) :=
  setPort_moves s p _ rfl fun h => h.rings p

theorem slLinkDown_moves (p : Ix) : MovesBy (.slLinkDown p) s := by
  refine movesBy_of rfl (.ite (fun _ => ?_) fun _ => .refl _ s)
  have fell : Moves (partsOf (.slLinkDown p)) s
      (((s.setPort p { s.port p with linkUp := false }).bump (.port p .linkDown)).raise .linkDown) :=
    (raise_moves _ _).after ((bump_moves _ _).after (linkUp_moves s p false).widen)
  dsimp only
  split
  · exact (bump_moves _ _).after ((flush_moves _ _ _).after fell)
  · exact fell

theorem slLinkUp_moves (p : Ix) : MovesBy (.slLinkUp p) s := movesBy_of rfl (linkUp_moves s p true)

theorem slopePacketHeader_moves (p : Ix) (h : List Byte) : MovesBy (.slopePacketHeader p h) s :=
  movesBy_of rfl (.ite (fun _ => (header_moves s p h).widen) fun _ => .refl _ s)

theorem slopePacketEnd_moves (p : Ix) (bs : List Byte) : MovesBy (.slopePacketEnd p bs) s := by
  refine movesBy_of rfl ?_
  split
  · exact (packetEnd_moves s p _ bs).widen
  · exact .refl _ s

theorem columnEngineTakePacket_moves : MovesBy .columnEngineTakePacket s := by
  refine movesBy_of rfl (.ite (fun _ => ?_) fun _ => .refl _ s)
  split
  · split
    · exact (takePacket_moves s _ _).widen
    · exact .refl _ s
  · exact .refl _ s

theorem substitutionJobRun_moves : MovesBy .substitutionJobRun s := by
  refine movesBy_of rfl ?_
  split
  · next c rest _ _ =>
    have taken : Moves (partsOf .substitutionJobRun) s
        { s with frames := { s.frames with jobs := rest }, engine := { s.engine with work := .job c 0 } } :=
      Moves.after (engine_moves _ { s.engine with work := .job c 0 } (by rfl) (by rfl)) (jobs_moves s rest).widen
    exact (continueJob_moves _ _ _ _).after ((setCtx_moves _ _ _).after taken)
  · exact .refl _ s

theorem columnBurstDelivered_moves (ks : List Strike) : MovesBy (.columnBurstDelivered ks) s := by
  refine movesBy_of rfl ?_
  split
  · next taken => exact (columnDelivered_moves _ _).after ((takeBurst_moves _ _ taken).after (strike_moves s ks).widen)
  · exact .refl _ s

/-! ### The trunk (R63, R64, R70, R71, R73) -/

theorem tiFrameReceived_moves (f : List Byte) : MovesBy (.tiFrameReceived f) s :=
  movesBy_of rfl (.ite (fun _ => (receive_moves s f).widen) fun _ => .refl _ s)

theorem tiLinkDown_moves (b : Bool) : MovesBy (.tiLinkDown b) s :=
  movesBy_of rfl (.ite (fun _ => (bumpIf_moves _ _ _).after ((bump_moves _ _).after ((raise_moves _ _).after
    (links_moves s false s.trunk.toUp).widen))) fun _ => .refl _ s)

theorem tiLinkUp_moves : MovesBy .tiLinkUp s := movesBy_of rfl (links_moves s true s.trunk.toUp)

theorem toSendEnd_moves : MovesBy .toSendEnd s := by
  refine movesBy_of rfl ?_
  split
  · next x _ =>
    have sent : Moves (partsOf .toSendEnd) s (State.bump { s with trunk := { s.trunk with sending := none } }
        (if x.realtime then .realtimeSent else .controlSent)) := (bump_moves _ _).after (sending_moves s none).widen
    exact (grantTo_moves _).after (.ite (fun _ => (resetPhase_moves _ _).after sent) fun _ => sent)
  · exact .refl _ s

/-- TO goes DOWN and gives up the frame being sent (R71); the queues hold what they held. -/
theorem toDown_moves : Moves [.links, .queues] s { s with trunk := { s.trunk with toUp := false, sending := none } } :=
  (sending_moves _ none).after (links_moves s s.trunk.tiUp false).widen

theorem toLinkDown_moves : MovesBy .toLinkDown s := by
  refine movesBy_of rfl (.ite (fun _ => ?_) fun _ => .refl _ s)
  have down : Moves (partsOf .toLinkDown) s (State.bumpIf (State.bump (State.raise
      { s with trunk := { s.trunk with toUp := false, sending := none } } .linkDown) .toLinkDown)
      s.trunk.sending.isSome .transmitAborted) :=
    (bumpIf_moves _ _ _).after ((bump_moves _ _).after ((raise_moves _ _).after (toDown_moves s).widen))
  exact .ite (fun _ => (resetPhase_moves _ _).after down) fun _ => down

theorem toLinkUp_moves : MovesBy .toLinkUp s :=
  movesBy_of rfl ((grantTo_moves _).after (links_moves s s.trunk.tiUp true).widen)

/-! ### The mirror link (R147, R150, R151, R152) -/

theorem mlSendEnd_moves : MovesBy .mlSendEnd s := by
  refine movesBy_of rfl ?_
  split
  · next f _ =>
    have joined : Moves (partsOf .mlSendEnd) s (if f.makesEntry && s.isTail then s.joinEchoes f else s) := by
      refine .ite (fun entry => ?_) fun _ => .refl _ s
      simp only [Bool.and_eq_true] at entry
      exact (joinEchoes_moves s f entry.2).widen
    exact Moves.after (mirror_moves _ _ (by rfl) (by rfl)) ((bump_moves _ f.kind.sentCounter).after joined)
  · exact .refl _ s

theorem mlLinkDown_moves : MovesBy .mlLinkDown s := by
  refine movesBy_of rfl (.ite (fun _ => ?_) fun _ => .refl _ s)
  have fell : Moves (partsOf .mlLinkDown) s (State.bumpIf (State.bumpIf (State.bump (State.raise
      { s with mirror := { s.mirror with up := false, sending := none, waiting := none } } .linkDown) .mlLinkDown)
      s.mirror.sending.isSome .mlTransmitAborted) s.mirror.waiting.isSome .unsent) :=
    (bumpIf_moves _ _ _).after ((bumpIf_moves _ _ _).after ((bump_moves _ _).after ((raise_moves _ _).after
      (mirror_moves s _ (by rfl) (by rfl)).widen)))
  exact .ite (fun _ => (loseMirror_moves _).after fell) fun _ => fell

theorem mlLinkUp_moves : MovesBy .mlLinkUp s := movesBy_of rfl (mirror_moves s _ (by rfl) (by rfl))

theorem echoReceived_moves (f : List Byte) : MovesBy (.echoReceived f) s :=
  movesBy_of rfl (.ite (fun _ => (echo_moves s f).widen) fun _ => .refl _ s)

end

/-! ### Timers (R33, R35, R143, R145, R150, R188, R191) -/

section
variable (s : State)

theorem advanceTo_withMirror (t : Time) (m : Mirror) :
    { s.advanceTo t with mirror := m } = State.advanceTo { s with mirror := m } t :=
  apply_ite (fun u : State => { u with mirror := m }) _ _ _

theorem advanceTo_withMgmt (t : Time) (m : Mgmt) :
    { s.advanceTo t with mgmt := m } = State.advanceTo { s with mgmt := m } t :=
  apply_ite (fun u : State => { u with mgmt := m }) _ _ _

theorem advanceTo_withEvents (t : Time) (e : Events) :
    { s.advanceTo t with events := e } = State.advanceTo { s with events := e } t :=
  apply_ite (fun u : State => { u with events := e }) _ _ _

theorem assemblyDeadline_moves (c : Ix) : MovesBy (.assemblyDeadline c) s :=
  movesBy_of rfl (.ite (fun _ => (assemblyExpires_moves _ c).after (advanceTo_moves s _).widen) fun _ => .refl _ s)

theorem deliveryDeadline_moves (c : Ix) : MovesBy (.deliveryDeadline c) s :=
  movesBy_of rfl (.ite (fun _ => (deliveryExpires_moves _ c).after (advanceTo_moves s _).widen) fun _ => .refl _ s)

theorem parkRefreshExpiry_moves : MovesBy .parkRefreshExpiry s := by
  refine movesBy_of rfl ?_
  split
  · exact (refreshPark_moves _).after (advanceTo_moves s _).widen
  · exact .refl _ s

theorem applies_not_safe {l : LoopState} (h : l.applies = true) : l ≠ .safe := by rintro rfl; cases h

/-- The starvation timer runs in OPEN and CLOSED alone, so that a SAFE loop is not brought to HELD (R143). -/
theorem starvationExpiry_moves : MovesBy .starvationExpiry s := by
  refine movesBy_of rfl ?_
  split
  · next t due =>
    have running : s.loop.state.applies = true := by
      unfold State.starvationMoment? at due
      split at due
      · assumption
      · cases due
    have now := advanceTo_moves s t
    exact (starve_moves _ (by rw [loopState_of_moves now]; exact applies_not_safe running)).after now.widen
  · exact .refl _ s

theorem echoEntryExpiry_moves : MovesBy .echoEntryExpiry s := by
  refine movesBy_of rfl ?_
  split
  · next e rest soonest =>
    obtain ⟨shorter, _⟩ := takeSoonest_spec soonest
    have removed : Moves [.mirror] s { s with mirror := { s.mirror with echoes := rest } } :=
      echoes_moves s rest (fun laws => by have := laws.echoes; omega)
        (fun laws middle => by rw [laws.echoesAtTail middle] at shorter; cases shorter)
    rw [advanceTo_withMirror]
    exact (missEcho_moves _).after ((advanceTo_moves _ _).after removed.widen)
  · exact .refl _ s

theorem holdoff_moves (t : Option Time) : Moves [.events] s { s with events := { s.events with holdoff := t } } where
  frame q hq := by cases q <;> first | exact absurd (by decide) hq | rfl
  inv laws := { laws with }
  rise _ _ := Nat.le_refl _

theorem eventHoldoffExpiry_moves : MovesBy .eventHoldoffExpiry s := by
  refine movesBy_of rfl ?_
  split
  · rw [advanceTo_withEvents]
    exact (reportTest_moves _).after ((advanceTo_moves _ _).after (holdoff_moves s none).widen)
  · exact .refl _ s

theorem executionWatchdog_moves : MovesBy (.requestWatchdogExpiry .execution) s := by
  refine movesBy_of rfl ?_
  dsimp only
  split
  · exact .ite (fun _ => .refl _ s) fun _ => (withdrawExecution_moves _ _).after (advanceTo_moves s _).widen
  · exact .refl _ s

theorem slopeWatchdog_moves : MovesBy (.requestWatchdogExpiry .slopeSide) s := by
  refine movesBy_of rfl ?_
  dsimp only
  split
  · next e rest soonest =>
    obtain ⟨shorter, _⟩ := takeSoonest_spec soonest
    have removed := slopeQueue_moves s rest fun laws => by have := laws.slopeQueue; omega
    rw [advanceTo_withMgmt]
    exact (stagedTimedOut_moves _ _).after ((advanceTo_moves _ _).after removed.widen)
  · exact .refl _ s

theorem actuatorWatchdog_moves : MovesBy (.requestWatchdogExpiry .actuatorSide) s := by
  refine movesBy_of rfl ?_
  dsimp only
  split
  · next e rest soonest =>
    obtain ⟨shorter, among⟩ := takeSoonest_spec soonest
    have removed := actuatorQueue_moves s rest (fun laws => by have := laws.actuatorQueue; omega)
      (fun laws x mem => laws.staged x (among x mem))
    rw [advanceTo_withMgmt]
    exact (stagedTimedOut_moves _ _).after ((advanceTo_moves _ _).after removed.widen)
  · exact .refl _ s

theorem requestWatchdogExpiry_moves (w : WatchdogTarget) : MovesBy (.requestWatchdogExpiry w) s := by
  cases w with
  | execution => exact executionWatchdog_moves s
  | slopeSide => exact slopeWatchdog_moves s
  | actuatorSide => exact actuatorWatchdog_moves s

/-! ### The ends of bursts (R39, R45, R51, R57, R58, R158, R162, R174, R178) -/

theorem pokeRecordFetchArrival_moves (ks : List Strike) : MovesBy (.pokeRecordFetchArrival ks) s := by
  refine movesBy_of rfl ?_
  split
  · next taken => exact (pokeArrives_moves _ _).after ((takeBurst_moves _ _ taken).after (strike_moves s ks).widen)
  · exact .refl _ s

theorem telemetryRecordCommit_moves : MovesBy .telemetryRecordCommit s := by
  refine movesBy_of rfl ?_
  split
  · next w _ _ _ taken =>
    exact (commitRecord_moves _ w).after ((grantDram_moves _).after ((storeBurst_moves _ _).after
      (takeBurst_moves _ _ taken).widen))
  · exact .refl _ s

theorem telemetryReadEnd_moves (ks : List Strike) : MovesBy (.telemetryReadEnd ks) s := by
  refine movesBy_of rfl ?_
  split
  · next taken => exact (telemetryReadBurst_moves _ _).after ((takeBurst_moves _ _ taken).after (strike_moves s ks).widen)
  · exact .refl _ s

theorem loadColumnWriteEnd_moves : MovesBy .loadColumnWriteEnd s := by
  refine movesBy_of rfl ?_
  split
  · next e _ _ _ taken =>
    exact (loadEnds_moves _ e).after ((grantDram_moves _).after ((storeBurst_moves _ _).after
      (takeBurst_moves _ _ taken).widen))
  · exact .refl _ s

theorem readbackBurstEnd_moves (ks : List Strike) : MovesBy (.readbackBurstEnd ks) s := by
  refine movesBy_of rfl ?_
  split
  · next taken => exact (readbackEnds_moves _ _ _).after ((takeBurst_moves _ _ taken).after (strike_moves s ks).widen)
  · exact .refl _ s

theorem pokeRecordsTransferEnd_moves (ks : List Strike) : MovesBy (.pokeRecordsTransferEnd ks) s := by
  refine movesBy_of rfl ?_
  split
  · next executing taken =>
    have moved := takeBurst_moves _ _ taken
    have same := Part_same_trans ((strike_moves s ks).frame .requests (by decide)) (moved.frame .requests (by decide))
    simp only [Part.same, Prod.mk.injEq] at same
    exact (pokeTransferBurst_moves _ _ _ (same.2.symm.trans executing)).after (moved.after (strike_moves s ks).widen)
  · exact .refl _ s

theorem dramBurstComplete_moves (ks : List Strike) : MovesBy (.dramBurstComplete ks) s := by
  refine movesBy_of rfl ?_
  split
  · next taken =>
    have moved : Moves (partsOf (.dramBurstComplete ks)) s _ := (takeBurst_moves _ _ taken).after (strike_moves s ks).widen
    exact .ite (fun _ => (droppedEnds_moves _ _).after moved) fun _ => (partEnds_moves _ _).after moved
  · exact .refl _ s

end

end Sys2Proof.Machine

namespace Sys2Proof.Machine

-- One theorem after the other, so that checking the whole package keeps to few threads.
set_option Elab.async false

/-! ### Requests that are answered at once (R182, R183, R189) -/

section
variable (s : State)

/-- What a request makes of the oldest place of the queue: it keeps to the parts `ps` in any case, and keeps the laws where the
queue has room for a request in execution (R183). -/
structure MovesInRoom (ps : List Part) (s t : State) : Prop where
  frame : ∀ p, p ∉ ps → p.same s t
  moves : s.mgmt.queue.length < Config.requestCapacity → Moves ps s t

theorem Moves.inRoom {ps : List Part} {s t : State} (h : Moves ps s t) : MovesInRoom ps s t := ⟨h.frame, fun _ => h⟩

theorem MovesInRoom.ite {ps : List Part} {s t u : State} {c : Prop} [Decidable c] (ht : c → MovesInRoom ps s t)
    (hu : ¬c → MovesInRoom ps s u) : MovesInRoom ps s (if c then t else u) := by
  split
  · exact ht ‹_›
  · exact hu ‹_›

theorem execute_movesInRoom {ps : List Part} (r : Request) (x : Transfer) (bs : List Burst)
    (hw : within grantParts ps = true := by rfl) : MovesInRoom ps s (s.execute r x bs) :=
  ⟨execute_frame s r x bs hw, fun room => (execute_moves s r x bs room).widen hw⟩

theorem judge_movesInRoom {ps : List Part} (r : Request) (checks : List (Bool × Status)) (f : State → State)
    (h : ∀ t, MovesInRoom ps t (f t)) (hw : within [.queues, .counters] ps = true := by rfl) :
    MovesInRoom ps s (s.judge r checks f) :=
  ⟨judge_frame s r checks f hw fun t => (h t).frame, fun room => judge_moves s r checks f hw fun _ => (h _).moves room⟩

/-- The request that leaves the queue of a state which meets the laws leaves room for itself there. -/
theorem serve_movesInRoom {ps : List Part} (i : Instr) (f : State → Request → State) (h : ∀ t r, MovesInRoom ps t (f t r))
    (hw : within [.requests] ps = true := by rfl) : Moves ps s (s.serve i f) :=
  .of_inv (serve_frame s i f hw fun t r => (h t r).frame) fun laws => serve_moves s i f hw fun t r oldest left => by
    subst left
    exact (h _ r).moves (oldest_leaves_room laws oldest)

/-- A request that names a bank is refused, or goes to the bank (R43, R44, R47, R48). -/
theorem withBank_cases {P : State → Prop} (r : Request) (checks : List (Bool × Status)) (f : Ix → State)
    (refused : ∀ st, P (s.refuse r st)) (h : ∀ b, P (f b)) : P (s.withBank r checks f) := by
  unfold State.withBank
  split
  · exact refused _
  · exact refused _
  · exact h _

/-- A request that is judged, has an effect, and is answered DONE (R183, R189). -/
theorem judgedDone_moves {ps : List Part} (r : Request) (checks : List (Bool × Status)) (f : State → State)
    (body : State → List Byte) (h : firstFailure checks = none → Moves ps (s.bump .requestsAccepted) (f (s.bump .requestsAccepted)))
    (hw : within [.queues, .counters] ps = true := by rfl) :
    Moves ps s (s.judge r checks fun t => (f t).done r (body t)) :=
  judge_moves s r checks _ hw fun passed => (h passed).then (done_moves _ r _) hw

end

/-! ### Reads (R51, R158, R178, R185) -/

section
variable (s : State)

theorem readObject_moves : MovesBy .readObject s :=
  movesBy_of rfl (serve_moves s _ _ rfl fun t r _ _ => judgedDone_moves t r _ id _ fun _ => .refl _ _)

theorem readMatrixColumnSegment_moves : MovesBy .readMatrixColumnSegment s := by
  refine movesBy_of rfl (serve_movesInRoom s _ _ fun t r => ?_)
  split
  · exact (refuse_moves _ _ _).widen.inRoom
  · exact (refuse_moves _ _ _).widen.inRoom
  · unfold State.readback
    refine judge_movesInRoom t r _ _ fun u => .ite (fun _ => execute_movesInRoom u r _ _) fun _ => Moves.inRoom ?_
    exact (done_moves _ r _).after (bump_moves u .readbacks).widen

theorem readPokeRecords_moves : MovesBy .readPokeRecords s :=
  movesBy_of rfl (serve_movesInRoom s _ _ fun t r => judge_movesInRoom t r _ _ fun u => execute_movesInRoom u r _ _)

theorem readTelemetry_moves : MovesBy .readTelemetry s :=
  movesBy_of rfl (serve_movesInRoom s _ _ fun t r => judge_movesInRoom t r _ _ fun u =>
    .ite (fun _ => (done_moves u r _).widen.inRoom) fun _ => execute_movesInRoom u r _ _)

/-! ### Node parameters and port configurations (R2, R31, R186) -/

/-- New node parameters with the mirror link as it is or silenced; silenced in any case where no tail is left (R150, R151). -/
theorem params_moves (new : Params) (m : Mirror) (kept : m = s.mirror ∨ m = s.mirror.silenced)
    (silent : ({ s with params := new } : State).isTail = false → s.isTail = true → m.echoes = [])
    (size : s.Inv → new.actuators ≤ Config.maxActuators) (order : s.Inv → new.dAsm < new.dDel) :
    Moves [.params, .mirror] s { s with params := new, mirror := m } where
  frame q hq := by cases q <;> first | exact absurd (by decide) hq | rfl
  inv laws := { laws with
    echoes := by
      rcases kept with rfl | rfl
      · exact laws.echoes
      · exact Nat.zero_le _
    echoesAtTail := fun noTail => by
      rcases kept with rfl | rfl
      · cases was : s.isTail with
        | false => exact laws.echoesAtTail was
        | true => exact silent noTail was
      · rfl
    misses := by
      rcases kept with rfl | rfl
      · exact laws.misses
      · exact laws.misses
    actuators := size laws
    deadlines := order laws }
  rise _ _ := Nat.le_refl _

theorem setParams_moves (new : Params) (size : s.Inv → new.actuators ≤ Config.maxActuators)
    (order : s.Inv → new.dAsm < new.dDel) : Moves [.params, .mirror, .banks, .counters] s (s.setParams new) := by
  have silenced : Moves [.params, .mirror, .banks, .counters] s
      (if s.isTail && !({ s with params := new } : State).isTail then
        { s with params := new, mirror := s.mirror.silenced } else { s with params := new }) := by
    refine .ite (fun _ => ?_) fun tail => ?_
    · exact (params_moves s new _ (.inr rfl) (fun _ _ => rfl) size order).widen
    · exact (params_moves s new s.mirror (.inl rfl) (fun left was => absurd (by simp [left, was]) tail) size order).widen
  exact .ite (fun _ => silenced) fun _ => (recheckSwap_moves _).after silenced

theorem lastItem_mem {is : List (Nat × Nat)} {n v : Nat} (h : lastItem is n = some v) : (n, v) ∈ is := by
  unfold lastItem at h
  rw [Option.map_eq_some_iff] at h
  obtain ⟨i, last, rfl⟩ := h
  have mem := List.mem_of_getLast? last
  simp only [List.mem_filter, beq_iff_eq] at mem
  obtain ⟨mem, rfl⟩ := mem
  exact mem

/-- A parameter write whose items are in range gives A a value that the part allows (R186). -/
theorem setItems_actuators_le (p : Params) (is : List (Nat × Nat)) (h : is.all (fun i => paramInRange i.1 i.2) = true)
    (was : p.actuators ≤ Config.maxActuators) : (p.setItems is).actuators ≤ Config.maxActuators := by
  have value : (p.setItems is).actuators = (lastItem is 1).getD p.actuators := Params.setItems_values p is 1 h
  rw [value]
  cases last : lastItem is 1 with
  | none => exact was
  | some v =>
    have inRange := List.all_eq_true.mp h _ (lastItem_mem last)
    simp only [paramInRange, Bool.and_eq_true, decide_eq_true_eq] at inRange
    exact inRange.2

theorem writeNodeParameters_moves : MovesBy .writeNodeParameters s := by
  refine movesBy_of rfl (serve_moves s _ _ rfl fun t r _ _ => judgedDone_moves t r _ _ _ fun passed => ?_)
  have checks := firstFailure_none passed
  simp only [State.paramChecks, List.mem_cons, forall_eq_or_imp, Bool.and_eq_true, decide_eq_true_eq] at checks
  obtain ⟨-, -, -, ⟨inRange, order⟩, -⟩ := checks
  exact (setParams_moves (t.bump .requestsAccepted) _ (fun laws => setItems_actuators_le _ _ inRange laws.actuators)
    fun _ => order).widen

/-- A port's configuration and state replaced, its slope count one that R2 allows. -/
theorem configure_moves (p : Ix) (f : PortConfig) (st : PortState) (hf : s.Inv → f.countHolds) :
    Moves [.ports, .portConfigs] s (s.setPort p { s.port p with config := f, state := st }) where
  frame q hq := by cases p <;> cases q <;> first | exact absurd (by decide) hq | rfl
  inv laws := { laws with
    rings := fun q => by
      have positions := laws.rings q
      cases p <;> cases q <;> exact positions
    slopeCounts := fun q => by
      have now := hf laws; have was := laws.slopeCounts q
      cases p <;> cases q <;> assumption }
  rise _ _ := Nat.le_refl _

theorem setPortNow_moves (p : Ix) (new : PortConfig) (hf : s.Inv → new.countHolds) :
    Moves [.ports, .portConfigs, .engine, .hold, .banks, .counters] s (s.setPortNow p new) := by
  have configured := (configure_moves s p new ((s.port p).state.afterEnable (s.port p).config.enabled new.enabled) hf).widen
    (ps := [.ports, .portConfigs, .engine, .hold, .banks, .counters])
  exact .ite (fun _ => (recheckSwap_moves _).after ((zeroHold_moves _).after ((emptyRing_moves _ p).after configured)))
    fun _ => configured

/-- A port configuration whose items are in range has a slope count that R2 allows. -/
theorem setNow_countHolds (f : PortConfig) (is : List (Nat × Nat)) (h : is.all (fun i => portInRange i.1 i.2) = true)
    (was : f.countHolds) : (f.setNow is).countHolds := by
  unfold PortConfig.countHolds PortConfig.setNow
  dsimp only
  cases last : lastItem is 1 with
  | none => exact was
  | some v =>
    have inRange := List.all_eq_true.mp h _ (lastItem_mem last)
    simp only [portInRange, Bool.and_eq_true, decide_eq_true_eq, beq_iff_eq] at inRange
    exact inRange

theorem writePortChecked_moves (r : Request) (h : r.items.all (fun i => portInRange i.1 i.2) = true) :
    Moves (partsOf .writePortConfiguration) s (s.writePortChecked r) := by
  have counts : s.Inv → ((s.port r.portOf).config.setNow r.items).countHolds :=
    fun laws => setNow_countHolds _ _ h (laws.slopeCounts r.portOf)
  have accepted := bump_moves s .requestsAccepted
  unfold State.writePortChecked
  dsimp only
  split
  · refine (done_moves _ r _).after (Moves.after (setPortNow_moves _ _ _ fun laws => ?_) accepted.widen)
    exact setNow_countHolds _ _ h (laws.slopeCounts r.portOf)
  · exact .ite (fun _ => (stagedFull_moves s r).widen) fun _ =>
      (stageSlope_moves _ r _).after (setPortNow_moves s _ _ counts).widen

theorem writePortConfiguration_moves : MovesBy .writePortConfiguration s := by
  refine movesBy_of rfl (serve_moves s _ _ rfl fun t r _ _ => judgeStaged_moves t r _ _ rfl fun passed => ?_)
  have checks := firstFailure_none passed
  simp only [State.portChecks, List.mem_cons, forall_eq_or_imp] at checks
  obtain ⟨-, -, -, inRange, -⟩ := checks
  exact writePortChecked_moves t r inRange

/-! ### Staged writes (R14, R28, R99, R108, R114 to R119, R127, R187) -/

theorem writeReferenceSlopes_moves : MovesBy .writeReferenceSlopes s :=
  movesBy_of rfl (serve_moves s _ _ rfl fun t r _ _ => judgeStaged_moves t r _ _ rfl fun _ => (stageSlope_moves t r _).widen)

/-- The parts that an actuator-side write changes as it takes effect (R118). -/
def ActuatorWrite.parts : ActuatorWrite → List Part
  | .actuatorEntries _ _ => [.actuators, .counters]
  | .gainProfiles _ _ => [.gains]
  | .overrideRanges _ _ => [.overrides]
  | .slaveRecords _ _ => [.slaves]
  | .neighbourPairs _ _ _ => [.pairs]
  | .openShape _ _ => [.openShape]

theorem applyActuator_movesParts (w : ActuatorWrite) (hw : w.ordered) : Moves w.parts s (s.applyActuator w) := by
  cases w with
  | actuatorEntries k es => exact putActuators_moves s k es hw
  | _ => exact .of_frame rfl fun p hp => by cases p <;> first | exact absurd (List.mem_singleton_self _) hp | rfl

/-- A request whose checks stage an actuator-side write. -/
theorem stagedOnActuators_moves {ps : List Part} (i : Instr) (checks : State → Request → List (Bool × Status))
    (w : Request → ActuatorWrite) (ordered : ∀ t r, firstFailure (checks t r) = none → (w r).ordered)
    (parts : ∀ r, within (w r).parts ps = true := by exact fun _ => rfl)
    (classes : ∀ r, (w r).changesClasses = true → within [.effective] ps = true := by exact fun _ _ => rfl)
    (answer : within [.requests] ps = true := by rfl) (stage : within [.queues, .counters, .actuatorQueue] ps = true := by rfl)
    (refuse : within [.queues, .counters] ps = true := by rfl) :
    Moves ps s (s.serve i fun t r => t.judgeStaged r (checks t r) fun u => u.stageActuator r (w r)) :=
  serve_moves s i _ answer fun t r _ _ => judgeStaged_moves t r _ _ refuse fun passed =>
    stageActuator_moves t r (w r) (ordered t r passed)
      (fun u => (applyActuator_movesParts u (w r) (ordered t r passed)).widen (parts r)) stage (classes r)

/-- The entries that a write of actuator entries spells have their parks within their limits (R114). -/
theorem decodedEntry_ordered {bs : List Byte} {e : ActuatorEntry} (h : ActuatorEntry.decode? bs = some e) : e.ordered := by
  unfold ActuatorEntry.decode? at h
  dsimp only at h
  split at h
  · split at h
    · next limits =>
      cases h
      exact ⟨limits.1, limits.2.1⟩
    · cases h
  · cases h

theorem writeActuatorEntries_moves : MovesBy .writeActuatorEntries s :=
  movesBy_of rfl (stagedOnActuators_moves s _ _ _ fun t r _ e mem => by
    simp only [List.mem_filterMap, List.mem_map, id_eq, exists_eq_right] at mem
    obtain ⟨bs, -, spelt⟩ := mem
    exact decodedEntry_ordered spelt)

theorem writeGainProfiles_moves : MovesBy .writeGainProfiles s :=
  movesBy_of rfl (stagedOnActuators_moves s _ _ _ (fun _ _ _ => trivial) (classes := fun _ h => nomatch h))

theorem writeOverrideRanges_moves : MovesBy .writeOverrideRanges s :=
  movesBy_of rfl (stagedOnActuators_moves s _ _ _ fun _ _ _ => trivial)

theorem writeSlaveRecords_moves : MovesBy .writeSlaveRecords s :=
  movesBy_of rfl (stagedOnActuators_moves s _ _ _ (fun _ _ _ => trivial) (classes := fun _ h => nomatch h))

theorem writeNeighbourPairs_moves : MovesBy .writeNeighbourPairs s :=
  movesBy_of rfl (stagedOnActuators_moves s _ _ _ (fun _ _ _ => trivial) (classes := fun _ h => nomatch h))

theorem writeOpenShape_moves : MovesBy .writeOpenShape s :=
  movesBy_of rfl (stagedOnActuators_moves s _ _ _ (fun _ _ _ => trivial) (classes := fun _ h => nomatch h))

/-! ### Other writes (R158, R169, R184, R192) -/

theorem writePokeRecords_moves : MovesBy .writePokeRecords s :=
  movesBy_of rfl (serve_movesInRoom s _ _ fun t r => judge_movesInRoom t r _ _ fun u => execute_movesInRoom u r _ _)

theorem writeTelemetryConfiguration_moves : MovesBy .writeTelemetryConfiguration s := by
  refine movesBy_of rfl (serve_moves s _ _ rfl fun t r _ _ => ?_)
  unfold State.writeTelemetry
  exact judgedDone_moves t r _ _ _ fun _ => (setTelemetry_moves _ _).widen

/-- A write of the event state clears pending events at most (R192). -/
theorem setItem_known (e : Events) (i : Nat × Nat) (h : knownEvents e.pending = true) :
    knownEvents (e.setItem i).pending = true := by
  unfold Events.setItem
  split
  · exact knownEvents_and _ _ h
  all_goals exact h

theorem setItems_known (is : List (Nat × Nat)) (e : Events) (h : knownEvents e.pending = true) :
    knownEvents (is.foldl Events.setItem e).pending = true := by
  induction is generalizing e with
  | nil => exact h
  | cons i is ih => exact ih _ (setItem_known e i h)

/-- The event side replaced by one in which only known events are pending. -/
theorem events_moves (e : Events) (h : s.Inv → knownEvents e.pending = true) :
    Moves [.events, .eventSettings] s { s with events := e } where
  frame q hq := by cases q <;> first | exact absurd (by decide) hq | rfl
  inv laws := { laws with events := h laws }
  rise _ _ := Nat.le_refl _

theorem writeEventState_moves : MovesBy .writeEventState s := by
  refine movesBy_of rfl (serve_moves s _ _ rfl fun t r _ _ => judge_moves t r _ _ rfl fun _ => ?_)
  have written := events_moves (t.bump .requestsAccepted) (r.items.foldl Events.setItem t.events)
    fun laws => setItems_known _ _ laws.events
  exact (reportTest_moves _).after ((done_moves _ r _).after written.widen)

theorem writeObjectOther_moves : MovesBy .writeObjectOther s :=
  movesBy_of rfl (serve_moves s _ _ rfl fun t r _ _ => (refuse_moves t r _).widen)

/-! ### Bank requests (R43 to R50) -/

theorem bankSetup_moves : MovesBy .bankSetup s := by
  refine movesBy_of rfl (serve_moves s _ _ rfl fun t r _ _ => withBank_cases t r _ _ (fun _ => (refuse_moves t r _).widen)
    fun b => judgedDone_moves t r _ _ _ fun _ => ?_)
  exact (setBank_moves _ b _ (fun loading => by cases loading) (by exact id)).widen

theorem loadColumn_moves : MovesBy .loadColumn s :=
  movesBy_of rfl (serve_movesInRoom s _ _ fun t r => withBank_cases t r _ _ (fun _ => (refuse_moves t r _).widen.inRoom)
    fun _ => judge_movesInRoom t r _ _ fun u => execute_movesInRoom u r _ _)

theorem closeBank_moves : MovesBy .closeBank s := by
  refine movesBy_of rfl (serve_moves s _ _ rfl fun t r _ _ => withBank_cases t r _ _ (fun _ => (refuse_moves t r _).widen)
    fun b => ?_)
  have accepted := bump_moves t .requestsAccepted
  have refused := bump_moves t .requestsRefused
  dsimp only
  split
  · exact (refuse_moves t r _).widen
  · refine .ite (fun _ => (done_moves _ r _).after ?_) fun _ => (respond_moves _ _ _ _ _).after refused.widen
    exact (setBank_moves _ b _ (fun ready => by cases ready) (by exact id)).after accepted.widen
  · exact (done_moves _ r _).after accepted.widen
  · exact (done_moves _ r _).after accepted.widen

/-- A swap is marked where none was scheduled (R48). -/
theorem markSwap_moves (b : Ix) (x : SwapTarget) (free : s.swap?.isNone = true) :
    Moves [.banks] s (s.setBank b { s.bank b with swapMark := some x }) where
  frame q hq := by cases q <;> first | exact absurd (by decide) hq | rfl
  inv laws := by
    obtain ⟨zero, one⟩ := (swap?_isNone_iff s).mp free
    have live := laws.oneLive
    refine { laws with oneLive := ?_, oneSwap := ?_ }
    · cases b <;> exact live
    · cases b with
      | zero => exact fun _ => one
      | one => exact fun marked => absurd (show (s.bank .zero).swapMark.isSome = true from marked) (by simp [zero])
  rise _ _ := Nat.le_refl _

theorem swapBank_moves : MovesBy .swapBank s := by
  refine movesBy_of rfl (serve_moves s _ _ rfl fun t r _ _ => withBank_cases t r _ _ (fun _ => (refuse_moves t r _).widen)
    fun b => judgedDone_moves t r _ _ _ fun passed => ?_)
  have checks := firstFailure_none passed
  simp only [List.mem_cons, forall_eq_or_imp] at checks
  obtain ⟨-, -, free, -⟩ := checks
  exact (markSwap_moves (t.bump .requestsAccepted) b _ free).widen

theorem retireBank_moves : MovesBy .retireBank s :=
  movesBy_of rfl (serve_moves s _ _ rfl fun t r _ _ => judgedDone_moves t r _ _ _ fun _ => (retire_moves _).widen)

/-! ### Loop, poke and telemetry requests (R112, R136 to R138, R160, R161, R172) -/

/-- The check of the loop state, behind the common checks of a request for a tail, has passed (R184). -/
theorem tailChecks_passed {t : State} {r : Request} {c : Bool × Status}
    (passed : firstFailure (t.tailChecks r ++ [c]) = none) : c.1 = true :=
  firstFailure_none passed c (by simp)

theorem loopOff_moves : MovesBy .loopOff s := by
  refine movesBy_of rfl (serve_moves s _ _ rfl fun t r _ _ => judgedDone_moves t r _ _ _ fun passed => ?_)
  have notSafe : t.loop.state ≠ .safe := fun safe => by have := tailChecks_passed passed; rw [safe] at this; cases this
  have aborted := abortPoke_moves (t.bump .requestsAccepted)
  exact (leaveRunning_moves _ .off (by decide) (by rw [loopState_of_moves aborted]; exact notSafe)).after aborted.widen

theorem loopOpen_moves : MovesBy .loopOpen s := by
  refine movesBy_of rfl (serve_moves s _ _ rfl fun t r _ _ => judgedDone_moves t r _ _ _ fun passed => ?_)
  have notSafe : t.loop.state ≠ .safe := fun safe => by have := tailChecks_passed passed; rw [safe] at this; cases this
  exact (enterRunning_moves (t.bump .requestsAccepted) .opened (by decide) notSafe).widen

theorem loopClose_moves : MovesBy .loopClose s := by
  refine movesBy_of rfl (serve_moves s _ _ rfl fun t r _ _ => judgedDone_moves t r _ _ _ fun passed => ?_)
  have notSafe : t.loop.state ≠ .safe := fun safe => by have := tailChecks_passed passed; rw [safe] at this; cases this
  have loaded := loadFromOpen_moves (t.bump .requestsAccepted)
  refine (enterRunning_moves _ .closed (by decide) ?_).after ((clearDetectors_moves _).after loaded.widen)
  exact fun safe => notSafe ((loopState_of_moves loaded).symm.trans safe)

theorem loopHold_moves : MovesBy .loopHold s := by
  refine movesBy_of rfl (serve_moves s _ _ rfl fun t r _ _ => judgedDone_moves t r _ _ _ fun passed => ?_)
  have notSafe := applies_not_safe (tailChecks_passed passed)
  exact (leaveRunning_moves (t.bump .requestsAccepted) .held (by decide) notSafe).widen

theorem resetIntegrators_moves : MovesBy .resetIntegrators s :=
  movesBy_of rfl (serve_moves s _ _ rfl fun t r _ _ => judgedDone_moves t r _ _ _ fun _ =>
    (bump_moves _ _).after (parkIntegrators_moves _).widen)

theorem pokeStart_moves : MovesBy .pokeStart s :=
  movesBy_of rfl (serve_moves s _ _ rfl fun t r _ _ => judgedDone_moves t r _ _ _ fun _ => (startPoke_moves _ _).widen)

theorem pokeStop_moves : MovesBy .pokeStop s :=
  movesBy_of rfl (serve_moves s _ _ rfl fun t r _ _ => judgedDone_moves t r _ _ _ fun _ => (stopPoke_moves _).widen)

theorem telemetryArm_moves : MovesBy .telemetryArm s :=
  movesBy_of rfl (serve_moves s _ _ rfl fun t r _ _ => judgedDone_moves t r _ _ _ fun _ => (arm_moves _).widen)

theorem telemetryStop_moves : MovesBy .telemetryStop s :=
  movesBy_of rfl (serve_moves s _ _ rfl fun t r _ _ => judgedDone_moves t r _ _ _ fun _ => (stopCapture_moves _).widen)

end

end Sys2Proof.Machine

namespace Sys2Proof.Machine

-- One theorem after the other, so that checking the whole package keeps to few threads.
set_option Elab.async false

/-! ### CLEAR FAULT and NODE RESET (R73, R194, R195) -/

section
variable (s : State)

theorem clearFault_moves : MovesBy .clearFault s := by
  refine movesBy_of rfl (serve_moves s _ _ rfl fun t r _ _ => judge_moves t r _ _ rfl fun _ => ?_)
  exact (reportTest_moves _).after ((done_moves _ r _).after ((clearTail_moves _).after ((restartPorts_moves _).after
    (clearLatches_moves _).widen)))

theorem nodeReset_moves : MovesBy .nodeReset s :=
  movesBy_of rfl (serve_moves s _ _ rfl fun t r _ _ => judge_moves t r _ _ rfl fun _ => (awaitReset_moves _ r).widen)

/-- The Loop Supervisor after NODE RESET holds its counters and timers cleared; of the snapshot only HELD becomes RELEASED. -/
theorem Loop_nodeReset_eq (l : Loop) : l.nodeReset =
    { l with
      state := .off, badFrames := 0, satRun := 0, lastClampCount := 0, lastFinish := none, starvation := none
      parkRefresh := none, snapshotState := if l.snapshotState = .held then .released else l.snapshotState } := by
  unfold Loop.nodeReset Loop.releaseSnapshot
  dsimp only
  split <;> rfl

theorem resetTables_moves : Moves [.actuators, .lastOutputs, .effective] s s.resetTables := by
  unfold State.resetTables Tables.parkOutputs
  generalize Table.build (d := (0 : Int)) Config.maxActuators _ = outputs
  refine (recomputeClasses_moves _).after ?_
  exact Moves.after (lastOutputs_moves { s with tables := s.tables.parkIntegrators } outputs) (parkIntegrators_moves s).widen

theorem Port_emptied_positions (x : Port) : x.emptied.positionsHold := by
  simp [Port.positionsHold, Port.emptied, Config.ringWords]

theorem nodeResetBegin_moves : MovesBy .nodeResetBegin s := by
  refine movesBy_of rfl (.ite (fun _ => ?_) fun _ => .refl _ s)
  refine (resetTables_moves _).after (Moves.after (qs := partsOf .nodeResetBegin) ?_ (cancelSwap_moves s).widen)
  generalize s.cancelSwap = u
  refine ⟨fun q hq => ?_, fun laws => ?_, fun _ _ => Nat.le_refl _⟩
  · cases q <;> first | exact absurd (by decide) hq | rfl
  · refine { laws with
      realtime := Nat.zero_le _
      control := Nat.zero_le _
      requests := Nat.zero_le _
      slopeQueue := Nat.zero_le _
      actuatorQueue := Nat.zero_le _
      echoes := Nat.zero_le _
      echoesAtTail := fun _ => rfl
      misses := Nat.zero_le _
      badFrames := ?_
      satRun := ?_
      safeOut := ?_
      oneSwap := fun marked => nomatch marked
      events := (by decide : knownEvents 0 = true)
      staged := fun _ mem => nomatch mem
      rings := fun p => ?_
      slopeCounts := fun p => ?_ }
    · rw [Loop_nodeReset_eq]; exact Nat.zero_le _
    · rw [Loop_nodeReset_eq]; exact Nat.zero_le _
    · rw [Loop_nodeReset_eq]; rfl
    · cases p with
      | zero => exact Port_emptied_positions u.ports.fst
      | one => exact Port_emptied_positions u.ports.snd
    · have counts := laws.slopeCounts p
      cases p <;> exact counts

end

/-! ### Power-on reset, a clearing read, and the tick (R20, R193, R196) -/

theorem ActuatorEntry_powerOn_holds : ActuatorEntry.powerOn.ordered ∧ ActuatorEntry.powerOn.admits 0 :=
  ⟨⟨by decide, by decide⟩, ⟨by decide, by decide⟩⟩

theorem Port_powerOn_holds : Port.powerOn.positionsHold ∧ Port.powerOn.config.countHolds :=
  ⟨⟨by decide, by decide, by decide⟩, ⟨by decide, by decide⟩⟩

/-- Power-on reset establishes the laws (R196). -/
theorem powerOn_inv (n : BitVec 3) (e : Nat) : (State.powerOn n e).Inv where
  realtime := Nat.zero_le _
  control := Nat.zero_le _
  requests := Nat.zero_le _
  slopeQueue := Nat.zero_le _
  actuatorQueue := Nat.zero_le _
  echoes := Nat.zero_le _
  echoesAtTail _ := rfl
  misses := Nat.zero_le _
  badFrames := Nat.zero_le _
  satRun := Nat.zero_le _
  safeOut := rfl
  counters _ := Nat.zero_le _
  memory := rfl
  oneLive live := nomatch live
  oneSwap marked := nomatch marked
  events := (by decide : knownEvents 0 = true)
  entries _ := ActuatorEntry_powerOn_holds.1
  integrators _ _ := ActuatorEntry_powerOn_holds.2
  staged _ mem := nomatch mem
  rings p := by cases p <;> exact Port_powerOn_holds.1
  slopeCounts p := by cases p <;> exact Port_powerOn_holds.2
  actuators := Nat.zero_le _
  deadlines := (by decide : 300 < 600)

/-- No law reads the queue of waiting commands. -/
theorem inv_withPending {s : State} (laws : s.Inv) (q : List Instr) : State.Inv { s with pending := q } := { laws with }

theorem powerOnReset_keepsLaws (n : BitVec 3) (s : State) : ∃ t, exec (.powerOnReset n) s = .next t ∧ t.Inv :=
  ⟨_, rfl, inv_withPending (powerOn_inv n _) s.pending⟩

theorem clearCounters_inv {s : State} (laws : s.Inv) (first count : Nat) : (s.clearCounters first count).Inv :=
  { laws with
    counters := fun k => by
      have bound := laws.counters k
      simp only [State.clearCounters, Table_get_clearWhere]
      split
      · exact Nat.zero_le _
      · exact bound }

/-- A clearing read brings counters down, so that it is no `MovesBy`, but it keeps the laws (R193). -/
theorem readCounters_keepsLaws {s : State} (laws : s.Inv) : ∃ t, exec .readCounters s = .next t ∧ t.Inv := by
  refine ⟨_, rfl, ?_⟩
  unfold State.serve
  split
  · next r _ =>
    have left := (dequeue_moves s).inv laws
    unfold State.readCounters State.judge
    split
    · exact (refuse_moves _ r _).inv left
    · have accepted := (bump_moves s.dequeue .requestsAccepted).inv left
      refine (done_moves _ r _).inv ?_
      split
      · exact clearCounters_inv accepted _ _
      · exact accepted
  · exact laws

theorem tick_inv {s : State} (laws : s.Inv) : s.tick.Inv := by
  unfold State.tick
  split
  · exact inv_withPending laws _
  · exact (timebase_moves s _).inv laws

/-! ### Every command and every step -/

/-- Every command but POWER_ON_RESET and READ_COUNTERS, which may bring counters down, moves within its parts. -/
theorem exec_movesBy (i : Instr) (s : State) (notReset : ∀ n, i ≠ .powerOnReset n) (notClear : i ≠ .readCounters) :
    MovesBy i s := by
  cases i with
  | powerOnReset n => exact absurd rfl (notReset n)
  | readCounters => exact absurd rfl notClear
  | slLinkDown p => exact slLinkDown_moves s p
  | slLinkUp p => exact slLinkUp_moves s p
  | slopePacketHeader p h => exact slopePacketHeader_moves s p h
  | slopePacketEnd p bs => exact slopePacketEnd_moves s p bs
  | columnEngineTakePacket => exact columnEngineTakePacket_moves s
  | substitutionJobRun => exact substitutionJobRun_moves s
  | columnBurstDelivered ks => exact columnBurstDelivered_moves s ks
  | assemblyDeadline c => exact assemblyDeadline_moves s c
  | deliveryDeadline c => exact deliveryDeadline_moves s c
  | tiFrameReceived f => exact tiFrameReceived_moves s f
  | tiLinkDown b => exact tiLinkDown_moves s b
  | tiLinkUp => exact tiLinkUp_moves s
  | toSendEnd => exact toSendEnd_moves s
  | toLinkDown => exact toLinkDown_moves s
  | toLinkUp => exact toLinkUp_moves s
  | parkRefreshExpiry => exact parkRefreshExpiry_moves s
  | starvationExpiry => exact starvationExpiry_moves s
  | mlSendEnd => exact mlSendEnd_moves s
  | mlLinkDown => exact mlLinkDown_moves s
  | mlLinkUp => exact mlLinkUp_moves s
  | echoReceived f => exact echoReceived_moves s f
  | echoEntryExpiry => exact echoEntryExpiry_moves s
  | pokeRecordFetchArrival ks => exact pokeRecordFetchArrival_moves s ks
  | telemetryRecordCommit => exact telemetryRecordCommit_moves s
  | telemetryReadEnd ks => exact telemetryReadEnd_moves s ks
  | loadColumnWriteEnd => exact loadColumnWriteEnd_moves s
  | readbackBurstEnd ks => exact readbackBurstEnd_moves s ks
  | pokeRecordsTransferEnd ks => exact pokeRecordsTransferEnd_moves s ks
  | requestWatchdogExpiry w => exact requestWatchdogExpiry_moves s w
  | eventHoldoffExpiry => exact eventHoldoffExpiry_moves s
  | readObject => exact readObject_moves s
  | readMatrixColumnSegment => exact readMatrixColumnSegment_moves s
  | readPokeRecords => exact readPokeRecords_moves s
  | writeNodeParameters => exact writeNodeParameters_moves s
  | writePortConfiguration => exact writePortConfiguration_moves s
  | writeReferenceSlopes => exact writeReferenceSlopes_moves s
  | writeActuatorEntries => exact writeActuatorEntries_moves s
  | writeGainProfiles => exact writeGainProfiles_moves s
  | writeOverrideRanges => exact writeOverrideRanges_moves s
  | writeSlaveRecords => exact writeSlaveRecords_moves s
  | writeNeighbourPairs => exact writeNeighbourPairs_moves s
  | writeOpenShape => exact writeOpenShape_moves s
  | writePokeRecords => exact writePokeRecords_moves s
  | writeTelemetryConfiguration => exact writeTelemetryConfiguration_moves s
  | writeEventState => exact writeEventState_moves s
  | writeObjectOther => exact writeObjectOther_moves s
  | bankSetup => exact bankSetup_moves s
  | loadColumn => exact loadColumn_moves s
  | closeBank => exact closeBank_moves s
  | swapBank => exact swapBank_moves s
  | retireBank => exact retireBank_moves s
  | loopOff => exact loopOff_moves s
  | loopOpen => exact loopOpen_moves s
  | loopClose => exact loopClose_moves s
  | loopHold => exact loopHold_moves s
  | resetIntegrators => exact resetIntegrators_moves s
  | pokeStart => exact pokeStart_moves s
  | pokeStop => exact pokeStop_moves s
  | telemetryArm => exact telemetryArm_moves s
  | telemetryStop => exact telemetryStop_moves s
  | readTelemetry => exact readTelemetry_moves s
  | clearFault => exact clearFault_moves s
  | nodeReset => exact nodeReset_moves s
  | nodeResetBegin => exact nodeResetBegin_moves s
  | dramBurstComplete ks => exact dramBurstComplete_moves s ks

theorem exec_keepsLaws (i : Instr) {s : State} (laws : s.Inv) : ∃ t, exec i s = .next t ∧ t.Inv := by
  by_cases reset : ∃ n, i = .powerOnReset n
  · obtain ⟨n, rfl⟩ := reset
    exact powerOnReset_keepsLaws n s
  · by_cases clear : i = .readCounters
    · subst clear
      exact readCounters_keepsLaws laws
    · exact (exec_movesBy i s (fun n eq => reset ⟨n, eq⟩) clear).keepsLaws laws

theorem step_keepsLaws {s : State} (laws : s.Inv) : ∃ t, step s = .next t ∧ t.Inv := by
  unfold step
  split
  · next i rest _ => exact exec_keepsLaws i (inv_withPending laws rest)
  · exact ⟨_, rfl, tick_inv laws⟩

/-- Settles O4: each command is a chain of moves that keep the laws. -/
theorem everyCommandKeepsTheLaws : Obligations.EveryCommandKeepsTheLaws :=
  ⟨fun i _ laws => exec_keepsLaws i laws, fun _ laws => step_keepsLaws laws⟩

end Sys2Proof.Machine

namespace Sys2Proof.Machine

-- One theorem after the other, so that checking the whole package keeps to few threads.
set_option Elab.async false

/-! ## The grant of the TO transmitter (R70) -/

/-- The frame that an idle transmitter takes, and the two queues that it leaves (R70). -/
def Trunk.served (t : Trunk) : Option Sending × List ToFrame × List ToFrame :=
  match t.realtime, t.control with
  | f :: q, c => (some ⟨f, true⟩, q, c)
  | [], f :: q => (some ⟨f, false⟩, [], q)
  | [], [] => (none, [], [])

section
variable {s : State}

theorem grantTo_of_down (down : s.trunk.toUp = false) : s.grantTo = s := by
  unfold State.grantTo
  exact if_neg (by simp [down])

theorem grantTo_served (up : s.trunk.toUp = true) (idle : s.trunk.sending = none) :
    (s.grantTo.trunk.sending, s.grantTo.trunk.realtime, s.grantTo.trunk.control) = s.trunk.served := by
  unfold State.grantTo Trunk.served
  rw [if_pos (by simp [up, idle])]
  split
  · next realtime => simp [realtime]
  · next realtime control => simp [realtime, control]
  · next realtime control => simp [realtime, control, idle]

theorem grantTo_toUp : s.grantTo.trunk.toUp = s.trunk.toUp := by
  unfold State.grantTo
  split
  · split <;> rfl
  · rfl

end

/-! ## TO_SEND_END and TO_LINK_UP (R70, R71) -/

/-- The counter of a frame that has been sent: that of the queue it came from (R66). -/
def Sending.counter (x : Sending) : Counter := if x.realtime then .realtimeSent else .controlSent

/-- The state in which a frame has been sent to its end and counted, and a NODE RESET that waited for it is due (R66, R70, R73). -/
def State.sent (s : State) (x : Sending) : State :=
  let u := State.bump { s with trunk := { s.trunk with sending := none } } x.counter
  if x.frame.resetResponse && u.mgmt.reset == .waiting then u.resetDue else u

section
variable {s : State} {x : Sending}

theorem toSendEnd_exec (sending : s.trunk.sending = some x) : exec .toSendEnd s = .next (s.sent x).grantTo := by
  show execToSendEnd s = _
  unfold execToSendEnd
  rw [sending]
  rfl

theorem sent_trunk : (s.sent x).trunk = { s.trunk with sending := none } := by
  unfold State.sent
  dsimp only
  split <;> rfl

theorem counter_sent (k : Counter) : (s.sent x).counter k = (s.bump x.counter).counter k := by
  unfold State.sent
  dsimp only
  split <;> rfl

/-- A frame that has been sent is counted for the queue that it came from (R66). -/
theorem sent_counted : s.countedIf (s.sent x).grantTo x.realtime .realtimeSent
    ∧ s.countedIf (s.sent x).grantTo (!x.realtime) .controlSent := by
  unfold State.countedIf
  rw [counter_congr (State_grantTo_counters _), counter_congr (State_grantTo_counters _), counter_sent, counter_sent,
    counter_bump, counter_bump]
  unfold Sending.counter
  cases x.realtime <;> exact ⟨rfl, rfl⟩

end

/-- Settles O12, by the grant of an idle transmitter. -/
theorem transmitterServesRealtimeFirst : Obligations.TransmitterServesRealtimeFirst := by
  intro s
  refine ⟨fun x sending up => ⟨_, toSendEnd_exec sending, sent_counted.1, sent_counted.2, ?_⟩,
    fun idle => ⟨_, rfl, grantTo_toUp, ?_⟩⟩
  · rw [grantTo_served (by rw [sent_trunk]; exact up) (by rw [sent_trunk]), sent_trunk]
    rfl
  · exact (grantTo_served (s := { s with trunk := { s.trunk with toUp := true } }) rfl idle).trans rfl

/-! ## Full queues (R67, R69) -/

section
variable {s : State} (f : ToFrame) (bytes : List Byte)

theorem placeControl_full (full : Config.controlCapacity ≤ s.trunk.control.length) : s.placeControl f = s.bump .controlOverflow :=
  if_pos full

theorem placeControl_joins (room : ¬Config.controlCapacity ≤ s.trunk.control.length) (down : s.trunk.toUp = false) :
    s.placeControl f = { s with trunk := { s.trunk with control := s.trunk.control ++ [f] } } :=
  (if_neg room).trans (grantTo_of_down down)

theorem placeRealtime_displaces (full : Config.realtimeCapacity ≤ s.trunk.realtime.length) (down : s.trunk.toUp = false) :
    s.placeRealtime bytes
      = State.bump { s with trunk := { s.trunk with realtime := s.trunk.realtime.drop 1 ++ [⟨bytes, false⟩] } }
        .realtimeOverflow := by
  unfold State.placeRealtime State.bumpIf
  simp only [full, if_true, decide_true]
  exact grantTo_of_down down

theorem placeRealtime_joins (room : ¬Config.realtimeCapacity ≤ s.trunk.realtime.length) (down : s.trunk.toUp = false) :
    s.placeRealtime bytes = { s with trunk := { s.trunk with realtime := s.trunk.realtime ++ [⟨bytes, false⟩] } } := by
  unfold State.placeRealtime State.bumpIf
  simp only [room, if_false, decide_false]
  exact grantTo_of_down down

end

/-- Settles O13, queue by queue. -/
theorem fullQueuesLoseTheRightFrame : Obligations.FullQueuesLoseTheRightFrame := by
  intro s f bytes down
  constructor
  · split
    · next full =>
      rw [placeControl_full f full]
      exact ⟨rfl, counted_bump s .controlOverflow⟩
    · next room =>
      rw [placeControl_joins f room down]
      exact ⟨rfl, rfl⟩
  · split
    · next full =>
      rw [placeRealtime_displaces bytes full down]
      exact ⟨rfl, counted_bump_of rfl⟩
    · next room =>
      rw [placeRealtime_joins bytes room down]
      exact ⟨rfl, rfl⟩

end Sys2Proof.Machine

namespace Sys2Proof.Machine

-- One theorem after the other, so that checking the whole package keeps to few threads.
set_option Elab.async false

/-! ## The response of a NODE RESET and the moments at which it begins (R73) -/

section
variable {s : State}

theorem grantTo_trunk_congr {t : State} (same : t.trunk = s.trunk) : t.grantTo.trunk = s.grantTo.trunk := by
  unfold State.grantTo
  rw [same]
  split
  · split <;> simp [same]
  · exact same

/-- What placing a frame makes of the trunk depends on the trunk alone. -/
theorem placeControl_trunk_congr {t : State} (f : ToFrame) (same : t.trunk = s.trunk) :
    (t.placeControl f).trunk = (s.placeControl f).trunk := by
  unfold State.placeControl
  rw [same]
  split
  · exact same
  · exact grantTo_trunk_congr rfl

theorem nodeReset_exec {r : Request} (oldest : s.oldest? .nodeReset = some r) (form : r.form = 0) (empty : r.body = []) :
    exec .nodeReset s = .next ((s.dequeue.bump .requestsAccepted).awaitReset r) := by
  show execNodeReset s = _
  unfold execNodeReset
  rw [serve_eq _ oldest, judge_passed _ _ _ _ (by simp [Request.plain, form]),
    judge_passed _ _ _ _ (by simp [Request.bodyIs, empty]), judge_nil]

theorem awaitReset_reset (r : Request) : (s.awaitReset r).mgmt.reset
    = if 16 ≤ s.trunk.control.length ∨ s.trunk.toUp = false then .due else .waiting := by
  unfold State.awaitReset Config.controlCapacity
  simp

theorem resetDue_if (u : State) (response : Bool) :
    (if response && u.mgmt.reset == .waiting then u.resetDue else u).mgmt.reset
      = if response = true ∧ u.mgmt.reset = .waiting then .due else u.mgmt.reset := by
  simp only [Bool.and_eq_true, beq_iff_eq]
  split <;> rfl

theorem sent_reset (x : Sending) : (s.sent x).mgmt.reset
    = if x.frame.resetResponse = true ∧ s.mgmt.reset = .waiting then .due else s.mgmt.reset :=
  resetDue_if (State.bump { s with trunk := { s.trunk with sending := none } } x.counter) x.frame.resetResponse

theorem toLinkDown_reset {t : State} (up : s.trunk.toUp = true) (step : exec .toLinkDown s = .next t) :
    t.mgmt.reset = if s.mgmt.reset = .waiting then .due else s.mgmt.reset := by
  have down : Moves [.links, .queues, .counters, .events, .snapshot, .capture] s (State.bumpIf (State.bump (State.raise
      { s with trunk := { s.trunk with toUp := false, sending := none } } .linkDown) .toLinkDown)
      s.trunk.sending.isSome .transmitAborted) :=
    (bumpIf_moves _ _ _).after ((bump_moves _ _).after ((raise_moves _ _).after (toDown_moves s).widen))
  have kept := down.frame .resetPhase (by decide)
  change execToLinkDown s = _ at step
  unfold execToLinkDown at step
  rw [if_pos up] at step
  cases step
  dsimp only
  rw [← kept]
  split <;> simp_all [State.resetDue]

end

/-! ## What NODE RESET leaves (R195) -/

/-- The units of the node after NODE RESET, their tables apart. -/
def State.resetUnits (s : State) : State :=
  { s with
    counters := s.cancelSwap.counters
    safeOut := false
    ports := ⟨s.ports.fst.reset, s.ports.snd.reset⟩
    engine := s.resetEngine
    frames := s.frames.nodeReset
    bankStore := { s.bankStore with banks := ⟨s.bankStore.banks.fst.reset, s.bankStore.banks.snd.reset⟩ }
    arbiter := s.arbiter.withdraw (fun _ => true)
    trunk := s.trunk.nodeReset
    lastApplied := none
    loop := s.loop.nodeReset
    mirror := s.mirror.nodeReset
    poke := none
    telemetry := Telemetry.reset
    mgmt := ⟨[], none, [], [], .none⟩
    events := s.events.nodeReset }

section
variable (s : State)

/-- A swap that is cancelled on the way is clear in any case once the banks are reset (R49, R195). -/
theorem nodeReset_eq : s.nodeReset = s.resetUnits.resetTables := by
  unfold State.nodeReset State.resetUnits
  unfold State.cancelSwap
  split
  · next b _ _ => cases b <;> rfl
  · rfl

theorem cancelSwap_counted : s.countedIf s.cancelSwap s.swap?.isSome .swapsCancelled := by
  unfold State.countedIf State.cancelSwap
  cases s.swap? with
  | none => rfl
  | some k => exact counted_bump_of rfl

theorem withdraw_all (a : Arbiter) : a.withdraw (fun _ => true)
    = ⟨[], [], [], [], [], a.inProgress.map fun b => { b with dropped := true }⟩ := by
  simp [Arbiter.withdraw]

theorem parkIntegrators_get (t : Tables) {j : Nat} (h : j < Config.maxActuators) :
    t.parkIntegrators.integrators.get j = (t.actuators.get j).park * 65536 := by
  unfold Tables.parkIntegrators Tables.loadIntegrators
  rw [Table_get_build, if_pos h]
  rfl

theorem parkOutputs_get (t : Tables) {j : Nat} (h : j < Config.maxActuators) :
    t.parkOutputs.lastOutputs.get j = (t.actuators.get j).park := by
  unfold Tables.parkOutputs
  rw [Table_get_build, if_pos h]

theorem resetTables_tables : ∃ effective, s.resetTables.tables
    = { s.tables.parkIntegrators.parkOutputs with effective := effective } := by
  unfold State.resetTables State.recomputeClasses
  exact ⟨_, rfl⟩

/-- The integrator states and the last outputs are at the parks (R101, R130). -/
theorem resetTables_parked {j : Nat} (h : j < Config.maxActuators) :
    s.resetTables.tables.integrators.get j = (s.actuator j).park * 65536
      ∧ s.resetTables.tables.lastOutputs.get j = (s.actuator j).park := by
  obtain ⟨effective, tables⟩ := resetTables_tables s
  constructor
  · simp only [tables, Tables_parkOutputs_integrators, parkIntegrators_get _ h]
    rfl
  · simp only [tables, parkOutputs_get _ h, Tables_parkIntegrators_actuators]
    rfl

/-- The configured tables stay as they are (R195). -/
theorem resetTables_configured : s.resetTables.tables.gains = s.tables.gains
    ∧ s.resetTables.tables.openShape = s.tables.openShape ∧ s.resetTables.tables.actuators = s.tables.actuators
    ∧ s.resetTables.tables.overrides = s.tables.overrides ∧ s.resetTables.tables.slaves = s.tables.slaves
    ∧ s.resetTables.tables.pairs = s.tables.pairs ∧ s.resetTables.tables.pairCount = s.tables.pairCount := by
  obtain ⟨effective, tables⟩ := resetTables_tables s
  simp [tables]

theorem nodeResetBegin_exec (due : s.mgmt.reset = .due) : exec .nodeResetBegin s = .next s.resetUnits.resetTables := by
  show execNodeResetBegin s = _
  unfold execNodeResetBegin
  rw [if_pos due, nodeReset_eq]

end

/-- Settles O59, by the state that the reset leaves, unit by unit. -/
theorem nodeResetWaitsForItsResponseAndResets : Obligations.NodeResetWaitsForItsResponseAndResets := by
  refine ⟨fun s r oldest form empty => ?_, fun s x sending => ?_, fun s up => ?_, fun s idle => ?_, fun s due => ?_⟩
  · refine ⟨_, nodeReset_exec oldest form empty, ?_, ?_, awaitReset_reset r⟩
    · unfold State.awaitReset
      simp [State.dequeue]
    · exact placeControl_trunk_congr _ rfl
  · exact ⟨_, toSendEnd_exec sending, by rw [State_grantTo_mgmt]; exact sent_reset x⟩
  · obtain ⟨t, step, down, aborted, -⟩ := toLinkDown_spec up
    exact ⟨t, step, down, aborted, toLinkDown_reset up step⟩
  · exact congrArg Host.Outcome.next (if_neg idle)
  · have arbiter : s.resetUnits.resetTables.arbiter = _ := withdraw_all s.arbiter
    have loop : s.resetUnits.resetTables.loop = _ := Loop_nodeReset_eq s.loop
    have configured := resetTables_configured s.resetUnits
    refine ⟨_, nodeResetBegin_exec s due, fun c => by cases c <;> rfl, rfl, rfl, rfl, rfl,
      fun p => by cases p <;> exact ⟨rfl, rfl, rfl, rfl, rfl, rfl, rfl⟩, fun _ => rfl, rfl, rfl, ?_⟩
    rw [arbiter, loop]
    refine ⟨rfl, rfl, rfl, rfl, rfl, fun b => by cases b <;> rfl, cancelSwap_counted s, rfl, rfl, rfl, rfl, rfl, rfl, rfl,
      rfl, rfl, rfl, rfl, rfl, rfl, rfl, rfl, rfl, rfl, fun j hj => ?_, rfl, rfl, rfl, rfl, rfl, configured⟩
    obtain ⟨integrator, lastOutput⟩ := resetTables_parked s.resetUnits hj
    obtain ⟨-, -, actuators, -⟩ := configured
    exact ⟨integrator, lastOutput, congrArg (Table.get · j) actuators⟩

end Sys2Proof.Machine

namespace Sys2Proof.Machine

-- One theorem after the other, so that checking the whole package keeps to few threads.
set_option Elab.async false

/-! ## What the work on a segment leaves of the arrivals

A frame on TI is counted by its kind as it arrives. The work that follows on a PARTIAL, from the opening of a context to the entry to
SAFE, counts much else but no arrival: `State.SparesArrivals` says so once, and each shared operation has one lemma. -/

/-- The counters of the arrivals on TI (R63, R66). -/
def Counter.ofArrival : Counter → Bool
  | .receivedPartial | .receivedRequest | .receivedResponse | .receivedEvent | .lengthErrors | .crcErrors | .unknownKind => true
  | _ => false

/-- `t` comes from `s` by work that counts no arrival on TI. -/
def State.SparesArrivals (s t : State) : Prop := ∀ k : Counter, k.ofArrival = true → t.counter k = s.counter k

theorem State.SparesArrivals.of_same {s t : State} (counters : t.counters = s.counters) : s.SparesArrivals t :=
  fun k _ => counter_congr counters k

theorem State.SparesArrivals.refl (s : State) : s.SparesArrivals s := .of_same rfl

/-- The last work of a chain, taken first. -/
theorem State.SparesArrivals.after {s u t : State} (k : u.SparesArrivals t) (h : s.SparesArrivals u) : s.SparesArrivals t :=
  fun c hc => (k c hc).trans (h c hc)

/-- A move of parts that hold no counters. -/
theorem Moves.sparesArrivals {ps : List Part} {s t : State} (h : Moves ps s t) (kept : Part.counters ∉ ps := by decide) :
    s.SparesArrivals t := .of_same (h.frame .counters kept).symm

theorem Counter.ofArrival.ne {k c : Counter} (h : k.ofArrival = true) (hc : c.ofArrival = false := by decide) : k ≠ c := by
  rintro rfl
  exact absurd (h.symm.trans hc) (by decide)

section
variable (s : State)

theorem bumpBy_sparesArrivals (c : Counter) (n : Nat) (hc : c.ofArrival = false := by decide) :
    s.SparesArrivals (s.bumpBy c n) := fun k hk => by rw [counter_bumpBy, if_neg (Counter.ofArrival.ne hk hc)]

theorem bump_sparesArrivals (c : Counter) (hc : c.ofArrival = false := by decide) : s.SparesArrivals (s.bump c) :=
  bumpBy_sparesArrivals s c 1 hc

theorem bumpIf_sparesArrivals (b : Bool) (c : Counter) (hc : c.ofArrival = false := by decide) :
    s.SparesArrivals (s.bumpIf b c) := by
  cases b
  · exact .refl s
  · exact bump_sparesArrivals s c hc

theorem placeControl_sparesArrivals (f : ToFrame) : s.SparesArrivals (s.placeControl f) :=
  fun _ hk => counter_placeControl s f (Counter.ofArrival.ne hk)

theorem respond_sparesArrivals (r : Request) (st : Status) (e : Option Tag) (b : List Byte) :
    s.SparesArrivals (s.respond r st e b) := placeControl_sparesArrivals s _

theorem placeRealtime_sparesArrivals (b : List Byte) : s.SparesArrivals (s.placeRealtime b) :=
  fun _ hk => counter_placeRealtime s b (Counter.ofArrival.ne hk)

theorem reportTest_sparesArrivals : s.SparesArrivals s.reportTest :=
  fun _ hk => counter_reportTest s (Counter.ofArrival.ne hk) (Counter.ofArrival.ne hk)

theorem raise_sparesArrivals (e : Event) : s.SparesArrivals (s.raise e) :=
  fun _ hk => counter_raise s e (Counter.ofArrival.ne hk) (Counter.ofArrival.ne hk) (Counter.ofArrival.ne hk)

/-! ### Records and the release of a context (R23, R30, R36, R173 to R176) -/

theorem release_sparesArrivals (c : Ix) : s.SparesArrivals (s.release c) := (release_moves s c).sparesArrivals

theorem dropRecord_sparesArrivals : s.SparesArrivals s.dropRecord := by
  unfold State.dropRecord
  split
  · exact (bump_sparesArrivals _ .telemetryDropped).after (withdrawRecord_moves s).sparesArrivals
  · exact .refl s

theorem beginRecord_sparesArrivals (c : Ix) (n : BitVec 32) : s.SparesArrivals (s.beginRecord c n) := by
  unfold State.beginRecord
  dsimp only
  split
  · exact (release_sparesArrivals _ c).after ((bump_sparesArrivals _ .refusedFull).after
      ((raise_sparesArrivals _ .telemetryFull).after (.of_same rfl)))
  · exact (queueBursts_moves _ _).sparesArrivals.after (.of_same rfl)

theorem offer_sparesArrivals (c : Ix) : s.SparesArrivals (s.offer c) := by
  unfold State.offer
  dsimp only
  split
  · split
    · exact (beginRecord_sparesArrivals _ c _).after ((dropRecord_sparesArrivals _).after (.of_same rfl))
    · exact (release_sparesArrivals _ c).after (.of_same rfl)
  · exact release_sparesArrivals s c

theorem contextDone_sparesArrivals (c : Ix) : s.SparesArrivals (s.contextDone c) := by
  unfold State.contextDone
  dsimp only
  refine (offer_sparesArrivals _ c).after ?_
  split
  · exact .of_same rfl
  · exact (bump_sparesArrivals _ .outOfOrderDeliveries).after (setCtx_moves s c _).sparesArrivals

theorem releaseEarly_sparesArrivals (c : Ix) : s.SparesArrivals (s.releaseEarly c) := by
  unfold State.releaseEarly
  split
  · split
    · exact (release_sparesArrivals _ c).after (dropRecord_sparesArrivals s)
    · exact release_sparesArrivals s c
  · exact release_sparesArrivals s c

/-! ### Drains, the Poke Engine and the entry to SAFE (R28, R118, R144, R163) -/

theorem drainEntries_sparesArrivals {α : Type} {apply : State → α → State}
    (h : ∀ (s : State) (w : α), s.SparesArrivals (apply s w)) (e : Option Tag) (es : List (StagedEntry α)) :
    s.SparesArrivals (State.drainEntries apply e s es) := by
  induction es generalizing s with
  | nil => exact .refl s
  | cons x es ih =>
    exact (ih _).after ((bump_sparesArrivals _ .stagedDrained).after
      ((respond_sparesArrivals _ x.request .done e []).after (h s x.write)))

theorem drainSlope_sparesArrivals (e : Option Tag) : s.SparesArrivals (s.drainSlope e) :=
  (drainEntries_sparesArrivals _ (fun t w => (applySlope_moves t w).sparesArrivals) e _).after
    (emptySlopeQueue_moves s).sparesArrivals

theorem applyActuator_sparesArrivals (w : ActuatorWrite) : s.SparesArrivals (s.applyActuator w) :=
  fun _ hk => counter_applyActuator s w (Counter.ofArrival.ne hk)

theorem drainActuator_sparesArrivals (e : Option Tag) : s.SparesArrivals (s.drainActuator e) := by
  have drained : s.SparesArrivals
      (State.drainEntries State.applyActuator e { s with mgmt := { s.mgmt with actuatorQueue := [] } } s.mgmt.actuatorQueue) :=
    (drainEntries_sparesArrivals _ applyActuator_sparesArrivals e _).after (emptyActuatorQueue_moves s).sparesArrivals
  unfold State.drainActuator
  dsimp only
  split
  · exact (recomputeClasses_moves _).sparesArrivals.after drained
  · exact drained

theorem endRecord_sparesArrivals (e : PokeRun) (r : PokeRecord) : s.SparesArrivals (s.endRecord e r) := by
  have ended : s.SparesArrivals (s.bump .recordsCompleted) := bump_sparesArrivals s .recordsCompleted
  unfold State.endRecord
  dsimp only
  split
  · exact (raise_sparesArrivals _ .pokeDone).after ((bump_sparesArrivals _ .sequencesDone).after
      ((pokeIdle_moves _).sparesArrivals.after ended))
  · split
    · exact (poke_moves _ _).sparesArrivals.after ended
    · exact (queueBursts_moves _ _).sparesArrivals.after ((poke_moves _ _).sparesArrivals.after ended)

theorem pokeStep_sparesArrivals : s.SparesArrivals s.pokeStep.2.2 := by
  unfold State.pokeStep
  split
  · exact .refl s
  · split
    · exact bump_sparesArrivals s .withheldFrames
    · dsimp only
      split
      · exact (poke_moves s _).sparesArrivals
      · split
        · exact (poke_moves s _).sparesArrivals
        · exact endRecord_sparesArrivals s _ _

theorem handToMirror_sparesArrivals (f : MlFrame) : s.SparesArrivals (s.handToMirror f) := by
  unfold State.handToMirror
  split
  · exact bump_sparesArrivals s .unsent
  · split
    · exact .of_same rfl
    · exact State.SparesArrivals.after (.of_same rfl) (bumpIf_sparesArrivals s s.mirror.waiting.isSome .superseded)

theorem buildShape_sparesArrivals : s.SparesArrivals s.buildShape :=
  (handToMirror_sparesArrivals _ _).after (.of_same rfl)

theorem abortPoke_sparesArrivals : s.SparesArrivals s.abortPoke := by
  unfold State.abortPoke
  split
  · exact (reportTest_sparesArrivals _).after ((bump_sparesArrivals _ .sequencesAborted).after (pokeIdle_moves s).sparesArrivals)
  · exact .refl s

theorem enterSafe_sparesArrivals (k : SafeCause) : s.SparesArrivals (s.enterSafe k) := by
  unfold State.enterSafe
  dsimp only
  split
  · have safe : s.SparesArrivals
        { s.fillSnapshot k with loop := { (s.fillSnapshot k).loop with state := .safe }, safeOut := true } :=
      State.SparesArrivals.after (.of_same rfl) (fillSnapshot_moves s k).sparesArrivals
    have counted := (raise_sparesArrivals _ .loopSafe).after ((bump_sparesArrivals _ .safeEntries).after safe)
    have drained := (drainActuator_sparesArrivals _ none).after ((abortPoke_sparesArrivals _).after counted)
    exact (buildShape_sparesArrivals _).after (State.SparesArrivals.after (.of_same rfl) drained)
  · exact .refl s

theorem report_sparesArrivals (bad applied : Bool) (clamps : Nat) : s.SparesArrivals (s.report bad applied clamps) := by
  unfold State.report
  dsimp only
  generalize hu : ({ s with loop := { s.loop with
    lastFinish := some s.now
    starvation := if s.loop.state.applies then some s.now else s.loop.starvation } } : State) = u
  have counted : s.SparesArrivals ((u.countBad bad applied).countSaturation applied clamps) :=
    (countSaturation_moves _ applied clamps).sparesArrivals.after ((countBad_moves u bad applied).sparesArrivals.after
      (by subst hu; exact .of_same rfl))
  split
  · exact (enterSafe_sparesArrivals _ .badFrames).after counted
  · split
    · exact (enterSafe_sparesArrivals _ .saturation).after counted
    · exact counted

/-! ### The pipeline of an applied frame (R121) -/

theorem closedUpdate_sparesArrivals (c : Ix) : s.SparesArrivals (s.closedUpdate c).1 := by
  unfold State.closedUpdate
  exact (setCtx_moves _ c _).sparesArrivals.after ((bumpBy_sparesArrivals _ .antiWindupClamps _).after
    ((bump_sparesArrivals _ .closedUpdates).after (.of_same rfl)))

theorem formValues_sparesArrivals (c : Ix) (closed : Bool) : s.SparesArrivals (s.formValues c closed).2.2 := by
  have updated : s.SparesArrivals (if closed then s.closedUpdate c else (s, 0)).1 := by
    cases closed
    · exact .refl s
    · exact closedUpdate_sparesArrivals s c
  unfold State.formValues
  exact (bumpBy_sparesArrivals _ .unslaved _).after ((bumpBy_sparesArrivals _ .slaveParked _).after
    (State.SparesArrivals.after (.of_same rfl) updated))

theorem countPass_sparesArrivals (c : Ix) (p : Pass) (n : Nat) : s.SparesArrivals (s.countPass c p n) := by
  unfold State.countPass
  exact (setCtx_moves _ c _).sparesArrivals.after ((bumpBy_sparesArrivals _ .outputClamps _).after
    ((bumpBy_sparesArrivals _ .unresolvedPairs _).after ((bumpBy_sparesArrivals _ .limitedPairs _).after
      ((bumpBy_sparesArrivals _ .deadPairs _).after ((bumpBy_sparesArrivals _ .pairsOutOfRange _).after
        (bumpBy_sparesArrivals s .pokeIgnored _))))))

theorem pipeline_sparesArrivals (c : Ix) : s.SparesArrivals (s.pipeline c).1 := by
  unfold State.pipeline
  dsimp only
  refine (handToMirror_sparesArrivals _ _).after ((bump_sparesArrivals _ .commandsBuilt).after
    ((setCtx_moves _ c _).sparesArrivals.after ?_))
  exact (lastOutputs_moves _ _).sparesArrivals.after ((countPass_sparesArrivals _ c _ _).after ((pokeStep_sparesArrivals _).after
    ((formValues_sparesArrivals _ c _).after (drainActuator_sparesArrivals s _))))

/-! ### Merging and finishing (R82, R85 to R87, R91, R92) -/

theorem placeMerged_sparesArrivals (c : Ix) (g : Segment) : s.SparesArrivals (s.placeMerged c g) := by
  unfold State.placeMerged
  dsimp only
  split
  · exact (setCtx_moves s c _).sparesArrivals
  · exact (placeRealtime_sparesArrivals _ _).after (setCtx_moves s c _).sparesArrivals

theorem mergeOne_sparesArrivals (c : Ix) (g : Segment) : s.SparesArrivals (s.mergeOne c g) := by
  unfold State.mergeOne
  refine (placeMerged_sparesArrivals _ c _).after ?_
  cases s.mergeCase (s.ctx c) g with
  | corrupt => exact .refl s
  | ownBitPresent => exact bump_sparesArrivals s .ownBitPresent
  | mixed => exact bump_sparesArrivals s .mixedSegments
  | contributes => exact bump_sparesArrivals s .contributingMerges

theorem mergeStored_sparesArrivals (c : Ix) (is : List Nat) : s.SparesArrivals (s.mergeStored c is) := by
  induction is generalizing s with
  | nil => exact .refl s
  | cons i is ih =>
    unfold State.mergeStored
    split
    · exact (ih _).after (mergeOne_sparesArrivals s c _)
    · exact ih s

theorem mergeAllStored_sparesArrivals (c : Ix) : s.SparesArrivals (s.mergeAllStored c) :=
  (mergeStored_sparesArrivals _ c _).after (setCtx_moves s c _).sparesArrivals

theorem makeMissing_sparesArrivals (c : Ix) (is : List Nat) : s.SparesArrivals (s.makeMissing c is) := by
  induction is generalizing s with
  | nil => exact .refl s
  | cons i is ih =>
    unfold State.makeMissing
    split
    · exact (ih _).after ((placeMerged_sparesArrivals _ c _).after (bump_sparesArrivals s .forcedSegments))
    · exact ih s

theorem buildHead_sparesArrivals (c : Ix) (is : List Nat) : s.SparesArrivals (s.buildHead c is) := by
  induction is generalizing s with
  | nil => exact .refl s
  | cons i is ih => exact (ih _).after (placeMerged_sparesArrivals s c _)

theorem countVerdict_sparesArrivals (v : Verdict) : s.SparesArrivals (s.countVerdict v) := by
  have late (k : Counter) (hk : k.ofArrival = false) : s.SparesArrivals (((s.bump .lateFrames).bump k).raise .lateFrame) :=
    (raise_sparesArrivals _ .lateFrame).after ((bump_sparesArrivals _ k hk).after (bump_sparesArrivals s .lateFrames))
  cases v with
  | lateByDeadline => exact late _ rfl
  | lateByDisplacement => exact late _ rfl
  | lateByTag => exact late _ rfl
  | incomplete => exact (raise_sparesArrivals _ .incompleteFrame).after (bump_sparesArrivals s .incompleteFrames)
  | good => exact bump_sparesArrivals s .goodFrames

theorem computeResiduals_sparesArrivals (c : Ix) (v : List Int) : s.SparesArrivals (s.computeResiduals c v) :=
  (bumpIf_sparesArrivals _ _ .residualSaturatedFrames).after
    ((bump_sparesArrivals _ .residualsComputed).after (setCtx_moves s c _).sparesArrivals)

theorem finish_sparesArrivals (c : Ix) (displaced : Bool) : s.SparesArrivals (s.finish c displaced) := by
  have classed : s.SparesArrivals ((s.soloMasks c).noteFinish c (s.verdict c displaced).cls) :=
    (setCtx_moves _ c _).sparesArrivals.after (soloMasks_moves s c).sparesArrivals
  have summed := (computeResiduals_sparesArrivals _ c ((s.heldSegments c).flatMap Segment.sums)).after
    ((countVerdict_sparesArrivals _ (s.verdict c displaced)).after classed)
  unfold State.finish
  dsimp only
  refine (contextDone_sparesArrivals _ c).after ((report_sparesArrivals _ _ _ _).after ?_)
  split
  · exact (pipeline_sparesArrivals _ c).after (State.SparesArrivals.after (.of_same rfl) summed)
  · exact summed

theorem complete_sparesArrivals (c : Ix) (displaced : Bool) : s.SparesArrivals (s.complete c displaced) := by
  unfold State.complete
  split
  · exact finish_sparesArrivals s c displaced
  · exact contextDone_sparesArrivals s c

theorem forcedMerge_sparesArrivals (c : Ix) (displaced : Bool) : s.SparesArrivals (s.forcedMerge c displaced) := by
  have made := (complete_sparesArrivals _ c displaced).after
    ((makeMissing_sparesArrivals _ c (List.range s.segments)).after (mergeAllStored_sparesArrivals s c))
  unfold State.forcedMerge
  split
  · exact finish_sparesArrivals s c displaced
  · exact (contextDone_sparesArrivals _ c).after (buildHead_sparesArrivals s c _)
  · exact made
  · exact made

/-! ### Displacement, the opening of a context and the slots (R25, R27, R29, R30, R49, R80) -/

theorem abandon_sparesArrivals (c : Ix) : s.SparesArrivals (s.abandon c) :=
  (raise_sparesArrivals _ .contextAbandoned).after ((release_sparesArrivals _ c).after
    ((bump_sparesArrivals _ .abandoned).after (unassigned_moves s c).sparesArrivals))

theorem displace_sparesArrivals (c : Ix) : s.SparesArrivals (s.displace c) := by
  have forced := (releaseEarly_sparesArrivals _ c).after
    ((bump_sparesArrivals _ .forcedByDisplacement).after (forcedMerge_sparesArrivals s c true))
  unfold State.displace
  split
  · exact abandon_sparesArrivals s c
  · exact forced
  · exact forced
  · exact releaseEarly_sparesArrivals s c
  · exact .refl s

theorem chooseCtx_sparesArrivals : s.SparesArrivals s.chooseCtx.2 := by
  unfold State.chooseCtx
  split
  · exact .refl s
  · split
    · exact .refl s
    · exact displace_sparesArrivals s _

theorem takeSwap_sparesArrivals (b : Ix) : s.SparesArrivals (s.takeSwap b) := by
  rw [takeSwap_eq]
  exact (raise_sparesArrivals _ .bankSwapped).after ((bump_sparesArrivals _ .swaps).after (.of_same rfl))

theorem completionTest_sparesArrivals (c : Ix) : s.SparesArrivals (s.completionTest c) :=
  fun _ hk => counter_completionTest s c (Counter.ofArrival.ne hk)

theorem openIn_sparesArrivals (c : Ix) (g : Tag) : s.SparesArrivals (s.openIn c g) := by
  unfold State.openIn
  split
  · exact .refl s
  · dsimp only
    refine (bump_sparesArrivals _ .contextsOpened).after ((completionTest_sparesArrivals _ c).after ?_)
    split
    · exact .of_same rfl
    · exact State.SparesArrivals.after (.of_same rfl) ((drainSlope_sparesArrivals _ (some g)).after (.of_same rfl))

theorem openContext_sparesArrivals (g : Tag) : s.SparesArrivals (s.openContext g).2 := by
  unfold State.openContext
  dsimp only
  refine (openIn_sparesArrivals _ _ g).after ?_
  split
  · exact (takeSwap_sparesArrivals _ _).after (chooseCtx_sparesArrivals s)
  · exact chooseCtx_sparesArrivals s

theorem resolveSegment_sparesArrivals (g : Tag) : s.SparesArrivals (s.resolveSegment g).2 := by
  unfold State.resolveSegment State.resolveNew
  split
  · split
    · exact .refl s
    · exact .refl s
  · split
    · exact .refl s
    · split
      · exact .refl s
      · exact openContext_sparesArrivals s g

theorem slotArrival_sparesArrivals (c : Ix) (g : Segment) : s.SparesArrivals (s.slotArrival c g) := by
  unfold State.slotArrival
  dsimp only
  split
  · split
    · exact (bump_sparesArrivals _ .storedSegments).after (setCtx_moves s c _).sparesArrivals
    · split
      · exact (complete_sparesArrivals _ c false).after (mergeOne_sparesArrivals s c g)
      · exact mergeOne_sparesArrivals s c g
  · exact bump_sparesArrivals s .duplicateSegments
  · exact bump_sparesArrivals s .duplicateSegments

theorem segmentResolved_sparesArrivals (f : List Byte) (g : Segment) : s.SparesArrivals (s.segmentResolved f g) := by
  have resolved := resolveSegment_sparesArrivals s g.tag
  unfold State.segmentResolved
  dsimp only
  split
  · exact (slotArrival_sparesArrivals _ _ g).after resolved
  · exact (raise_sparesArrivals _ .lateInput).after ((bump_sparesArrivals _ .lateSegments).after resolved)
  · exact (bump_sparesArrivals _ .passedThrough).after ((placeRealtime_sparesArrivals _ f).after resolved)

theorem segmentArrives_sparesArrivals (f : List Byte) : s.SparesArrivals (s.segmentArrives f) := by
  unfold State.segmentArrives
  dsimp only
  split
  · exact bump_sparesArrivals s .malformedSegments
  · split
    · exact bump_sparesArrivals s .mismatchedSegments
    · exact segmentResolved_sparesArrivals s f _

end

end Sys2Proof.Machine

namespace Sys2Proof.Machine

-- One theorem after the other, so that checking the whole package keeps to few threads.
set_option Elab.async false

/-! ## A frame that is forwarded and a request for this node (R65, R183) -/

section
variable (s : State) (f : List Byte)

theorem counter_forward {k : Counter} (kept : k ≠ .forwarded ∧ k ≠ .controlOverflow := by decide) :
    (s.forward f).counter k = s.counter k := by
  unfold State.forward
  rw [counter_bump, if_neg kept.1, counter_placeControl s _ kept.2]

theorem forward_counted : s.counted (s.forward f) .forwarded 1 := counted_bump_of (counter_placeControl s _ (by decide))

theorem forward_mgmt : (s.forward f).mgmt = s.mgmt := State_placeControl_mgmt s _

/-- A counting on the way changes nothing of what is forwarded. -/
theorem forward_trunk {t : State} (same : t.trunk = s.trunk) : (t.forward f).trunk = (s.placeControl ⟨f, false⟩).trunk :=
  placeControl_trunk_congr _ same

theorem requestsHeld_eq : s.requestsHeld = s.mgmt.queue.length + if s.mgmt.executing.isSome = true then 1 else 0 := by
  unfold State.requestsHeld
  cases s.mgmt.executing <;> rfl

theorem requestArrives_full (full : 8 ≤ s.requestsHeld) :
    s.requestArrives f = ((s.bump .consumedRequests).bump .busy).respond ⟨framePayload f⟩ .busy none [] := if_pos full

theorem requestArrives_room (room : s.requestsHeld < 8) : s.requestArrives f
    = { s.bump .consumedRequests with mgmt := { s.mgmt with queue := s.mgmt.queue ++ [⟨framePayload f⟩] } } :=
  if_neg (Nat.not_le.mpr room)

theorem counter_requestArrives {k : Counter} (kept : k ≠ .busy ∧ k ≠ .controlOverflow := by decide) :
    (s.requestArrives f).counter k = (s.bump .consumedRequests).counter k := by
  rcases Nat.lt_or_ge s.requestsHeld 8 with room | full
  · rw [requestArrives_room s f room]
    rfl
  · rw [requestArrives_full s f full, counter_respond _ _ _ _ _ kept.2, counter_bump _ .busy, if_neg kept.1]

theorem requestArrives_counted : s.counted (s.requestArrives f) .consumedRequests 1 :=
  (counter_requestArrives s f).trans (counted_bump s .consumedRequests)

/-- With 8 requests held a further one is answered BUSY and does not join the queue (R183). -/
theorem requestArrives_busy (full : 8 ≤ s.requestsHeld) : s.counted (s.requestArrives f) .busy 1
    ∧ (s.requestArrives f).mgmt = s.mgmt
    ∧ (s.requestArrives f).trunk = (s.respond ⟨framePayload f⟩ .busy none []).trunk := by
  rw [requestArrives_full s f full]
  refine ⟨?_, State_placeControl_mgmt _ _, respond_trunk_congr _ _ _ _ rfl rfl⟩
  exact (counter_respond _ _ _ _ _ (by decide)).trans (counted_bump_of (by rw [counter_bump, if_neg (by decide)]))

end

/-! ## The classification of a frame (R63, R65, R66) -/

section
variable {s : State} {f : List Byte}

/-- What a failed check counts and raises (R63). -/
theorem failedCheck_spec (k : Counter) (kept : k ≠ .controlOverflow ∧ k ≠ .eventFrames ∧ k ≠ .triggers) :
    s.counted ((s.bump k).raise .linkCrc) k 1 ∧ s.raised ((s.bump k).raise .linkCrc) .linkCrc
      ∧ ((s.bump k).raise .linkCrc).mgmt = s.mgmt := by
  obtain ⟨control, reports, triggers⟩ := kept
  refine ⟨(counter_raise _ _ control reports triggers).trans (counted_bump s k), ?_, State_raise_mgmt _ _⟩
  exact raised_of_raise (u := s.bump k) (by rw [counter_bump, if_neg reports.symm]) rfl rfl

/-- A PARTIAL is counted whatever the work on its segment is (R65, R66). -/
theorem classify_partial (kind : frameKind f = 1) : s.counted (s.classify f) .receivedPartial 1
    ∧ (s.params.role = .head ∨ s.params.role = .solo → s.counted (s.classify f) .partialDiscarded 1
      ∧ (s.classify f).trunk = s.trunk ∧ (s.classify f).frames = s.frames) := by
  have handed : s.counted ((s.bump .receivedPartial).segmentArrives f) .receivedPartial 1 :=
    (segmentArrives_sparesArrivals _ f _ rfl).trans (counted_bump s _)
  have discarded : s.counted ((s.bump .receivedPartial).bump .partialDiscarded) .receivedPartial 1
      ∧ s.counted ((s.bump .receivedPartial).bump .partialDiscarded) .partialDiscarded 1 :=
    ⟨(bump_sparesArrivals _ .partialDiscarded rfl _ rfl).trans (counted_bump s _),
      counted_bump_of (by rw [counter_bump, if_neg (by decide)])⟩
  obtain ⟨received, counted⟩ := discarded
  unfold State.classify
  simp only [kind]
  cases s.params.role with
  | middle => exact ⟨handed, by simp⟩
  | tail => exact ⟨handed, by simp⟩
  | head => exact ⟨received, fun _ => ⟨counted, rfl, rfl⟩⟩
  | solo => exact ⟨received, fun _ => ⟨counted, rfl, rfl⟩⟩

/-- A frame of a kind that is always forwarded, once it is counted (R65, R66). -/
theorem counted_forward_spec (k : Counter) (kept : k ≠ .forwarded ∧ k ≠ .controlOverflow) :
    s.counted ((s.bump k).forward f) k 1 ∧ s.counted ((s.bump k).forward f) .forwarded 1
      ∧ ((s.bump k).forward f).mgmt = s.mgmt ∧ ((s.bump k).forward f).trunk = (s.placeControl ⟨f, false⟩).trunk := by
  refine ⟨(counter_forward _ f kept).trans (counted_bump s k), ?_, forward_mgmt _ f, forward_trunk s f rfl⟩
  refine (forward_counted (s.bump k) f).trans ?_
  rw [counter_bump, if_neg kept.1.symm]

theorem classify_request (kind : frameKind f = 2) : s.classify f =
    if frameDestination f = s.nodeNumber.toNat then (s.bump .receivedRequest).requestArrives f
    else if frameDestination f = 15 then ((s.bump .receivedRequest).forward f).requestArrives f
    else (s.bump .receivedRequest).forward f := by
  unfold State.classify
  simp only [kind]
  rfl

/-- A request for this node joins the queue or is answered BUSY (R65, R183). -/
theorem classify_request_own (kind : frameKind f = 2) (own : frameDestination f = s.nodeNumber.toNat) :
    s.counted (s.classify f) .receivedRequest 1 ∧ s.counted (s.classify f) .consumedRequests 1
      ∧ if 8 ≤ s.requestsHeld then s.counted (s.classify f) .busy 1 ∧ (s.classify f).mgmt = s.mgmt
          ∧ (s.classify f).trunk = (s.respond ⟨framePayload f⟩ .busy none []).trunk
        else (s.classify f).mgmt = { s.mgmt with queue := s.mgmt.queue ++ [⟨framePayload f⟩] }
          ∧ (s.classify f).trunk = s.trunk := by
  have before {k : Counter} (other : k ≠ .receivedRequest) : (s.bump .receivedRequest).counter k = s.counter k := by
    rw [counter_bump, if_neg other]
  rw [classify_request kind, if_pos own]
  refine ⟨?_, ?_, ?_⟩
  · refine (counter_requestArrives _ f).trans ?_
    rw [counter_bump, if_neg (by decide)]
    exact counted_bump s _
  · refine (requestArrives_counted _ f).trans ?_
    rw [before (by decide)]
  · split
    · next full =>
      obtain ⟨busy, mgmt, trunk⟩ := requestArrives_busy (s.bump .receivedRequest) f full
      refine ⟨busy.trans ?_, mgmt, trunk.trans (respond_trunk_congr _ _ _ _ rfl rfl)⟩
      rw [before (by decide)]
    · next room =>
      rw [requestArrives_room (s.bump .receivedRequest) f (Nat.lt_of_not_le room)]
      exact ⟨rfl, rfl⟩

/-- A request for every node is forwarded, and joins this node's queue where there is room (R65). -/
theorem classify_request_all (kind : frameKind f = 2) (all : frameDestination f = 15) :
    s.counted (s.classify f) .receivedRequest 1 ∧ s.counted (s.classify f) .forwarded 1
      ∧ s.counted (s.classify f) .consumedRequests 1
      ∧ (s.requestsHeld < 8 → (s.classify f).mgmt = { s.mgmt with queue := s.mgmt.queue ++ [⟨framePayload f⟩] }
          ∧ (s.classify f).trunk = (s.placeControl ⟨f, false⟩).trunk) := by
  have notOwn : frameDestination f ≠ s.nodeNumber.toNat := by have := s.nodeNumber.isLt; omega
  obtain ⟨received, forwarded, mgmt, trunk⟩ := counted_forward_spec (s := s) (f := f) .receivedRequest (by decide)
  have uncounted : ((s.bump .receivedRequest).forward f).counter .consumedRequests = s.counter .consumedRequests := by
    rw [counter_forward, counter_bump, if_neg (by decide)]
  rw [classify_request kind, if_neg notOwn, if_pos all]
  generalize (s.bump .receivedRequest).forward f = u at *
  have kept {k : Counter} (h : k ≠ .consumedRequests ∧ k ≠ .busy ∧ k ≠ .controlOverflow) :
      (u.requestArrives f).counter k = u.counter k := by
    rw [counter_requestArrives u f h.2, counter_bump, if_neg h.1]
  refine ⟨(kept (by decide)).trans received, (kept (by decide)).trans forwarded, ?_, fun room => ?_⟩
  · refine (requestArrives_counted u f).trans ?_
    rw [uncounted]
  · have held : u.requestsHeld = s.requestsHeld := by unfold State.requestsHeld; rw [mgmt]
    rw [requestArrives_room u f (held ▸ room), mgmt]
    exact ⟨rfl, trunk⟩

/-- A request for another node is forwarded (R65). -/
theorem classify_request_other (kind : frameKind f = 2) (notOwn : frameDestination f ≠ s.nodeNumber.toNat)
    (notAll : frameDestination f ≠ 15) : s.classify f = (s.bump .receivedRequest).forward f := by
  rw [classify_request kind, if_neg notOwn, if_neg notAll]

/-- A request is counted received whatever its destination is (R66). -/
theorem classify_request_counted (kind : frameKind f = 2) : s.counted (s.classify f) .receivedRequest 1 := by
  by_cases own : frameDestination f = s.nodeNumber.toNat
  · exact (classify_request_own kind own).1
  · by_cases all : frameDestination f = 15
    · exact (classify_request_all kind all).1
    · rw [classify_request_other kind own all]
      exact (counted_forward_spec _ (by decide)).1

theorem classify_response (kind : frameKind f = 3) : s.classify f = (s.bump .receivedResponse).forward f := by
  unfold State.classify
  simp only [kind]

theorem classify_event (kind : frameKind f = 4) : s.classify f = (s.bump .receivedEvent).forward f := by
  unfold State.classify
  simp only [kind]

theorem classify_unknown (notPartial : frameKind f ≠ 1) (notRequest : frameKind f ≠ 2) (notResponse : frameKind f ≠ 3)
    (notEvent : frameKind f ≠ 4) : s.classify f = s.bump .unknownKind := by
  unfold State.classify
  split
  · contradiction
  · contradiction
  · contradiction
  · contradiction
  · rfl

end

/-- Settles O23, by the checks of a frame and then by its kind. -/
theorem trunkFrameIsCheckedAndClassified : Obligations.TrunkFrameIsCheckedAndClassified := by
  intro s f up
  refine ⟨s.receive f, congrArg Host.Outcome.next (if_pos up), ?_⟩
  unfold State.receive
  cases lengthsHold f with
  | false => exact failedCheck_spec .lengthErrors (by decide)
  | true =>
  cases crc32Holds f with
  | false => exact failedCheck_spec .crcErrors (by decide)
  | true =>
  simp only [Bool.not_true, Bool.false_eq_true, Bool.true_eq_false, if_false]
  split
  · next kind => exact classify_partial kind
  · next kind =>
    refine ⟨classify_request_counted kind, fun own => ?_, fun all => ?_, fun notOwn notAll => ?_⟩
    · rw [← requestsHeld_eq]
      exact (classify_request_own kind own).2
    · rw [← requestsHeld_eq]
      exact (classify_request_all kind all).2
    · rw [classify_request_other kind notOwn notAll]
      exact (counted_forward_spec _ (by decide)).2
  · next kind =>
    rw [classify_response kind]
    exact counted_forward_spec _ (by decide)
  · next kind =>
    rw [classify_event kind]
    exact counted_forward_spec _ (by decide)
  · next notPartial notRequest notResponse notEvent =>
    rw [classify_unknown notPartial notRequest notResponse notEvent]
    exact ⟨counted_bump s _, rfl, rfl⟩

end Sys2Proof.Machine

namespace Sys2Proof.Machine

-- One theorem after the other, so that checking the whole package keeps to few threads.
set_option Elab.async false

/-! ## The checks of a segment and the resolution of its tag (R25, R78, R79) -/

/-- What placing a segment's frame makes of the trunk depends on the trunk alone. -/
theorem placeRealtime_trunk_congr {s t : State} (bytes : List Byte) (same : t.trunk = s.trunk) :
    (t.placeRealtime bytes).trunk = (s.placeRealtime bytes).trunk := by
  unfold State.placeRealtime
  rw [same]
  exact grantTo_trunk_congr (by simp)

section
variable {s : State} {f : List Byte} {g : Segment} {c : Ix}

/-- A good PARTIAL at a MIDDLE or TAIL node is handed to the Merge Unit (R63, R65). -/
theorem receive_partial (lengths : lengthsHold f = true) (crc : crc32Holds f = true) (kind : frameKind f = 1)
    (role : s.params.role = .middle ∨ s.params.role = .tail) :
    s.receive f = s.classify f ∧ s.classify f = (s.bump .receivedPartial).segmentArrives f := by
  constructor
  · unfold State.receive
    simp [lengths, crc]
  · unfold State.classify
    rcases role with role | role <;> simp [kind, role]

theorem segmentArrives_malformed (malformed : formsSegment (framePayload f) = false) :
    s.segmentArrives f = s.bump .malformedSegments := by
  unfold State.segmentArrives
  simp [malformed]

theorem segmentArrives_mismatched (forms : formsSegment (framePayload f) = true)
    (mismatched : s.shapeAgrees (Segment.decode (framePayload f)) = false) :
    s.segmentArrives f = s.bump .mismatchedSegments := by
  unfold State.segmentArrives
  simp [forms, mismatched]

theorem segmentArrives_resolved (forms : formsSegment (framePayload f) = true)
    (agrees : s.shapeAgrees (Segment.decode (framePayload f)) = true) :
    s.segmentArrives f = s.segmentResolved f (Segment.decode (framePayload f)) := by
  unfold State.segmentArrives
  simp [forms, agrees]

theorem resolveSegment_done {g : Tag} (found : s.ctxOfTag? g = some c) (done : (s.ctx c).state = .done) :
    s.resolveSegment g = (.late, s) := by
  unfold State.resolveSegment
  rw [found]
  exact if_pos done

theorem resolveSegment_open {g : Tag} (found : s.ctxOfTag? g = some c) (going : (s.ctx c).state ≠ .done) :
    s.resolveSegment g = (.accepted c, s) := by
  unfold State.resolveSegment
  rw [found]
  exact if_neg going

/-- A tag of no open context is resolved alike for packets and segments (R24, R25). -/
theorem resolveSegment_unopened {g : Tag} (unopened : s.ctxOfTag? g = none) : s.resolveSegment g = s.resolveSlope g := by
  unfold State.resolveSegment State.resolveSlope
  rw [unopened]

theorem segmentResolved_late (late : s.resolveSegment g.tag = (.late, s)) :
    s.segmentResolved f g = (s.bump .lateSegments).raise .lateInput := by
  unfold State.segmentResolved
  rw [late]

theorem segmentResolved_passes (noMatrix : s.resolveSegment g.tag = (.noMatrix, s)) :
    s.segmentResolved f g = (s.placeRealtime f).bump .passedThrough := by
  unfold State.segmentResolved
  rw [noMatrix]

theorem segmentResolved_accepted (accepted : s.resolveSegment g.tag = (.accepted c, s)) :
    s.segmentResolved f g = s.slotArrival c g := by
  unfold State.segmentResolved
  rw [accepted]

theorem slotArrival_duplicate (taken : (s.ctx c).slots.get g.index ≠ .empty) :
    s.slotArrival c g = s.bump .duplicateSegments := by
  unfold State.slotArrival
  dsimp only
  split
  · contradiction
  · rfl
  · rfl

theorem slotArrival_stores_spec (assembling : (s.ctx c).state = .assembling) (empty : (s.ctx c).slots.get g.index = .empty) :
    (s.slotArrival c g).counter .storedSegments = (s.bump .storedSegments).counter .storedSegments
      ∧ (s.slotArrival c g).trunk = s.trunk ∧ (s.slotArrival c g).ctx c.other = s.ctx c.other
      ∧ (s.slotArrival c g).ctx c = (s.ctx c).storing g := by
  rw [slotArrival_stores assembling empty]
  exact ⟨rfl, rfl, State_ctx_setCtx_other s c _, State_ctx_setCtx s c _⟩

/-! ## What each outcome leaves (R78 to R80) -/

/-- A counter other than that of the arrivals counts one after a PARTIAL has been counted. -/
theorem counted_after_arrival {k : Counter} (other : k ≠ .receivedPartial) :
    s.counted ((s.bump .receivedPartial).bump k) k 1 :=
  counted_bump_of (by rw [counter_bump, if_neg other])

/-- A late segment is counted and raises LATE_INPUT; the contexts stay (R25, R88). -/
theorem lateSegment_spec : s.counted (((s.bump .receivedPartial).bump .lateSegments).raise .lateInput) .lateSegments 1
    ∧ s.raised (((s.bump .receivedPartial).bump .lateSegments).raise .lateInput) .lateInput
    ∧ (((s.bump .receivedPartial).bump .lateSegments).raise .lateInput).frames = s.frames := by
  refine ⟨?_, ?_, State_raise_frames _ _⟩
  · exact (counter_raise _ _ (by decide) (by decide) (by decide)).trans (counted_after_arrival (by decide))
  · refine raised_of_raise ?_ rfl rfl
    rw [counter_bump, if_neg (by decide), counter_bump, if_neg (by decide)]

/-- A segment of an open context, by the state of its context and of its slot (R25, R80, R88). -/
theorem segmentResolved_open {t : State} (resolved : t = (s.bump .receivedPartial).segmentResolved f g)
    (found : s.ctxOfTag? g.tag = some c) :
    if (s.ctx c).state = .done then s.counted t .lateSegments 1 ∧ s.raised t .lateInput ∧ t.frames = s.frames
    else if (s.ctx c).slots.get g.index ≠ .empty then
      s.counted t .duplicateSegments 1 ∧ t.frames = s.frames ∧ t.trunk = s.trunk
    else ((s.ctx c).state = .assembling →
      s.counted t .storedSegments 1 ∧ t.trunk = s.trunk ∧ t.ctx c.other = s.ctx c.other ∧ t.ctx c = (s.ctx c).storing g) := by
  have found' : (s.bump .receivedPartial).ctxOfTag? g.tag = some c := found
  split
  · next done =>
    rw [resolved, segmentResolved_late (resolveSegment_done found' done)]
    exact lateSegment_spec
  · next going =>
    have accepted : t = (s.bump .receivedPartial).slotArrival c g :=
      resolved.trans (segmentResolved_accepted (resolveSegment_open found' going))
    split
    · next taken =>
      rw [accepted, slotArrival_duplicate (s := s.bump .receivedPartial) taken]
      exact ⟨counted_after_arrival (by decide), rfl, rfl⟩
    · next empty =>
      intro assembling
      obtain ⟨counter, trunk, other, own⟩ :=
        slotArrival_stores_spec (s := s.bump .receivedPartial) assembling (not_not.mp empty)
      rw [accepted]
      exact ⟨counter.trans (counted_after_arrival (by decide)), trunk, other, own⟩

/-- A segment of no open context, where none is opened for it (R25, R79). -/
theorem segmentResolved_unopened {t : State} (resolved : t = (s.bump .receivedPartial).segmentResolved f g)
    (unopened : s.ctxOfTag? g.tag = none) :
    (tagNewerThan g.tag s.frames.newestOpened = false →
      s.counted t .lateSegments 1 ∧ s.raised t .lateInput ∧ t.frames = s.frames)
    ∧ (tagNewerThan g.tag s.frames.newestOpened = true → s.hasMatrix g.tag = false →
      s.counted t .passedThrough 1 ∧ t.frames = s.frames ∧ t.trunk = (s.placeRealtime f).trunk) := by
  have unopened' : (s.bump .receivedPartial).ctxOfTag? g.tag = none := unopened
  refine ⟨fun old => ?_, fun new lacks => ?_⟩
  · rw [resolved, segmentResolved_late ((resolveSegment_unopened unopened').trans (resolveSlope_old unopened' old))]
    exact lateSegment_spec
  · rw [resolved,
      segmentResolved_passes ((resolveSegment_unopened unopened').trans (resolveSlope_noMatrix unopened' new lacks))]
    refine ⟨counted_bump_of ?_, State_placeRealtime_frames _ _, placeRealtime_trunk_congr f rfl⟩
    rw [counter_placeRealtime _ _ (by decide), counter_bump, if_neg (by decide)]

end

/-- Settles O24: the checks of a segment in their order, then the resolution of its tag. -/
theorem segmentsAreStoredDiscardedOrPassed : Obligations.SegmentsAreStoredDiscardedOrPassed := by
  intro s f g up lengths crc kind role decoded
  subst decoded
  obtain ⟨received, handed⟩ := receive_partial lengths crc kind role
  have step : exec (.tiFrameReceived f) s = .next (s.classify f) :=
    congrArg Host.Outcome.next ((if_pos up).trans received)
  refine ⟨_, step, (classify_partial kind).1, ?_⟩
  rw [handed]
  split
  · next malformed =>
    rw [segmentArrives_malformed malformed]
    exact ⟨counted_after_arrival (by decide), rfl, rfl⟩
  · next forms =>
    have forms : formsSegment (framePayload f) = true := Bool.eq_true_of_not_eq_false forms
    split
    · next mismatched =>
      rw [segmentArrives_mismatched (s := s.bump .receivedPartial) forms mismatched]
      exact ⟨counted_after_arrival (by decide), rfl, rfl⟩
    · next agrees =>
      rw [segmentArrives_resolved (s := s.bump .receivedPartial) forms (Bool.eq_true_of_not_eq_false agrees)]
      split
      · next found => exact segmentResolved_open rfl found
      · next unopened => exact segmentResolved_unopened rfl unopened

end Sys2Proof.Machine

namespace Sys2Proof.Machine

-- One theorem after the other, so that checking the whole package keeps to few threads.
set_option Elab.async false

/-! ## The cases of a merge (R53, R82, R84) -/

theorem hasSegFlag_addSegFlag (fs : BitVec 8) (f : SegFlag) : hasSegFlag (addSegFlag fs f) f = true := by
  cases f <;> simp [hasSegFlag, addSegFlag, SegFlag.bit]

/-- The flags that a segment has stay when one is added. -/
theorem and_addSegFlag (fs : BitVec 8) (f : SegFlag) : fs &&& addSegFlag fs f = fs := by
  ext i hi
  rw [addSegFlag, BitVec.getElem_and, BitVec.getElem_or]
  cases fs[i] <;> rfl

/-- Within the bounds of R53 a merged sum is the exact sum. -/
theorem sum48_of_bounds {v w : Int} (hv : v.natAbs ≤ 70368744177664) (hw : w.natAbs ≤ 8796093022208) : sum48 (v + w) = v + w :=
  if_pos (by omega)

theorem zipWith_sum48 {vs ws : List Int} (hv : ∀ v ∈ vs, v.natAbs ≤ 70368744177664)
    (hw : ∀ w ∈ ws, w.natAbs ≤ 8796093022208) :
    List.zipWith (fun x y => sum48 (x + y)) vs ws = List.zipWith (fun x y => x + y) vs ws := by
  refine List.ext_getElem (by simp) fun k hk _ => ?_
  simp only [List.getElem_zipWith]
  exact sum48_of_bounds (hv _ (List.getElem_mem _)) (hw _ (List.getElem_mem _))

section
variable {s : State} {x : Context} {g : Segment}

/-- The cases of R82 in their order. -/
theorem mergeCase_eq (s : State) (x : Context) (g : Segment) : s.mergeCase x g =
    if x.isCorrupt = true then .corrupt
    else if g.mask &&& ownBit s.nodeNumber ≠ 0 then .ownBitPresent
    else if g.label ≠ x.label ∨ g.scale ≠ x.scale then .mixed
    else .contributes := by
  simp only [State.mergeCase, bne_iff_ne, Bool.or_eq_true]
  rfl

/-- What a merge leaves of a segment in every case (R82). -/
theorem mergedSegment_keeps (s : State) (x : Context) (g : Segment) :
    (s.mergedSegment x g).tag = g.tag ∧ (s.mergedSegment x g).index = g.index ∧ (s.mergedSegment x g).count = g.count
      ∧ (s.mergedSegment x g).first = g.first ∧ (s.mergedSegment x g).actuators = g.actuators
      ∧ (s.mergedSegment x g).label = g.label ∧ (s.mergedSegment x g).scale = g.scale
      ∧ g.flags &&& (s.mergedSegment x g).flags = g.flags := by
  unfold State.mergedSegment
  cases s.mergeCase x g with
  | corrupt => exact ⟨rfl, rfl, rfl, rfl, rfl, rfl, rfl, and_addSegFlag _ _⟩
  | ownBitPresent => exact ⟨rfl, rfl, rfl, rfl, rfl, rfl, rfl, and_addSegFlag _ _⟩
  | mixed => exact ⟨rfl, rfl, rfl, rfl, rfl, rfl, rfl, and_addSegFlag _ _⟩
  | contributes => exact ⟨rfl, rfl, rfl, rfl, rfl, rfl, rfl, BitVec.and_self⟩

theorem mergedSegment_index (s : State) (x : Context) (g : Segment) : (s.mergedSegment x g).index = g.index :=
  (mergedSegment_keeps s x g).2.1

/-- A segment that gets nothing added but a flag (R82). -/
theorem mergedSegment_flagged {f : SegFlag} (flagged : s.mergedSegment x g = { g with flags := addSegFlag g.flags f }) :
    (s.mergedSegment x g).sums = g.sums ∧ (s.mergedSegment x g).mask = g.mask
      ∧ hasSegFlag (s.mergedSegment x g).flags f = true := by
  rw [flagged]
  exact ⟨rfl, rfl, hasSegFlag_addSegFlag _ _⟩

theorem mergedSegment_corrupt (met : s.mergeCase x g = .corrupt) :
    s.mergedSegment x g = { g with flags := addSegFlag g.flags .corrupt } := by
  unfold State.mergedSegment
  rw [met]

theorem mergedSegment_mixed (met : s.mergeCase x g = .ownBitPresent ∨ s.mergeCase x g = .mixed) :
    s.mergedSegment x g = { g with flags := addSegFlag g.flags .mixed } := by
  unfold State.mergedSegment
  rcases met with met | met <;> rw [met]

theorem mergedSegment_contributes (met : s.mergeCase x g = .contributes) : s.mergedSegment x g = { g with
    mask := g.mask ||| ownBit s.nodeNumber
    sums := List.zipWith (fun a b => sum48 (a + b)) g.sums (s.localSums x g.index) } := by
  unfold State.mergedSegment
  rw [met]

end

/-! ## What a merged or made segment leaves behind (R80, R85) -/

theorem keepsSegments_iff (r : Role) : r.keepsSegments = true ↔ r = .tail ∨ r = .solo := by cases r <;> simp [Role.keepsSegments]

section
variable (s : State) (c : Ix) (g : Segment)

theorem placeMerged_ctx : (s.placeMerged c g).ctx c = (s.ctx c).takeMerged s.params.role.keepsSegments g := by
  unfold State.placeMerged
  dsimp only
  split
  · exact State_ctx_setCtx s c _
  · rw [placeRealtime_ctx]
    exact State_ctx_setCtx s c _

/-- A tail keeps the segment; elsewhere its frame joins the realtime queue (R62, R80, R85). -/
theorem placeMerged_trunk : (s.placeMerged c g).trunk = if s.params.role.keepsSegments = true then s.trunk
    else (s.placeRealtime (trunkFrame 1 s.nodeNumber.toNat 15 g.encode)).trunk := by
  unfold State.placeMerged
  dsimp only
  split
  · rfl
  · exact placeRealtime_trunk_congr _ rfl

theorem counter_placeMerged {k : Counter} (kept : k ≠ .realtimeOverflow) : (s.placeMerged c g).counter k = s.counter k := by
  unfold State.placeMerged
  dsimp only
  split
  · rfl
  · exact counter_placeRealtime _ _ kept

/-- The merge of one segment is its counting and its leaving (R82, R85). -/
theorem mergeOne_eq : ∃ u : State, u.frames = s.frames ∧ u.params = s.params ∧ u.nodeNumber = s.nodeNumber ∧ u.trunk = s.trunk
    ∧ (∀ k, u.counter k = if (s.mergeCase (s.ctx c) g).counter? = some k then min (s.counter k + 1) Config.counterMax
        else s.counter k)
    ∧ s.mergeOne c g = u.placeMerged c (s.mergedSegment (s.ctx c) g) := by
  unfold State.mergeOne
  dsimp only
  cases (s.mergeCase (s.ctx c) g).counter? with
  | none => exact ⟨s, rfl, rfl, rfl, rfl, fun k => by simp, rfl⟩
  | some n =>
    refine ⟨s.bump n, rfl, rfl, rfl, rfl, fun k => ?_, rfl⟩
    rw [counter_bump]
    by_cases same : k = n
    · rw [if_pos same, if_pos (congrArg some same.symm), same]
    · rw [if_neg same, if_neg (fun h => same (Option.some.inj h).symm)]

theorem mergeOne_ctx :
    (s.mergeOne c g).ctx c = (s.ctx c).takeMerged s.params.role.keepsSegments (s.mergedSegment (s.ctx c) g) := by
  obtain ⟨u, frames, params, -, -, -, merged⟩ := mergeOne_eq s c g
  rw [merged, placeMerged_ctx, ctx_congr frames, params]

theorem mergeOne_trunk : (s.mergeOne c g).trunk = if s.params.role.keepsSegments = true then s.trunk
    else (s.placeRealtime (trunkFrame 1 s.nodeNumber.toNat 15 (s.mergedSegment (s.ctx c) g).encode)).trunk := by
  obtain ⟨u, -, params, node, trunk, -, merged⟩ := mergeOne_eq s c g
  rw [merged, placeMerged_trunk, params, node, trunk, placeRealtime_trunk_congr _ trunk]

theorem counter_mergeOne {k : Counter} (kept : k ≠ .realtimeOverflow) : (s.mergeOne c g).counter k
    = if (s.mergeCase (s.ctx c) g).counter? = some k then min (s.counter k + 1) Config.counterMax else s.counter k := by
  obtain ⟨u, -, -, -, -, counters, merged⟩ := mergeOne_eq s c g
  rw [merged, counter_placeMerged _ _ _ kept, counters]

theorem mergeOne_counted {m : MergeCase} {k : Counter} (met : s.mergeCase (s.ctx c) g = m)
    (counts : m.counter? = some k) (kept : k ≠ .realtimeOverflow) : s.counted (s.mergeOne c g) k 1 :=
  (counter_mergeOne s c g kept).trans (if_pos (met ▸ counts))

end

/-- The merge of one segment takes the first case that applies (R82). -/
theorem mergeOne_takes_first_case (s : State) (c : Ix) (g m : Segment) (merged : m = s.mergedSegment (s.ctx c) g) :
    if (s.ctx c).isCorrupt = true then m.sums = g.sums ∧ m.mask = g.mask ∧ hasSegFlag m.flags .corrupt = true
    else if g.mask &&& ownBit s.nodeNumber ≠ 0 then
      m.sums = g.sums ∧ m.mask = g.mask ∧ hasSegFlag m.flags .mixed = true ∧ s.counted (s.mergeOne c g) .ownBitPresent 1
    else if g.label ≠ (s.ctx c).label ∨ g.scale ≠ (s.ctx c).scale then
      m.sums = g.sums ∧ m.mask = g.mask ∧ hasSegFlag m.flags .mixed = true ∧ s.counted (s.mergeOne c g) .mixedSegments 1
    else m.mask = g.mask ||| ownBit s.nodeNumber ∧ m.flags = g.flags ∧ s.counted (s.mergeOne c g) .contributingMerges 1
      ∧ ((∀ v ∈ g.sums, v.natAbs ≤ 70368744177664) →
        (∀ v ∈ s.localSums (s.ctx c) g.index, v.natAbs ≤ 8796093022208) →
        m.sums = List.zipWith (fun x y => x + y) g.sums (s.localSums (s.ctx c) g.index)) := by
  subst merged
  split
  · next corrupt =>
    have met : s.mergeCase (s.ctx c) g = .corrupt := by rw [mergeCase_eq, if_pos corrupt]
    exact mergedSegment_flagged (mergedSegment_corrupt met)
  · next sound =>
    split
    · next present =>
      have met : s.mergeCase (s.ctx c) g = .ownBitPresent := by rw [mergeCase_eq, if_neg sound, if_pos present]
      obtain ⟨sums, mask, mixed⟩ := mergedSegment_flagged (mergedSegment_mixed (.inl met))
      exact ⟨sums, mask, mixed, mergeOne_counted s c g met rfl (by decide)⟩
    · next absent =>
      split
      · next differs =>
        have met : s.mergeCase (s.ctx c) g = .mixed := by
          rw [mergeCase_eq, if_neg sound, if_neg absent, if_pos differs]
        obtain ⟨sums, mask, mixed⟩ := mergedSegment_flagged (mergedSegment_mixed (.inr met))
        exact ⟨sums, mask, mixed, mergeOne_counted s c g met rfl (by decide)⟩
      · next agrees =>
        have met : s.mergeCase (s.ctx c) g = .contributes := by
          rw [mergeCase_eq, if_neg sound, if_neg absent, if_neg agrees]
        rw [mergedSegment_contributes met]
        exact ⟨rfl, rfl, mergeOne_counted s c g met rfl (by decide), zipWith_sum48⟩

/-- What the merge of one segment leaves in its context and in the trunk (R80, R82, R85). -/
theorem mergeOne_leaves (s : State) (c : Ix) (g m : Segment) (merged : m = s.mergedSegment (s.ctx c) g) :
    ((s.mergeOne c g).ctx c).state = .merging
    ∧ ((s.mergeOne c g).ctx c).frameMask = (s.ctx c).frameMask &&& m.mask
    ∧ ((s.mergeOne c g).ctx c).segFlags = (s.ctx c).segFlags ||| m.flags
    ∧ ((s.mergeOne c g).ctx c).slots.get g.index =
        .merged (if s.params.role = .tail ∨ s.params.role = .solo then some m else none)
    ∧ (s.mergeOne c g).trunk = (if s.params.role = .tail ∨ s.params.role = .solo then s.trunk
        else (s.placeRealtime (trunkFrame 1 s.nodeNumber.toNat 15 m.encode)).trunk) := by
  have keeps := keepsSegments_iff s.params.role
  have index : g.index = m.index := by rw [merged, mergedSegment_index]
  rw [mergeOne_ctx, mergeOne_trunk, ← merged, index]
  exact ⟨rfl, rfl, rfl, (Table_get_set_same _ _ _).trans (congrArg Slot.merged (if_congr keeps rfl rfl)),
    if_congr keeps rfl rfl⟩

end Sys2Proof.Machine

namespace Sys2Proof.Machine

-- One theorem after the other, so that checking the whole package keeps to few threads.
set_option Elab.async false

/-! ## What the finishing leaves of a forced merge

A forced merge is judged by the frames that it has placed and by what it has counted. What follows it, from the verdict to the entry
to SAFE and the offer of the frame, leaves both alone while TO is DOWN: `State.SparesForcing` says so once, and each shared operation
has one lemma. -/

/-- The counters of a forced merge that a delivery deadline brings about (R37, R94). -/
def Counter.ofForcing : Counter → Bool
  | .deliveryDeadlines | .forcedSegments => true
  | _ => false

/-- `t` comes from `s` by work that counts no forced merge and, while TO is DOWN, leaves the realtime queue. -/
structure State.SparesForcing (s t : State) : Prop where
  counters : ∀ k : Counter, k.ofForcing = true → t.counter k = s.counter k
  toUp : t.trunk.toUp = s.trunk.toUp
  realtime : s.trunk.toUp = false → t.trunk.realtime = s.trunk.realtime

theorem State.SparesForcing.of_same {s t : State} (trunk : t.trunk = s.trunk) (counters : t.counters = s.counters) :
    s.SparesForcing t :=
  ⟨fun k _ => counter_congr counters k, congrArg Trunk.toUp trunk, fun _ => congrArg Trunk.realtime trunk⟩

theorem State.SparesForcing.refl (s : State) : s.SparesForcing s := .of_same rfl rfl

/-- The last work of a chain, taken first. -/
theorem State.SparesForcing.after {s u t : State} (k : u.SparesForcing t) (h : s.SparesForcing u) : s.SparesForcing t :=
  ⟨fun c hc => (k.counters c hc).trans (h.counters c hc), k.toUp.trans h.toUp,
    fun down => (k.realtime (h.toUp.trans down)).trans (h.realtime down)⟩

/-- Work that is followed by a change of other parts. -/
theorem State.SparesForcing.then_same {s u t : State} (h : s.SparesForcing u) (trunk : t.trunk = u.trunk)
    (counters : t.counters = u.counters) : s.SparesForcing t := (State.SparesForcing.of_same trunk counters).after h

/-- A move of parts that hold neither counters nor the TO queues. -/
theorem Moves.sparesForcing {ps : List Part} {s t : State} (h : Moves ps s t)
    (kept : Part.counters ∉ ps ∧ Part.queues ∉ ps ∧ Part.links ∉ ps := by decide) : s.SparesForcing t := by
  obtain ⟨counters, queues, links⟩ := kept
  exact ⟨fun k _ => counter_congr (h.frame .counters counters).symm k, (congrArg Prod.snd (h.frame .links links)).symm,
    fun _ => (congrArg Prod.fst (h.frame .queues queues)).symm⟩

/-- A counter outside those of a forced merge. -/
theorem Counter.ofForcing.ne {k c : Counter} (h : k.ofForcing = true) (hc : c.ofForcing = false := by decide) : k ≠ c := by
  rintro rfl
  exact absurd (h.symm.trans hc) (by decide)

section
variable (s : State)

theorem bumpBy_sparesForcing (c : Counter) (n : Nat) (hc : c.ofForcing = false := by decide) :
    s.SparesForcing (s.bumpBy c n) :=
  ⟨fun k hk => by rw [counter_bumpBy, if_neg (Counter.ofForcing.ne hk hc)], rfl, fun _ => rfl⟩

theorem bump_sparesForcing (c : Counter) (hc : c.ofForcing = false := by decide) : s.SparesForcing (s.bump c) :=
  bumpBy_sparesForcing s c 1 hc

theorem bumpIf_sparesForcing (b : Bool) (c : Counter) (hc : c.ofForcing = false := by decide) :
    s.SparesForcing (s.bumpIf b c) := by
  cases b
  · exact .refl s
  · exact bump_sparesForcing s c hc

theorem placeControl_sparesForcing (f : ToFrame) : s.SparesForcing (s.placeControl f) :=
  ⟨fun _ hk => counter_placeControl s f (Counter.ofForcing.ne hk), State_placeControl_trunk_toUp s f,
    fun down => (placeControl_toDown f down).2⟩

theorem respond_sparesForcing (r : Request) (st : Status) (e : Option Tag) (b : List Byte) :
    s.SparesForcing (s.respond r st e b) := placeControl_sparesForcing s _

theorem reportTest_sparesForcing : s.SparesForcing s.reportTest := by
  unfold State.reportTest
  split
  · unfold State.placeEvent
    exact (bump_sparesForcing _ .eventFrames).after ((placeControl_sparesForcing s _).then_same rfl rfl)
  · exact .refl s

theorem raise_sparesForcing (e : Event) : s.SparesForcing (s.raise e) :=
  ⟨fun _ hk => counter_raise s e (Counter.ofForcing.ne hk) (Counter.ofForcing.ne hk) (Counter.ofForcing.ne hk),
    by simp, fun down => (raise_toDown e down).2⟩

/-! ### Records and the release of a context (R23, R36, R173 to R176) -/

theorem dropRecord_sparesForcing : s.SparesForcing s.dropRecord := by
  unfold State.dropRecord
  split
  · exact (bump_sparesForcing _ .telemetryDropped).after (withdrawRecord_moves s).sparesForcing
  · exact .refl s

theorem beginRecord_sparesForcing (c : Ix) (n : BitVec 32) : s.SparesForcing (s.beginRecord c n) := by
  unfold State.beginRecord
  dsimp only
  split
  · exact (release_moves _ c).sparesForcing.after ((bump_sparesForcing _ .refusedFull).after
      ((raise_sparesForcing _ .telemetryFull).after (.of_same rfl rfl)))
  · exact (queueBursts_moves _ _).sparesForcing.after (.of_same rfl rfl)

theorem offer_sparesForcing (c : Ix) : s.SparesForcing (s.offer c) := by
  unfold State.offer
  dsimp only
  split
  · split
    · exact (beginRecord_sparesForcing _ c _).after ((dropRecord_sparesForcing _).after (.of_same rfl rfl))
    · exact (release_moves _ c).sparesForcing.after (.of_same rfl rfl)
  · exact (release_moves s c).sparesForcing

theorem contextDone_sparesForcing (c : Ix) : s.SparesForcing (s.contextDone c) := by
  unfold State.contextDone
  dsimp only
  refine (offer_sparesForcing _ c).after ?_
  split
  · exact .of_same rfl rfl
  · exact (bump_sparesForcing _ .outOfOrderDeliveries).after (setCtx_moves s c _).sparesForcing

/-! ### The drain of staged writes and the entry to SAFE (R118, R144) -/

theorem applyActuator_sparesForcing (w : ActuatorWrite) : s.SparesForcing (s.applyActuator w) := by
  have kept (p : Part) (outside : p ∉ actuatorParts) : p.same s (s.applyActuator w) := applyActuator_frame s w p outside
  exact ⟨fun _ hk => counter_applyActuator s w (Counter.ofForcing.ne hk), (congrArg Prod.snd (kept .links (by decide))).symm,
    fun _ => (congrArg Prod.fst (kept .queues (by decide))).symm⟩

theorem drainEntries_sparesForcing (e : Option Tag) (es : List (StagedEntry ActuatorWrite)) :
    s.SparesForcing (State.drainEntries State.applyActuator e s es) := by
  induction es generalizing s with
  | nil => exact .refl s
  | cons x es ih =>
    exact (ih _).after ((bump_sparesForcing _ .stagedDrained).after
      ((respond_sparesForcing _ x.request .done e []).after (applyActuator_sparesForcing s x.write)))

theorem drainActuator_sparesForcing (e : Option Tag) : s.SparesForcing (s.drainActuator e) := by
  have drained : s.SparesForcing
      (State.drainEntries State.applyActuator e { s with mgmt := { s.mgmt with actuatorQueue := [] } } s.mgmt.actuatorQueue) :=
    (drainEntries_sparesForcing _ e _).after (emptyActuatorQueue_moves s).sparesForcing
  unfold State.drainActuator
  dsimp only
  split
  · exact (recomputeClasses_moves _).sparesForcing.after drained
  · exact drained

theorem handToMirror_sparesForcing (f : MlFrame) : s.SparesForcing (s.handToMirror f) := by
  unfold State.handToMirror
  split
  · exact bump_sparesForcing s .unsent
  · split
    · exact .of_same rfl rfl
    · exact (bumpIf_sparesForcing s _ .superseded).then_same rfl rfl

theorem buildShape_sparesForcing : s.SparesForcing s.buildShape :=
  (handToMirror_sparesForcing _ _).after (.of_same rfl rfl)

theorem abortPoke_sparesForcing : s.SparesForcing s.abortPoke := by
  unfold State.abortPoke
  split
  · exact (reportTest_sparesForcing _).after
      ((bump_sparesForcing _ .sequencesAborted).after (pokeIdle_moves s).sparesForcing)
  · exact .refl s

theorem enterSafe_sparesForcing (k : SafeCause) : s.SparesForcing (s.enterSafe k) := by
  unfold State.enterSafe
  dsimp only
  split
  · have safe : s.SparesForcing
        { s.fillSnapshot k with loop := { (s.fillSnapshot k).loop with state := .safe }, safeOut := true } :=
      (fillSnapshot_moves s k).sparesForcing.then_same rfl rfl
    have counted := (raise_sparesForcing _ .loopSafe).after ((bump_sparesForcing _ .safeEntries).after safe)
    have drained := (drainActuator_sparesForcing _ none).after ((abortPoke_sparesForcing _).after counted)
    exact (buildShape_sparesForcing _).after (drained.then_same rfl rfl)
  · exact .refl s

/-! ### The report of a frame and its verdict (R91, R92, R141, R142) -/

theorem report_sparesForcing (bad applied : Bool) (clamps : Nat) : s.SparesForcing (s.report bad applied clamps) := by
  unfold State.report
  dsimp only
  generalize hu : ({ s with loop := { s.loop with
    lastFinish := some s.now
    starvation := if s.loop.state.applies then some s.now else s.loop.starvation } } : State) = u
  have counted : s.SparesForcing ((u.countBad bad applied).countSaturation applied clamps) :=
    (countSaturation_moves _ applied clamps).sparesForcing.after ((countBad_moves u bad applied).sparesForcing.after
      (by subst hu; exact .of_same rfl rfl))
  split
  · exact (enterSafe_sparesForcing _ .badFrames).after counted
  · split
    · exact (enterSafe_sparesForcing _ .saturation).after counted
    · exact counted

theorem computeResiduals_sparesForcing (c : Ix) (v : List Int) : s.SparesForcing (s.computeResiduals c v) :=
  (bumpIf_sparesForcing _ _ .residualSaturatedFrames).after
    ((bump_sparesForcing _ .residualsComputed).after (setCtx_moves s c _).sparesForcing)

variable {s}

/-- A frame that carries DELIVERY_DEADLINE is late by it, displaced or not (R92). -/
theorem verdict_of_deadline {c : Ix} (deadline : (s.ctx c).hasFlag .deliveryDeadline = true) (displaced : Bool) :
    s.verdict c displaced = .lateByDeadline := if_pos deadline

theorem finish_of_deadline {c : Ix} (deadline : (s.ctx c).hasFlag .deliveryDeadline = true) :
    s.finish c false = s.finish c true := by
  rw [finish_eq_of_late (verdict_of_deadline deadline false) (by decide),
    finish_eq_of_late (verdict_of_deadline deadline true) (by decide)]

theorem finish_sparesForcing {c : Ix} (deadline : (s.ctx c).hasFlag .deliveryDeadline = true) (displaced : Bool) :
    s.SparesForcing (s.finish c displaced) := by
  rw [finish_eq_of_late (verdict_of_deadline deadline displaced) (by decide)]
  have noted : s.SparesForcing ((s.soloMasks c).noteFinish c (Verdict.cls .lateByDeadline)) :=
    (setCtx_moves _ c _).sparesForcing.after (soloMasks_moves s c).sparesForcing
  have judged := (raise_sparesForcing _ .lateFrame).after ((bump_sparesForcing _ .lateByDeadline).after
    ((bump_sparesForcing _ .lateFrames).after noted))
  exact (contextDone_sparesForcing _ c).after ((report_sparesForcing _ true false 0).after
    ((computeResiduals_sparesForcing _ c _).after judged))

/-- The end of a frame that carries DELIVERY_DEADLINE, at a tail and elsewhere (R34, R91). -/
theorem complete_sparesForcing {c : Ix} (deadline : (s.ctx c).hasFlag .deliveryDeadline = true) (displaced : Bool) :
    s.SparesForcing (s.complete c displaced) := by
  unfold State.complete
  split
  · exact finish_sparesForcing deadline displaced
  · exact contextDone_sparesForcing s c

theorem complete_of_deadline {c : Ix} (deadline : (s.ctx c).hasFlag .deliveryDeadline = true) :
    s.complete c false = s.complete c true := by
  unfold State.complete
  rw [finish_of_deadline deadline]

end

end Sys2Proof.Machine

namespace Sys2Proof.Machine

-- One theorem after the other, so that checking the whole package keeps to few threads.
set_option Elab.async false

/-! ## What merged and made segments take from their context (R77, R82, R87) -/

/-- Two contexts from which the same segments are made and merged. -/
structure Context.SameSums (x y : Context) : Prop where
  tag : y.tag = x.tag
  corrupt : y.isCorrupt = x.isCorrupt
  label : y.label = x.label
  scale : y.scale = x.scale
  sums : y.sums = x.sums

theorem Context.SameSums.refl (x : Context) : x.SameSums x := ⟨rfl, rfl, rfl, rfl, rfl⟩

/-- A segment that a forced merge makes for an EMPTY slot (R87). -/
def State.madeSegment (s : State) (c : Ix) (i : Nat) : Segment := s.localSegment (s.ctx c) (addSegFlag 0 .upstreamMissing) i

/-- The segment of a STORED slot. -/
def Slot.stored? : Slot → Option Segment
  | .stored g => some g
  | _ => none

/-- The STORED segments of a context at the given indices, in their order (R80, R81). -/
def Context.storedAt (x : Context) (is : List Nat) : List Segment := is.filterMap fun i => (x.slots.get i).stored?

/-- The given indices whose slots are EMPTY, in their order (R87). -/
def Context.emptyAt (x : Context) (is : List Nat) : List Nat := is.filter fun i => x.slots.get i == .empty

theorem storedAt_cons {x : Context} {i : Nat} {g : Segment} (held : x.slots.get i = .stored g) (is : List Nat) :
    x.storedAt (i :: is) = g :: x.storedAt is := List.filterMap_cons_some (by rw [held]; rfl)

theorem storedAt_congr {x y : Context} {is : List Nat} (same : ∀ i ∈ is, y.slots.get i = x.slots.get i) :
    y.storedAt is = x.storedAt is := List.filterMap_congr fun i hi => by rw [same i hi]

theorem length_storedAt_le (x : Context) (is : List Nat) : (x.storedAt is).length ≤ is.length := List.length_filterMap_le _ _

theorem emptyAt_cons_empty {x : Context} {i : Nat} (empty : x.slots.get i = .empty) (is : List Nat) :
    x.emptyAt (i :: is) = i :: x.emptyAt is := List.filter_cons_of_pos (beq_iff_eq.mpr empty)

theorem emptyAt_cons_taken {x : Context} {i : Nat} (taken : x.slots.get i ≠ .empty) (is : List Nat) :
    x.emptyAt (i :: is) = x.emptyAt is := List.filter_cons_of_neg (mt beq_iff_eq.mp taken)

theorem emptyAt_congr {x y : Context} {is : List Nat} (same : ∀ i ∈ is, y.slots.get i = .empty ↔ x.slots.get i = .empty) :
    y.emptyAt is = x.emptyAt is :=
  List.filter_congr fun i hi => Bool.eq_iff_iff.mpr (by simpa only [beq_iff_eq] using same i hi)

/-- The frames that segments put into the realtime queue as they leave the merge: at a tail none (R80, R85). -/
def State.sends (s : State) (gs : List Segment) : List ToFrame :=
  if s.params.role.keepsSegments = true then []
  else gs.map fun g => ⟨trunkFrame 1 s.nodeNumber.toNat 15 g.encode, false⟩

theorem sends_append (s : State) (gs hs : List Segment) : s.sends (gs ++ hs) = s.sends gs ++ s.sends hs := by
  unfold State.sends
  split
  · rfl
  · exact List.map_append

theorem length_sends_le (s : State) (gs : List Segment) : (s.sends gs).length ≤ gs.length := by
  unfold State.sends
  split
  · exact Nat.zero_le _
  · exact (List.length_map _).le

/-! ## Segments that leave the merge one after the other (R85) -/

/-- `t` comes from `s` by the leaving of segments of context `c` in this order; while TO is DOWN and the realtime queue has room
their frames wait in it in the same order. -/
structure State.Hands (s t : State) (c : Ix) (gs : List Segment) : Prop where
  params : t.params = s.params
  node : t.nodeNumber = s.nodeNumber
  sums : (s.ctx c).SameSums (t.ctx c)
  toUp : t.trunk.toUp = s.trunk.toUp
  realtime : s.trunk.toUp = false → s.trunk.realtime.length + gs.length ≤ 24 →
    t.trunk.realtime = s.trunk.realtime ++ s.sends gs

section
variable {s t u : State} {c : Ix} {gs : List Segment}

theorem State.Hands.mergedSegment (h : s.Hands t c gs) (g : Segment) :
    t.mergedSegment (t.ctx c) g = s.mergedSegment (s.ctx c) g := by
  obtain ⟨params, node, ⟨_, corrupt, label, scale, sums⟩, _, _⟩ := h
  unfold State.mergedSegment State.mergeCase State.localSums
  rw [corrupt, label, scale, sums, params, node]

theorem State.Hands.madeSegment (h : s.Hands t c gs) (i : Nat) : t.madeSegment c i = s.madeSegment c i := by
  obtain ⟨params, node, ⟨tag, corrupt, label, scale, sums⟩, _, _⟩ := h
  unfold State.madeSegment State.localSegment State.localSums State.segments
  rw [tag, corrupt, label, scale, sums, params, node]

theorem State.Hands.trans {hs : List Segment} (h : s.Hands u c gs) (k : u.Hands t c hs) : s.Hands t c (gs ++ hs) where
  params := k.params.trans h.params
  node := k.node.trans h.node
  sums := ⟨k.sums.tag.trans h.sums.tag, k.sums.corrupt.trans h.sums.corrupt, k.sums.label.trans h.sums.label,
    k.sums.scale.trans h.sums.scale, k.sums.sums.trans h.sums.sums⟩
  toUp := k.toUp.trans h.toUp
  realtime down room := by
    rw [List.length_append] at room
    have first := h.realtime down (by omega)
    have sends : u.sends hs = s.sends hs := by unfold State.sends; rw [h.params, h.node]
    have length := length_sends_le s gs
    have second := k.realtime (h.toUp.trans down) (by rw [first, List.length_append]; omega)
    rw [second, first, sends, sends_append, List.append_assoc]

/-- A step at which no segment leaves. -/
theorem State.Hands.of_same (params : t.params = s.params) (node : t.nodeNumber = s.nodeNumber) (trunk : t.trunk = s.trunk)
    (sums : (s.ctx c).SameSums (t.ctx c)) : s.Hands t c [] :=
  ⟨params, node, sums, congrArg Trunk.toUp trunk, fun _ _ => by rw [trunk]; unfold State.sends; split <;> simp⟩

theorem State.Hands.refl (s : State) (c : Ix) : s.Hands s c [] := .of_same rfl rfl rfl (.refl _)

variable (s c)

theorem placeMerged_hands (g : Segment) : s.Hands (s.placeMerged c g) c [g] where
  params := ((placeMerged_moves s c g).frame .params (by decide)).symm
  node := ((placeMerged_moves s c g).frame .nodeNumber (by decide)).symm
  sums := by rw [placeMerged_ctx]; exact ⟨rfl, rfl, rfl, rfl, rfl⟩
  toUp := (congrArg Prod.snd ((placeMerged_moves s c g).frame .links (by decide))).symm
  realtime down room := by
    have room : ¬Config.realtimeCapacity ≤ s.trunk.realtime.length := Nat.not_le.mpr room
    rw [placeMerged_trunk]
    unfold State.sends
    split
    · exact (List.append_nil _).symm
    · rw [placeRealtime_joins _ room down]
      rfl

theorem mergeOne_hands (g : Segment) : s.Hands (s.mergeOne c g) c [s.mergedSegment (s.ctx c) g] := by
  obtain ⟨u, frames, params, node, trunk, -, merged⟩ := mergeOne_eq s c g
  rw [merged]
  exact (State.Hands.of_same params node trunk (by rw [ctx_congr frames]; exact .refl _)).trans (placeMerged_hands u c _)

/-! ## The STORED segments are merged in their order of arrival (R81) -/

/-- A merge takes the segment's own slot and leaves the others. -/
theorem mergeOne_slots (g : Segment) (j : Nat) : ((s.mergeOne c g).ctx c).slots.get j
    = if j = g.index then .merged (if s.params.role.keepsSegments then some (s.mergedSegment (s.ctx c) g) else none)
      else (s.ctx c).slots.get j := by
  rw [mergeOne_ctx, ← mergedSegment_index s (s.ctx c) g]
  exact Table_get_set _ _ _ _

/-- Indices that hold segments of their own number. -/
def Context.holdsAt (x : Context) (is : List Nat) : Prop := ∀ i ∈ is, ∃ g, x.slots.get i = .stored g ∧ g.index = i

theorem mergeStored_hands (is : List Nat) (once : is.Nodup) (held : (s.ctx c).holdsAt is) :
    s.Hands (s.mergeStored c is) c (((s.ctx c).storedAt is).map (s.mergedSegment (s.ctx c)))
    ∧ ∀ j, ((s.mergeStored c is).ctx c).slots.get j = .empty ↔ (s.ctx c).slots.get j = .empty := by
  induction is generalizing s with
  | nil => exact ⟨.refl s c, fun _ => .rfl⟩
  | cons i is ih =>
    obtain ⟨new, once⟩ := List.nodup_cons.mp once
    obtain ⟨g, stored, index⟩ := held i List.mem_cons_self
    have others : ∀ j ∈ is, ((s.mergeOne c g).ctx c).slots.get j = (s.ctx c).slots.get j := fun j hj => by
      rw [mergeOne_slots, if_neg (by rintro rfl; exact new (index ▸ hj))]
    have first := mergeOne_hands s c g
    obtain ⟨rest, emptied⟩ := ih (s.mergeOne c g) once fun j hj => by
      rw [others j hj]
      exact held j (List.mem_cons_of_mem _ hj)
    have step : s.mergeStored c (i :: is) = (s.mergeOne c g).mergeStored c is := by
      rw [State.mergeStored, stored]
    rw [step, storedAt_cons stored]
    refine ⟨?_, fun j => (emptied j).trans ?_⟩
    · rw [storedAt_congr others, funext first.mergedSegment] at rest
      exact first.trans rest
    · rw [mergeOne_slots]
      split
      · next same => simp [same, index, stored]
      · exact .rfl

theorem mergeAllStored_hands (once : (s.ctx c).storedOrder.Nodup) (held : (s.ctx c).holdsAt (s.ctx c).storedOrder) :
    s.Hands (s.mergeAllStored c) c (((s.ctx c).storedAt (s.ctx c).storedOrder).map (s.mergedSegment (s.ctx c)))
    ∧ ∀ j, ((s.mergeAllStored c).ctx c).slots.get j = .empty ↔ (s.ctx c).slots.get j = .empty := by
  have ctx : (s.setCtx c { s.ctx c with storedOrder := [] }).ctx c = { s.ctx c with storedOrder := [] } :=
    State_ctx_setCtx s c _
  have used : s.Hands (s.setCtx c { s.ctx c with storedOrder := [] }) c [] :=
    .of_same rfl rfl rfl (by rw [ctx]; exact ⟨rfl, rfl, rfl, rfl, rfl⟩)
  have merged := mergeStored_hands (s.setCtx c { s.ctx c with storedOrder := [] }) c (s.ctx c).storedOrder once
    (by rw [ctx]; exact held)
  rw [funext used.mergedSegment, ctx] at merged
  exact ⟨used.trans merged.1, merged.2⟩

/-! ## The missing segments are made in rising order (R87) -/

theorem madeSegment_slots (i j : Nat) : (((s.bump .forcedSegments).placeMerged c (s.madeSegment c i)).ctx c).slots.get j
    = if j = i then .merged (if s.params.role.keepsSegments then some (s.madeSegment c i) else none)
      else (s.ctx c).slots.get j := by
  rw [placeMerged_ctx]
  exact Table_get_set _ _ _ _

theorem madeSegment_hands (i : Nat) :
    s.Hands ((s.bump .forcedSegments).placeMerged c (s.madeSegment c i)) c [s.madeSegment c i] :=
  have counted : s.Hands (s.bump .forcedSegments) c [] := .of_same rfl rfl rfl (.refl (s.ctx c))
  counted.trans (placeMerged_hands _ c _)

theorem makeMissing_cons_empty {i : Nat} (empty : (s.ctx c).slots.get i = .empty) (is : List Nat) :
    s.makeMissing c (i :: is) = ((s.bump .forcedSegments).placeMerged c (s.madeSegment c i)).makeMissing c is := by
  rw [State.makeMissing, empty]
  rfl

theorem makeMissing_cons_taken {i : Nat} (taken : (s.ctx c).slots.get i ≠ .empty) (is : List Nat) :
    s.makeMissing c (i :: is) = s.makeMissing c is := by
  rw [State.makeMissing]
  split
  · contradiction
  · rfl

/-- Each EMPTY slot becomes MERGED, at a tail with its segment; the others stay. -/
theorem makeMissing_slots (is : List Nat) (j : Nat) : ((s.makeMissing c is).ctx c).slots.get j
    = if j ∈ (s.ctx c).emptyAt is then .merged (if s.params.role.keepsSegments then some (s.madeSegment c j) else none)
      else (s.ctx c).slots.get j := by
  induction is generalizing s with
  | nil => rfl
  | cons i is ih =>
    by_cases empty : (s.ctx c).slots.get i = .empty
    · have first := madeSegment_hands s c i
      have slots := madeSegment_slots s c i
      rw [makeMissing_cons_empty s c empty, ih, emptyAt_cons_empty empty, first.params, first.madeSegment]
      simp only [Context.emptyAt, List.mem_filter, List.mem_cons, beq_iff_eq, slots]
      by_cases same : j = i
      · simp [same]
      · simp [same]
    · rw [makeMissing_cons_taken s c empty, ih, emptyAt_cons_taken empty]

theorem counter_madeSegment (i : Nat) {k : Counter} (kept : k ≠ .realtimeOverflow) :
    ((s.bump .forcedSegments).placeMerged c (s.madeSegment c i)).counter k = (s.bump .forcedSegments).counter k :=
  counter_placeMerged _ _ _ kept

variable {s c}

theorem countedTimes_first {k : Counter} {n : Nat} (first : s.counted u k 1) (rest : u.countedTimes t k n) :
    s.countedTimes t k (n + 1) := by
  unfold State.countedTimes State.counted at *
  rw [rest, first]
  split <;> simp <;> omega

variable (s c)

theorem makeMissing_hands (is : List Nat) (once : is.Nodup) :
    s.Hands (s.makeMissing c is) c (((s.ctx c).emptyAt is).map (s.madeSegment c))
    ∧ s.countedTimes (s.makeMissing c is) .forcedSegments ((s.ctx c).emptyAt is).length := by
  induction is generalizing s with
  | nil => exact ⟨.refl s c, rfl⟩
  | cons i is ih =>
    obtain ⟨new, once⟩ := List.nodup_cons.mp once
    by_cases empty : (s.ctx c).slots.get i = .empty
    · have first := madeSegment_hands s c i
      have counted : s.counted ((s.bump .forcedSegments).placeMerged c (s.madeSegment c i)) .forcedSegments 1 :=
        (counter_madeSegment s c i (by decide)).trans (counted_bump s _)
      have others : ∀ j ∈ is, (((s.bump .forcedSegments).placeMerged c (s.madeSegment c i)).ctx c).slots.get j = .empty
          ↔ (s.ctx c).slots.get j = .empty := fun j hj => by
        rw [madeSegment_slots, if_neg (by rintro rfl; exact new hj)]
      obtain ⟨rest, times⟩ := ih ((s.bump .forcedSegments).placeMerged c (s.madeSegment c i)) once
      rw [emptyAt_congr others] at rest times
      rw [makeMissing_cons_empty s c empty, emptyAt_cons_empty empty]
      rw [funext first.madeSegment] at rest
      exact ⟨first.trans rest, countedTimes_first counted times⟩
    · rw [makeMissing_cons_taken s c empty, emptyAt_cons_taken empty]
      exact ih s once

end

end Sys2Proof.Machine

namespace Sys2Proof.Machine

-- One theorem after the other, so that checking the whole package keeps to few threads.
set_option Elab.async false

/-! ## A forced merge at a MIDDLE or TAIL node (R87) -/

/-- The steps of a forced merge before the context is complete. -/
def State.forced (s : State) (c : Ix) : State := (s.mergeAllStored c).makeMissing c (List.range s.segments)

section
variable {s : State} {c : Ix}

theorem forcedMerge_eq (role : s.params.role = .middle ∨ s.params.role = .tail) (displaced : Bool) :
    s.forcedMerge c displaced = (s.forced c).complete c displaced := by
  unfold State.forcedMerge
  rcases role with role | role <;> rw [role] <;> rfl

theorem forced_flags (s : State) (c : Ix) : ((s.forced c).ctx c).flags = (s.ctx c).flags :=
  (makeMissing_flags _ c _).trans (mergeAllStored_flags s c)

/-- A merge counts its own case, and no forced merge (R82, R94). -/
theorem not_ofForcing_of_counter? {m : MergeCase} {k : Counter} (counts : m.counter? = some k) : k.ofForcing = false := by
  cases m <;> cases counts <;> rfl

theorem counter_mergeStored (s : State) (c : Ix) (is : List Nat) {k : Counter} (kept : k.ofForcing = true) :
    (s.mergeStored c is).counter k = s.counter k := by
  have merged (s : State) (g : Segment) : (s.mergeOne c g).counter k = s.counter k := by
    rw [counter_mergeOne s c g (Counter.ofForcing.ne kept)]
    exact if_neg fun counts => Counter.ofForcing.ne kept (not_ofForcing_of_counter? counts) rfl
  induction is generalizing s with
  | nil => rfl
  | cons i is ih =>
    unfold State.mergeStored
    split
    · exact (ih _).trans (merged s _)
    · exact ih s

/-- The merge of what is STORED counts no forced merge, and making what is missing counts its own (R37, R94). -/
theorem counter_mergeAllStored (s : State) (c : Ix) {k : Counter} (kept : k.ofForcing = true) :
    (s.mergeAllStored c).counter k = s.counter k := counter_mergeStored _ c _ kept

theorem counter_makeMissing (s : State) (c : Ix) (is : List Nat) {k : Counter} (kept : k ≠ .realtimeOverflow)
    (other : k ≠ .forcedSegments) : (s.makeMissing c is).counter k = s.counter k := by
  induction is generalizing s with
  | nil => rfl
  | cons i is ih =>
    by_cases empty : (s.ctx c).slots.get i = .empty
    · rw [makeMissing_cons_empty s c empty, ih, counter_madeSegment s c i kept, counter_bump, if_neg other]
    · rw [makeMissing_cons_taken s c empty, ih]

/-- What a forced merge sends and counts: the STORED segments in their order of arrival, then those made in rising order. -/
theorem forced_hands (once : (s.ctx c).storedOrder.Nodup) (held : (s.ctx c).holdsAt (s.ctx c).storedOrder) :
    s.Hands (s.forced c) c (((s.ctx c).storedAt (s.ctx c).storedOrder).map (s.mergedSegment (s.ctx c))
      ++ ((s.ctx c).emptyAt (List.range s.segments)).map (s.madeSegment c))
    ∧ s.countedTimes (s.forced c) .forcedSegments ((s.ctx c).emptyAt (List.range s.segments)).length := by
  obtain ⟨merged, emptied⟩ := mergeAllStored_hands s c once held
  obtain ⟨made, times⟩ := makeMissing_hands (s.mergeAllStored c) c (List.range s.segments) List.nodup_range
  rw [emptyAt_congr fun j _ => emptied j] at made times
  rw [funext merged.madeSegment] at made
  refine ⟨merged.trans made, ?_⟩
  unfold State.countedTimes at *
  rwa [counter_mergeAllStored s c rfl] at times

end

/-! ## The forced merge that a delivery deadline brings about (R35, R87) -/

/-- The state in which a delivery deadline begins the forced merge of a context. -/
def State.expired (s : State) (c : Ix) : State :=
  (s.setCtx c ({ s.ctx c with delRunning := false }.addFlag .deliveryDeadline)).bump .deliveryDeadlines

section
variable {s : State} {c : Ix}

theorem deliveryExpires_forces (summed : (s.ctx c).state = .accumulated ∨ (s.ctx c).state = .merging) :
    s.deliveryExpires c = (s.expired c).forcedMerge c false := by
  unfold State.deliveryExpires
  dsimp only
  split
  · next state => simp [state] at summed
  · rfl
  · rfl
  · next state => simp [state] at summed
  · next state => simp [state] at summed

theorem deliveryDeadline_exec (summed : (s.ctx c).state = .accumulated ∨ (s.ctx c).state = .merging)
    (running : (s.ctx c).delRunning = true) :
    exec (.deliveryDeadline c) s = .next ((s.advanceTo (s.ctx c).delMoment).deliveryExpires c) := by
  have isOpen : (s.ctx c).isOpen = true := by
    unfold Context.isOpen
    rcases summed with state | state <;> rw [state] <;> rfl
  show execDeliveryDeadline c s = _
  simp [execDeliveryDeadline, isOpen, running]

theorem expired_ctx (s : State) (c : Ix) :
    (s.expired c).ctx c = { s.ctx c with delRunning := false }.addFlag .deliveryDeadline := State_ctx_setCtx s c _

theorem expired_deadline (s : State) (c : Ix) : ((s.expired c).ctx c).hasFlag .deliveryDeadline = true := by
  rw [expired_ctx, hasFlag_addFlag]
  exact Bool.or_true _

/-- A deadline that expires changes nothing of what the segments are made from. -/
theorem expired_hands (s : State) (c : Ix) : s.Hands (s.expired c) c [] := by
  refine .of_same rfl rfl rfl ?_
  rw [expired_ctx]
  refine ⟨rfl, ?_, rfl, rfl, rfl⟩
  exact (hasFlag_addFlag _ _ _).trans (Bool.or_false _)

theorem counter_expired (s : State) (c : Ix) (k : Counter) :
    (s.expired c).counter k = (s.bump .deliveryDeadlines).counter k := by
  unfold State.expired
  rw [counter_bump, counter_bump, counter_setCtx, counter_setCtx]

theorem advanceTo_trunk (s : State) (m : Time) : (s.advanceTo m).trunk = s.trunk := by
  unfold State.advanceTo
  split <;> rfl

theorem advanceTo_hands (s : State) (c : Ix) (m : Time) : s.Hands (s.advanceTo m) c [] :=
  have moved := advanceTo_moves s m
  .of_same (moved.frame .params (by decide)).symm (moved.frame .nodeNumber (by decide)).symm
    (advanceTo_trunk s m) (by rw [advanceTo_ctx]; exact .refl _)

end

/-- The segments that leave a forced merge: the STORED ones merged in their order of arrival, then those made in rising order (R87). -/
def State.forcedSegments (s : State) (c : Ix) : List Segment :=
  ((s.ctx c).storedAt (s.ctx c).storedOrder).map (s.mergedSegment (s.ctx c))
    ++ ((s.ctx c).emptyAt (List.range s.segments)).map (s.madeSegment c)

/-- The same slots are EMPTY, and the same segments leave, after work that leaves slots and order of arrival. -/
theorem State.Hands.forcedSegments {s u : State} {c : Ix} {gs : List Segment} (h : s.Hands u c gs)
    (slots : (u.ctx c).slots = (s.ctx c).slots) (order : (u.ctx c).storedOrder = (s.ctx c).storedOrder) :
    (u.ctx c).emptyAt (List.range u.segments) = (s.ctx c).emptyAt (List.range s.segments)
    ∧ u.forcedSegments c = s.forcedSegments c := by
  have empty : (u.ctx c).emptyAt (List.range u.segments) = (s.ctx c).emptyAt (List.range s.segments) := by
    unfold Context.emptyAt State.segments
    rw [slots, h.params]
  refine ⟨empty, ?_⟩
  unfold State.forcedSegments
  rw [empty, order, storedAt_congr fun i _ => congrArg (Table.get · i) slots, funext h.mergedSegment, funext h.madeSegment]

/-- The forced merge of a frame that carries DELIVERY_DEADLINE (R87, R92, R94). -/
theorem forcedMerge_of_deadline {s : State} {c : Ix} (role : s.params.role = .middle ∨ s.params.role = .tail)
    (deadline : (s.ctx c).hasFlag .deliveryDeadline = true) (down : s.trunk.toUp = false)
    (once : (s.ctx c).storedOrder.Nodup) (held : (s.ctx c).holdsAt (s.ctx c).storedOrder)
    (room : s.trunk.realtime.length + (s.ctx c).storedOrder.length
      + ((s.ctx c).emptyAt (List.range s.segments)).length ≤ 24) :
    (s.forcedMerge c false).counter .deliveryDeadlines = s.counter .deliveryDeadlines
    ∧ s.countedTimes (s.forcedMerge c false) .forcedSegments ((s.ctx c).emptyAt (List.range s.segments)).length
    ∧ (s.forcedMerge c false).trunk.realtime = s.trunk.realtime ++ s.sends (s.forcedSegments c)
    ∧ (s.params.role = .tail → s.FinishedLate (s.forcedMerge c false) .lateByDeadline) := by
  obtain ⟨hands, times⟩ := forced_hands once held
  have flagged : ((s.forced c).ctx c).hasFlag .deliveryDeadline = true := by
    unfold Context.hasFlag
    rw [forced_flags]
    exact deadline
  have spared := complete_sparesForcing flagged false
  rw [← forcedMerge_eq role] at spared
  refine ⟨?_, ?_, ?_, fun tail => ?_⟩
  · rw [spared.counters _ rfl]
    exact (counter_makeMissing _ c _ (by decide) (by decide)).trans (counter_mergeAllStored s c rfl)
  · unfold State.countedTimes at *
    rwa [spared.counters _ rfl]
  · have stored := length_storedAt_le (s.ctx c) (s.ctx c).storedOrder
    rw [spared.realtime (hands.toUp.trans down)]
    exact hands.realtime down (by rw [List.length_append, List.length_map, List.length_map]; omega)
  · have cause : (s.ctx c).lateCause = .lateByDeadline := if_pos deadline
    have displaced : s.forcedMerge c false = s.forcedMerge c true := by
      rw [forcedMerge_eq role, forcedMerge_eq role, complete_of_deadline flagged]
    rw [displaced, ← cause]
    exact forcedMerge_finishes_late c (by unfold State.isTail; rw [tail]; rfl)

/-- A delivery deadline forces the merge of a context that has its local sums (R35, R87, R92). -/
theorem deliveryDeadline_forces {s : State} {c : Ix} (role : s.params.role = .middle ∨ s.params.role = .tail)
    (summed : (s.ctx c).state = .accumulated ∨ (s.ctx c).state = .merging) (running : (s.ctx c).delRunning = true)
    (down : s.trunk.toUp = false) (once : (s.ctx c).storedOrder.Nodup) (held : (s.ctx c).holdsAt (s.ctx c).storedOrder)
    (room : s.trunk.realtime.length + (s.ctx c).storedOrder.length
      + ((s.ctx c).emptyAt (List.range s.segments)).length ≤ 24) :
    ∃ t, exec (.deliveryDeadline c) s = .next t ∧ (t.ctx c).isPast ∧ s.counted t .deliveryDeadlines 1
      ∧ s.countedTimes t .forcedSegments ((s.ctx c).emptyAt (List.range s.segments)).length
      ∧ t.trunk.realtime = s.trunk.realtime ++ s.sends (s.forcedSegments c)
      ∧ (s.params.role = .tail →
          s.counted t .lateFrames 1 ∧ s.counted t .lateByDeadline 1 ∧ t.lastApplied = s.lastApplied) := by
  refine ⟨_, deliveryDeadline_exec summed running, deliveryExpires_summed (by rwa [advanceTo_ctx]), ?_⟩
  rw [deliveryExpires_forces (by rwa [advanceTo_ctx])]
  have deadline := expired_deadline (s.advanceTo (s.ctx c).delMoment) c
  have hands := (advanceTo_hands s c (s.ctx c).delMoment).trans (expired_hands _ c)
  have trunk : ((s.advanceTo (s.ctx c).delMoment).expired c).trunk = s.trunk := advanceTo_trunk s _
  have applied : ((s.advanceTo (s.ctx c).delMoment).expired c).lastApplied = s.lastApplied :=
    ((advanceTo_moves s _).frame .lastApplied (by decide)).symm
  have counters (k : Counter) : ((s.advanceTo (s.ctx c).delMoment).expired c).counter k
      = (s.bump .deliveryDeadlines).counter k := by
    rw [counter_expired, counter_bump, counter_bump, counter_congr (advanceTo_counters s _),
      counter_congr (advanceTo_counters s _)]
  have ctx := expired_ctx (s.advanceTo (s.ctx c).delMoment) c
  rw [advanceTo_ctx] at ctx
  generalize (s.advanceTo (s.ctx c).delMoment).expired c = u at *
  have slots : (u.ctx c).slots = (s.ctx c).slots := by rw [ctx]; rfl
  have order : (u.ctx c).storedOrder = (s.ctx c).storedOrder := by rw [ctx]; rfl
  have holds : (u.ctx c).holdsAt (s.ctx c).storedOrder := by unfold Context.holdsAt; rwa [slots]
  obtain ⟨empty, leaving⟩ := hands.forcedSegments slots order
  have sends : u.sends = s.sends := by unfold State.sends; rw [hands.params, hands.node]
  have forced := forcedMerge_of_deadline (hands.params ▸ role) deadline (trunk ▸ down) (order ▸ once) (order ▸ holds)
    (by rwa [trunk, order, empty])
  rw [empty, leaving, trunk, sends, hands.params] at forced
  obtain ⟨deadlines, times, realtime, late⟩ := forced
  have before {k : Counter} (other : k ≠ .deliveryDeadlines) : u.counter k = s.counter k := by
    rw [counters, counter_bump, if_neg other]
  refine ⟨?_, ?_, realtime, fun tail => ?_⟩
  · unfold State.counted
    rw [deadlines, counters]
    exact counted_bump s _
  · unfold State.countedTimes at *
    rwa [before (by decide)] at times
  · obtain ⟨frames, cause⟩ := (late tail).counted
    unfold State.counted at *
    rw [before (by decide)] at frames cause
    exact ⟨frames, cause, (late tail).lastApplied.trans applied⟩

/-! ## The statement about merges -/

/-- The segment that R87 makes for an EMPTY slot, field by field. -/
theorem madeSegment_eq (s : State) (c : Ix) (i : Nat) : s.madeSegment c i =
    ⟨(s.ctx c).tag, i, segmentCount s.params.actuators, 512 * i, min 512 (s.params.actuators - 512 * i),
      if (s.ctx c).isCorrupt = true then 0 else ownBit s.nodeNumber, if (s.ctx c).isCorrupt = true then 5 else 1,
      (s.ctx c).label, (s.ctx c).scale, (List.range (min 512 (s.params.actuators - 512 * i))).map
        (fun k => if (s.ctx c).isCorrupt = true then 0 else (s.ctx c).sums.get (512 * i + k))⟩ := by
  unfold State.madeSegment State.localSegment State.localSums State.segments
  cases (s.ctx c).isCorrupt with
  | false => rfl
  | true =>
    simp only [if_true, List.map_const', List.length_range]
    rfl

/-- At a MIDDLE node the frames of a forced merge, in the order of their segments. -/
theorem sends_forcedSegments_middle {s : State} (c : Ix) (middle : s.params.role = .middle) :
    s.sends (s.forcedSegments c) = (s.ctx c).storedOrder.filterMap (fun i => ((s.ctx c).slots.get i).stored?.map
        fun g => ⟨trunkFrame 1 s.nodeNumber.toNat 15 (s.mergedSegment (s.ctx c) g).encode, false⟩)
      ++ ((s.ctx c).emptyAt (List.range s.segments)).map
        (fun i => ⟨trunkFrame 1 s.nodeNumber.toNat 15 (s.madeSegment c i).encode, false⟩) := by
  unfold State.sends State.forcedSegments Context.storedAt
  rw [middle, if_neg (by decide), List.map_append, List.map_map, List.map_map, List.map_filterMap]
  rfl

/-- Settles O25: the cases of one merge and what it leaves, then the making of missing segments and the forced merge. -/
theorem mergeTakesTheFirstCase : Obligations.MergeTakesTheFirstCase := by
  constructor
  · intro s c g m merged
    refine ⟨?_, mergeOne_takes_first_case s c g m merged, mergeOne_leaves s c g m merged⟩
    rw [merged]
    exact mergedSegment_keeps s (s.ctx c) g
  · intro s c made missing role made_eq missing_eq
    obtain rfl : made = s.madeSegment c := funext fun i => (made_eq i).trans (madeSegment_eq s c i).symm
    obtain rfl : missing = (s.ctx c).emptyAt (List.range s.segments) := missing_eq
    refine ⟨fun i => ?_, fun summed running down once held room => ?_⟩
    · have keeps : s.params.role.keepsSegments = true ↔ s.params.role = .tail := by
        rcases role with role | role <;> rw [role] <;> decide
      exact (makeMissing_slots s c _ i).trans (if_congr .rfl (congrArg Slot.merged (if_congr keeps rfl rfl)) rfl)
    · obtain ⟨t, step, past, deadlines, times, realtime, late⟩ :=
        deliveryDeadline_forces role summed running down once held room
      refine ⟨t, step, past, deadlines, ?_, fun middle => ?_, fun tail => ?_⟩
      · exact times.trans (if_congr List.length_eq_zero_iff rfl rfl)
      · rw [realtime, sends_forcedSegments_middle c middle, List.append_assoc]
        congr 2
        refine List.filterMap_congr fun i _ => ?_
        cases (s.ctx c).slots.get i <;> rfl
      · have kept : s.sends (s.forcedSegments c) = [] := by unfold State.sends; rw [tail]; rfl
        exact ⟨by rw [realtime, kept, List.append_nil], late tail⟩

end Sys2Proof.Machine

namespace Sys2Proof.Machine

-- One theorem after the other, so that checking the whole package keeps to few threads.
set_option Elab.async false

/-! ## The verdict on a finished frame (R89, R90, R92, R93) -/

theorem tagNewerThan_eq_false_iff (a : Tag) (l : Option Tag) :
    tagNewerThan a l = false ↔ ∃ b, l = some b ∧ tagNewer a b = false := by
  cases l with
  | none => simp [tagNewerThan]
  | some b => simp [tagNewerThan]

theorem spoils_iff (s : State) (g : Segment) : s.spoils g = true ↔
    g.mask ≠ (if s.params.role = .solo then ownBit s.nodeNumber else s.params.expectedMask)
      ∨ hasSegFlag g.flags .mixed = true ∨ hasSegFlag g.flags .corrupt = true ∨ hasSegFlag g.flags .upstreamMissing = true := by
  simp only [State.spoils, State.expectedMask, Bool.or_eq_true, bne_iff_ne, or_assoc]

/-! ## The counting of a verdict (R92, R94) -/

/-- Raising LATE_FRAME leaves the counters of the Merge Unit as the counting of the late frame has them. -/
theorem counter_countLate (s : State) (cause : Counter) {k : Counter}
    (kept : k ≠ .controlOverflow ∧ k ≠ .eventFrames ∧ k ≠ .triggers) :
    (s.countLate cause).counter k = ((s.bump .lateFrames).bump cause).counter k := by
  obtain ⟨control, reports, triggers⟩ := kept
  exact counter_raise _ _ control reports triggers

theorem countLate_raised (s : State) {cause : Counter} (other : cause ≠ .eventFrames) :
    s.raised (s.countLate cause) .lateFrame := by
  refine raised_of_raise ?_ rfl rfl
  rw [counter_bump, if_neg other.symm, counter_bump, if_neg (by decide)]

/-- A late frame is counted by its own condition alone (R92). -/
theorem countLate_countedIf (s : State) (cause : Counter) {k : Counter}
    (kept : k ≠ .lateFrames ∧ k ≠ .controlOverflow ∧ k ≠ .eventFrames ∧ k ≠ .triggers) :
    s.countedIf (s.countLate cause) (k == cause) k := by
  obtain ⟨own, shared⟩ := kept
  have before : (s.bump .lateFrames).counter k = s.counter k := (counter_bump s _ _).trans (if_neg own)
  unfold State.countedIf
  rw [counter_countLate s cause shared, counter_bump]
  by_cases same : k = cause
  · rw [if_pos same, if_pos (beq_iff_eq.mpr same), ← same, before]
  · rw [if_neg same, if_neg (mt beq_iff_eq.mp same), before]

/-- The counting of a late frame (R92, R94). -/
theorem countLate_spec (s : State) {cause : Counter} (own : cause ≠ .lateFrames) (other : cause ≠ .eventFrames) :
    s.counted (s.countLate cause) .lateFrames 1 ∧ s.raised (s.countLate cause) .lateFrame
      ∧ s.countedIf (s.countLate cause) (.lateByDeadline == cause) .lateByDeadline
      ∧ s.countedIf (s.countLate cause) (.lateByDisplacement == cause) .lateByDisplacement
      ∧ s.countedIf (s.countLate cause) (.lateByTag == cause) .lateByTag := by
  refine ⟨?_, countLate_raised s other, countLate_countedIf s cause (by decide), countLate_countedIf s cause (by decide),
    countLate_countedIf s cause (by decide)⟩
  refine (counter_countLate s cause (by decide)).trans ?_
  rw [counter_bump, if_neg own.symm]
  exact counted_bump s .lateFrames

/-- Settles O26: the cases of the verdict in their order, and what each counts. -/
theorem finishedFrameIsClassified : Obligations.FinishedFrameIsClassified := by
  constructor
  · intro s c displaced
    have byTag : (!tagNewerThan (s.ctx c).tag s.lastApplied) = true
        ↔ ∃ l, s.lastApplied = some l ∧ tagNewer (s.ctx c).tag l = false := by
      rw [Bool.not_eq_true', tagNewerThan_eq_false_iff]
    have spoilt : (s.heldSegments c).any s.spoils = true ↔ ∃ g ∈ s.heldSegments c, s.spoils g = true := List.any_eq_true
    simp only [spoils_iff] at spoilt
    exact if_congr .rfl rfl (if_congr .rfl rfl (if_congr byTag rfl (if_congr spoilt rfl rfl)))
  · intro s
    refine ⟨fun v late => ?_, ?_, ?_, counted_bump s .goodFrames, fun k other => ?_, fun p other => ?_⟩
    · rcases late with rfl | rfl | rfl
      · exact countLate_spec s (cause := .lateByDeadline) (by decide) (by decide)
      · exact countLate_spec s (cause := .lateByDisplacement) (by decide) (by decide)
      · exact countLate_spec s (cause := .lateByTag) (by decide) (by decide)
    · exact (counter_raise _ _ (by decide) (by decide) (by decide)).trans (counted_bump s .incompleteFrames)
    · exact raised_of_raise (u := s.bump .incompleteFrames) (by rw [counter_bump, if_neg (by decide)]) rfl rfl
    · exact (counter_bump s .goodFrames k).trans (if_neg other)
    · exact (bump_moves s .goodFrames).frame p (by simpa using other)

end Sys2Proof.Machine

/-! SUPPORT. Rules about the rounding rule RN, the residuals and the integrator update, and the proofs of the statements about
reconstruction and temporal control (chapter 6). -/

namespace Sys2Proof.Machine

/-! ## The rounding rule RN (00_scope.md section 5.3) -/

theorem natAbs_roundRN (x : Int) (b : Nat) : (roundRN x b).natAbs = (2 * x.natAbs + b) / (2 * b) := by
  unfold roundRN
  dsimp only
  split
  · rw [Int.natAbs_neg, Int.natAbs_natCast]
  · rw [Int.natAbs_natCast]

/-- The divisor times the rounded quotient has the sign of the dividend. -/
theorem mul_roundRN (x : Int) (b : Nat) :
    b * roundRN x b = if x < 0 then -((b * (roundRN x b).natAbs : Nat) : Int) else ((b * (roundRN x b).natAbs : Nat) : Int) := by
  rw [natAbs_roundRN, Nat.cast_mul]
  unfold roundRN
  dsimp only
  split
  · exact Int.mul_neg _ _
  · rfl

/-- The multiple of the divisor that RN picks lies above the dividend by at most half the divisor, and below it by less. -/
theorem roundRN_magnitude_bounds (x : Int) {b : Nat} (pos : 0 < b) :
    2 * (b * (roundRN x b).natAbs) ≤ 2 * x.natAbs + b ∧ 2 * x.natAbs < 2 * (b * (roundRN x b).natAbs) + b := by
  have floor := Nat.mul_div_le (2 * x.natAbs + b) (2 * b)
  have next := Nat.lt_mul_div_succ (2 * x.natAbs + b) (Nat.mul_pos two_pos pos)
  rw [natAbs_roundRN]
  rw [Nat.mul_assoc] at floor next
  rw [Nat.mul_add] at next
  omega

theorem roundRN_nearest (x : Int) {b : Nat} (pos : 0 < b) : 2 * (x - b * roundRN x b).natAbs ≤ b := by
  obtain ⟨above, below⟩ := roundRN_magnitude_bounds x pos
  rw [mul_roundRN]
  split <;> omega

theorem roundRN_tie_away_from_zero {x : Int} {b : Nat} (pos : 0 < b) (tie : 2 * (x - b * roundRN x b).natAbs = b) :
    x.natAbs < (b * roundRN x b).natAbs := by
  obtain ⟨-, below⟩ := roundRN_magnitude_bounds x pos
  rw [mul_roundRN] at *
  split at tie <;> omega

/-! ## Residuals (R95, R97) -/

theorem clampInt_eq_max_min {lo hi : Int} (ordered : lo ≤ hi) (v : Int) : clampInt lo hi v = max lo (min hi v) := by
  unfold clampInt
  split
  · omega
  · split <;> omega

theorem addFlagIf_residuals (x : Context) (b : Bool) (f : FrameFlag) : (x.addFlagIf b f).residuals = x.residuals := by
  cases b <;> rfl

/-- Some saturation changes a residual of these sums (R97). -/
def saturatesAny (sums : List Int) (scale : Nat) : Bool := sums.any (fun v => residualSaturates v scale)

theorem countP_residualSaturates_pos (sums : List Int) (scale : Nat) :
    decide (0 < sums.countP (fun v => residualSaturates v scale)) = saturatesAny sums scale := by
  rw [Bool.eq_iff_iff, decide_eq_true_iff, List.countP_pos_iff]
  exact List.any_eq_true.symm

section
variable (s : State) (c : Ix) (sums : List Int)

/-- The context of a frame whose residuals have been computed. -/
theorem computeResiduals_ctx : (s.computeResiduals c sums).ctx c
    = ({ s.ctx c with
          residuals := sums.map (fun v => residual v (s.ctx c).scale)
          residualSaturations := sums.countP (fun v => residualSaturates v (s.ctx c).scale) } : Context).addFlagIf
        (saturatesAny sums (s.ctx c).scale) .residualSaturated := by
  rw [← countP_residualSaturates_pos]
  exact (ctx_congr (State_bumpIf_frames _ _ _) c).trans (State_ctx_setCtx _ _ _)

theorem computeResiduals_residuals :
    ((s.computeResiduals c sums).ctx c).residuals = sums.map (fun v => residual v (s.ctx c).scale) := by
  rw [computeResiduals_ctx, addFlagIf_residuals]

theorem computeResiduals_hasFlag (saturated : saturatesAny sums (s.ctx c).scale = true) :
    ((s.computeResiduals c sums).ctx c).hasFlag .residualSaturated = true := by
  rw [computeResiduals_ctx, hasFlag_addFlagIf, saturated]
  exact Bool.or_true _

theorem counter_computeResiduals (k : Counter) : (s.computeResiduals c sums).counter k
    = ((s.bump .residualsComputed).bumpIf (saturatesAny sums (s.ctx c).scale) .residualSaturatedFrames).counter k := by
  unfold State.computeResiduals
  dsimp only
  rw [countP_residualSaturates_pos]
  simp only [counter_bumpIf, counter_bump, counter_setCtx]

theorem computeResiduals_counted : s.counted (s.computeResiduals c sums) .residualsComputed 1 := by
  refine (counter_computeResiduals s c sums _).trans ?_
  rw [counter_bumpIf, if_neg (fun h => absurd h.1 (by decide))]
  exact counted_bump s .residualsComputed

theorem computeResiduals_countedIf :
    s.countedIf (s.computeResiduals c sums) (saturatesAny sums (s.ctx c).scale) .residualSaturatedFrames := by
  have other : Counter.residualSaturatedFrames ≠ .residualsComputed := by decide
  refine (counter_computeResiduals s c sums _).trans ?_
  rw [counter_bumpIf, counter_bump, if_neg other]
  exact if_congr (and_iff_right rfl) rfl rfl

end

/-- Settles O27: RN by the bounds on its magnitude, the residual as a clamp, and the record of a context's residuals. -/
theorem residualIsTheNearestIntegerSaturated : Obligations.ResidualIsTheNearestIntegerSaturated := by
  refine ⟨fun x b pos => ⟨roundRN_nearest x pos, roundRN_tie_away_from_zero pos⟩,
    fun x n => clampInt_eq_max_min (by decide) _, fun s c sums => ⟨_, rfl, ?_⟩⟩
  exact ⟨computeResiduals_residuals s c sums, computeResiduals_counted s c sums, computeResiduals_countedIf s c sums,
    computeResiduals_hasFlag s c sums⟩

/-! ## The integrator update (R103, R104, R105) -/

/-- The value before the clamp that R104 gives an actuator from the tables and the residuals of a frame. -/
def Tables.unclamped (t : Tables) (es : List Int) (j : Nat) : Int :=
  integratorStep (t.integrators.get j) (es.getD j 0) (t.gains.get (t.actuators.get j).profile)

/-- That value under the anti-windup clamp of its actuator (R105). -/
def Tables.clamped (t : Tables) (es : List Int) (j : Nat) : Int := antiWindup (t.actuators.get j) (t.unclamped es j)

theorem update_eq (t : Tables) (es : List Int) (j : Nat) : t.update j (es.getD j 0)
    = ({ t with integrators := t.integrators.set j (t.clamped es j) }, t.clamped es j != t.unclamped es j) := rfl

/-- An actuator is updated from its own state alone. -/
theorem unclamped_set_ne (t : Tables) (es : List Int) {j k : Nat} (other : j ≠ k) (x : Int) :
    ({ t with integrators := t.integrators.set k x } : Tables).unclamped es j = t.unclamped es j := by
  unfold Tables.unclamped
  rw [Table_get_set_ne _ other]

theorem clamped_set_ne (t : Tables) (es : List Int) {j k : Nat} (other : j ≠ k) (x : Int) :
    ({ t with integrators := t.integrators.set k x } : Tables).clamped es j = t.clamped es j :=
  congrArg (antiWindup (t.actuators.get j)) (unclamped_set_ne t es other x)

/-- A run of updates gives each ACTIVE actuator of the run its clamped value, and leaves every other state (R103). -/
theorem updateAll_get (t : Tables) (es : List Int) {js : List Nat} (nodup : js.Nodup) (j : Nat) :
    (t.updateAll es js).1.integrators.get j
      = if j ∈ js ∧ t.effective.get j = .active then t.clamped es j else t.integrators.get j := by
  induction js generalizing t with
  | nil => rw [if_neg (fun h => List.not_mem_nil h.1)]; rfl
  | cons k ks ih =>
    obtain ⟨fresh, rest⟩ := List.nodup_cons.mp nodup
    unfold Tables.updateAll
    by_cases same : j = k
    · subst same
      split
      next active =>
        rw [update_eq]
        dsimp only
        rw [ih _ rest, if_neg (fun h => fresh h.1), Table_get_set_same, if_pos ⟨List.mem_cons_self, active⟩]
      next idle => rw [ih t rest, if_neg (fun h => fresh h.1), if_neg (fun h => idle h.2)]
    · simp only [List.mem_cons, same, false_or]
      split
      next active =>
        rw [update_eq]
        dsimp only
        rw [ih _ rest, clamped_set_ne t es same, Table_get_set_ne _ same]
      next idle => exact ih t rest

/-- A run of updates counts the ACTIVE actuators of the run whose value the clamp changes (R105). -/
theorem updateAll_count (t : Tables) (es : List Int) {js : List Nat} (nodup : js.Nodup) :
    (t.updateAll es js).2
      = js.countP (fun j => t.effective.get j == .active && (t.clamped es j != t.unclamped es j)) := by
  induction js generalizing t with
  | nil => rfl
  | cons k ks ih =>
    obtain ⟨fresh, rest⟩ := List.nodup_cons.mp nodup
    unfold Tables.updateAll
    rw [List.countP_cons]
    split
    next active =>
      rw [update_eq]
      dsimp only
      rw [ih _ rest, active, beq_self_eq_true, Bool.true_and]
      refine congrArg (· + _) (List.countP_congr fun j mem => ?_)
      have other : j ≠ k := fun same => fresh (same ▸ mem)
      rw [clamped_set_ne t es other, unclamped_set_ne t es other]
    next idle => rw [ih t rest, beq_false_of_ne idle, Bool.false_and, if_neg Bool.false_ne_true, Nat.add_zero]

section
variable (s : State) (c : Ix)

theorem closedUpdate_tables : (s.closedUpdate c).1.tables
    = (s.tables.updateAll (s.ctx c).residuals (List.range s.params.actuators)).1 := rfl

theorem closedUpdate_integrators (j : Nat) : (s.closedUpdate c).1.tables.integrators.get j
    = if j < s.params.actuators ∧ s.tables.effective.get j = .active then s.tables.clamped (s.ctx c).residuals j
      else s.tables.integrators.get j := by
  rw [closedUpdate_tables, updateAll_get _ _ List.nodup_range]
  simp only [List.mem_range]

theorem closedUpdate_frame : { (s.closedUpdate c).1.tables with integrators := s.tables.integrators } = s.tables := by
  rw [closedUpdate_tables, updateAll_tables]

/-- The clamp count is read off the states after the update, as the number of ACTIVE actuators whose state is not the
value before the clamp. -/
theorem closedUpdate_clampCount : (s.closedUpdate c).2
    = (List.range s.params.actuators).countP (fun j => s.tables.effective.get j == .active &&
        ((s.closedUpdate c).1.tables.integrators.get j != s.tables.unclamped (s.ctx c).residuals j)) := by
  refine (updateAll_count _ _ List.nodup_range).trans (List.countP_congr fun j mem => ?_)
  rw [closedUpdate_integrators]
  by_cases active : s.tables.effective.get j = .active
  · rw [if_pos ⟨List.mem_range.mp mem, active⟩]
  · rw [beq_false_of_ne active, Bool.false_and, Bool.false_and]

end

/-! ### The bounds of the update -/

theorem natAbs_leakProduct_le {x : Int} {leak : Nat} (state : x.natAbs ≤ 2147483648) (factor : leak ≤ 65536) :
    (x * leak).natAbs ≤ 140737488355328 := by
  rw [Int.natAbs_mul, Int.natAbs_natCast]
  exact Nat.mul_le_mul state factor

/-- A leak of at most one does not lift a state above its bound. -/
theorem natAbs_leaked_le {x : Int} {leak : Nat} (state : x.natAbs ≤ 2147483648) (factor : leak ≤ 65536) :
    (roundRN (x * leak) 65536).natAbs ≤ 2147483648 := by
  have product := natAbs_leakProduct_le state factor
  rw [natAbs_roundRN]
  omega

theorem natAbs_gainProduct_le {e : Int} {gain : Nat} (factor : gain ≤ 32768) (bounded : e.natAbs ≤ 2147483648) :
    (2 * (gain : Int) * e).natAbs ≤ 140737488355328 := by
  rw [Int.natAbs_mul, Int.natAbs_mul, Int.natAbs_natCast]
  exact Nat.mul_le_mul (Nat.mul_le_mul_left 2 factor) bounded

/-- Settles O28: the states, the frame and the clamp count of a run of updates over the actuators below A, and the bounds. -/
theorem integratorUpdateOfAClosedFrame : Obligations.IntegratorUpdateOfAClosedFrame := by
  refine ⟨fun s c => ⟨_, _, rfl, closedUpdate_integrators s c, closedUpdate_frame s c, closedUpdate_clampCount s c⟩,
    fun x e leak gain state leakBound gainBound residualBound => ?_⟩
  have leaked := natAbs_leaked_le state leakBound
  have gained := natAbs_gainProduct_le gainBound residualBound
  refine ⟨natAbs_leakProduct_le state leakBound, leaked, gained, ?_⟩
  calc (roundRN (x * leak) 65536 + 2 * gain * e).natAbs
      ≤ (roundRN (x * leak) 65536).natAbs + (2 * (gain : Int) * e).natAbs := Int.natAbs_add_le _ _
    _ < 281474976710656 := by omega

end Sys2Proof.Machine

/-! SUPPORT. Rules about effective classes, the values that the classes give, the neighbour pass and the pipeline of an applied
frame, and the proofs of the statements about actuator classes and mirror constraints (chapter 7). -/

namespace Sys2Proof.Machine

-- One theorem after the other, so that checking the whole package keeps to few threads.
set_option Elab.async false

/-! ## The effective class (R115, R116) -/

theorem stricter_eq_or (a b : ActClass) : a.stricter b = a ∨ a.stricter b = b := by
  unfold ActClass.stricter
  split
  · exact .inr rfl
  · exact .inl rfl

theorem rank_stricter (a b : ActClass) : (a.stricter b).rank = max a.rank b.rank := by
  unfold ActClass.stricter
  split <;> omega

theorem covers_iff (r : OverrideRange) (j : Nat) :
    r.covers j = true ↔ r.enabled = true ∧ r.first ≤ j ∧ j < r.first + r.count := by
  simp only [OverrideRange.covers, Bool.and_eq_true, decide_eq_true_eq]

/-- A class restricted by override range `k` where it covers actuator `j`. -/
def Tables.restrict (t : Tables) (j : Nat) (c : ActClass) (k : Nat) : ActClass :=
  if (t.overrides.get k).covers j then c.stricter (t.overrides.get k).cls else c

theorem classOf_eq (t : Tables) (j : Nat) :
    t.classOf j = (List.range 8).foldl (t.restrict j) (t.actuators.get j).cls := rfl

theorem rank_le_restrict (t : Tables) (j : Nat) (c : ActClass) (k : Nat) : c.rank ≤ (t.restrict j c k).rank := by
  unfold Tables.restrict
  split
  · rw [rank_stricter]; exact Nat.le_max_left _ _
  · exact Nat.le_refl _

/-- Restricting never lowers the rank that a class has. -/
theorem rank_le_foldl_restrict (t : Tables) (j : Nat) (c : ActClass) (ks : List Nat) :
    c.rank ≤ (ks.foldl (t.restrict j) c).rank := by
  induction ks generalizing c with
  | nil => exact Nat.le_refl _
  | cons k ks ih => exact (rank_le_restrict t j c k).trans (ih _)

/-- No range of the run that covers the actuator exceeds the outcome in restriction. -/
theorem cls_rank_le_foldl_restrict (t : Tables) {j : Nat} (c : ActClass) {k : Nat} {ks : List Nat} (mem : k ∈ ks)
    (covers : (t.overrides.get k).covers j = true) :
    (t.overrides.get k).cls.rank ≤ (ks.foldl (t.restrict j) c).rank := by
  induction ks generalizing c with
  | nil => exact absurd mem List.not_mem_nil
  | cons i ks ih =>
    rcases List.mem_cons.mp mem with rfl | later
    · refine Nat.le_trans ?_ (rank_le_foldl_restrict t j _ ks)
      rw [Tables.restrict, if_pos covers, rank_stricter]
      exact Nat.le_max_right _ _
    · exact ih _ later

/-- The outcome is the class restricted, or that of a range of the run that covers the actuator. -/
theorem foldl_restrict_source (t : Tables) (j : Nat) (c : ActClass) (ks : List Nat) :
    ks.foldl (t.restrict j) c = c ∨ ∃ k ∈ ks, (t.overrides.get k).covers j = true
      ∧ ks.foldl (t.restrict j) c = (t.overrides.get k).cls := by
  induction ks generalizing c with
  | nil => exact .inl rfl
  | cons i ks ih =>
    rcases ih (t.restrict j c i) with same | ⟨k, mem, covers, range⟩
    · rw [List.foldl_cons, same, Tables.restrict]
      split
      next covers =>
        rcases stricter_eq_or c (t.overrides.get i).cls with kept | taken
        · exact .inl kept
        · exact .inr ⟨i, List.mem_cons_self, covers, taken⟩
      next => exact .inl rfl
    · exact .inr ⟨k, List.mem_cons_of_mem _ mem, covers, range⟩

theorem recomputeClasses_effective (s : State) {j : Nat} (inTable : j < Config.maxActuators) :
    s.recomputeClasses.tables.effective.get j = (List.range 8).foldl (s.tables.restrict j) (s.actuator j).cls := by
  unfold State.recomputeClasses
  exact (Table_get_build _ _ _).trans ((if_pos inTable).trans (classOf_eq _ _))

theorem recomputeClasses_frame (s : State) :
    { s.recomputeClasses.tables with effective := s.tables.effective } = s.tables := by
  unfold State.recomputeClasses
  rfl

/-- Settles O29: the array holds the outcome of a run of restrictions over the eight override ranges. -/
theorem effectiveClassIsTheMostRestrictive : Obligations.EffectiveClassIsTheMostRestrictive := by
  intro s j inTable
  dsimp only
  rw [recomputeClasses_effective s inTable]
  refine ⟨?_, rank_le_foldl_restrict _ _ _ _, fun k below enabled first last => ?_, by decide, by decide, by decide,
    recomputeClasses_frame s⟩
  · exact (foldl_restrict_source _ _ _ _).imp_right
      fun ⟨k, mem, covers, range⟩ => ⟨k, List.mem_range.mp mem, covers, range⟩
  · exact cls_rank_le_foldl_restrict _ _ (List.mem_range.mpr below) ((covers_iff _ _).mpr ⟨enabled, first, last⟩)

/-! ## The values that the classes give (R117, R122 to R125) -/

section
variable {t : Tables} {n j : Nat} {closed : Bool}

theorem stepValue_active (active : t.effective.get j = .active) : t.stepValue n closed j = t.activeValue closed j := by
  rw [Tables.stepValue, active]

theorem stepValue_frozen (frozen : t.effective.get j = .frozen) : t.stepValue n closed j = t.lastOutputs.get j := by
  rw [Tables.stepValue, frozen]

theorem stepValue_dead (dead : t.effective.get j = .dead) : t.stepValue n closed j = (t.actuators.get j).park := by
  rw [Tables.stepValue, dead]

/-- The value that a case of R125 gives actuator `j`. -/
def SlaveCase.value (t : Tables) (j : Nat) : SlaveCase → Int
  | .mean v => v
  | .parked => (t.actuators.get j).park
  | .unslaved => t.lastOutputs.get j

theorem stepValue_slaved (slaved : t.effective.get j = .slaved) :
    t.stepValue n closed j = (t.slaveCase n closed j).value t j := by
  rw [Tables.stepValue, slaved]
  cases t.slaveCase n closed j <;> rfl

/-- A usable master is read as ACTIVE or at its last output, which is its own value of the frame (R125). -/
theorem masterValue_eq_stepValue {m : Nat} (usable : t.usable n m = true) : t.masterValue closed m = t.stepValue n closed m := by
  have cls : t.effective.get m = .active ∨ t.effective.get m = .frozen := by
    simpa using (Bool.and_eq_true_iff.mp usable).2
  unfold Tables.masterValue
  rcases cls with active | frozen
  · rw [if_pos active, stepValue_active active]
  · rw [if_neg (by rw [frozen]; decide), stepValue_frozen frozen]

/-- The sum over the usable masters of a list, each counted as often as it is named. -/
theorem map_masterValue_usable (masters : List Nat) : (masters.filter (t.usable n)).map (t.masterValue closed)
    = (masters.filter (t.usable n)).map (t.stepValue n closed) :=
  List.map_congr_left fun _ mem => masterValue_eq_stepValue (List.mem_filter.mp mem).2

/-! ### The choice of the slave record (R117) -/

/-- A slave record is in use and names `j`. -/
def SlaveRecord.naming (j : Nat) (r : SlaveRecord) : Bool := !r.masters.isEmpty && r.slave == j

theorem naming_iff (r : SlaveRecord) : r.naming j = true ↔ r.masters ≠ [] ∧ r.slave = j := by
  simp [SlaveRecord.naming]

theorem naming_eq_false_iff (r : SlaveRecord) : r.naming j = false ↔ r.masters = [] ∨ r.slave ≠ j := by
  rw [← Bool.not_eq_true, naming_iff]
  tauto

theorem slaveRecordOf_eq (t : Tables) (j : Nat) :
    t.slaveRecordOf j = ((List.range 512).find? (fun k => (t.slaves.get k).naming j)).map t.slaves.get := by
  unfold Tables.slaveRecordOf
  rw [List.find?_map]
  rfl

theorem slaveRecordOf_lowest {k : Nat} (inTable : k < 512) (names : (t.slaves.get k).naming j = true)
    (lowest : ∀ i, i < k → (t.slaves.get i).naming j = false) : t.slaveRecordOf j = some (t.slaves.get k) := by
  have found : (List.range 512).find? (fun k => (t.slaves.get k).naming j) = some k :=
    List.find?_range_eq_some.mpr ⟨names, List.mem_range.mpr inTable, fun i below => by rw [lowest i below]; rfl⟩
  rw [slaveRecordOf_eq, found]
  rfl

theorem slaveRecordOf_none (unnamed : ∀ k, k < 512 → (t.slaves.get k).naming j = false) : t.slaveRecordOf j = none := by
  have found : (List.range 512).find? (fun k => (t.slaves.get k).naming j) = none :=
    List.find?_range_eq_none.mpr fun k below => by rw [unnamed k below]; rfl
  rw [slaveRecordOf_eq, found]
  rfl

/-- A record without a usable master parks its slave; any other gives the clamped mean of those that are usable (R125). -/
theorem slaveCase_of_record {r : SlaveRecord} (record : t.slaveRecordOf j = some r) :
    t.slaveCase n closed j = if r.masters.filter (t.usable n) = [] then .parked
      else .mean (clampInt (t.actuators.get j).lo (t.actuators.get j).hi
        (roundRN ((r.masters.filter (t.usable n)).map (t.stepValue n closed)).sum (r.masters.filter (t.usable n)).length)) := by
  unfold Tables.slaveCase
  rw [record, ← map_masterValue_usable]
  exact if_congr List.isEmpty_iff rfl rfl

theorem slaveCase_of_no_record (record : t.slaveRecordOf j = none) : t.slaveCase n closed j = .unslaved := by
  unfold Tables.slaveCase
  rw [record]

end

/-- Settles O32, class by class; a SLAVED actuator by the record that names it. -/
theorem classesGiveTheirValues : Obligations.ClassesGiveTheirValues := by
  intro t n j closed
  refine ⟨stepValue_active, stepValue_frozen, stepValue_dead, fun slaved =>
    ⟨fun k inTable used names lowest ms usable => ?_, fun unnamed => ?_⟩⟩
  · subst usable
    have record := slaveRecordOf_lowest inTable ((naming_iff _).mpr ⟨used, names⟩)
      fun i below => (naming_eq_false_iff _).mpr (lowest i below)
    rw [stepValue_slaved slaved, slaveCase_of_record record]
    exact apply_ite (SlaveCase.value t j) _ _ _
  · have record := slaveRecordOf_none fun k inTable => (naming_eq_false_iff _).mpr (unnamed k inTable)
    rw [stepValue_slaved slaved, slaveCase_of_no_record record]
    rfl

/-! ## One pair of the neighbour pass (R128) -/

theorem value_move (p : Pass) {j : Nat} (inPass : j < p.values.length) (d : Int) (i : Nat) :
    (p.move j d).value i = if i = j then p.value j + d else p.value i := by
  unfold Pass.move Pass.value
  dsimp only
  by_cases same : i = j
  · subst same
    rw [if_pos rfl, List.getD_eq_getElem _ _ (by rwa [List.length_set]), List.getElem_set_self]
  · rw [if_neg same, List.getD_eq_getElem?_getD, List.getElem?_set_ne (Ne.symm same), ← List.getD_eq_getElem?_getD]

theorem move_zero (p : Pass) {j : Nat} (inPass : j < p.values.length) : p.move j 0 = p := by
  unfold Pass.move Pass.value
  rw [Int.add_zero, List.getD_eq_getElem _ _ inPass, List.set_getElem_self]

theorem values_length_move (p : Pass) (j : Nat) (d : Int) : (p.move j d).values.length = p.values.length :=
  List.length_set

/-- How far the upper member of a pair goes down, of an excess, by which members move (R128). -/
def fallOf (excess : Nat) (hiMoves loMoves : Bool) : Nat :=
  if hiMoves then if loMoves then ceilDiv excess 2 else excess else 0

/-- How far the lower member of a pair goes up. -/
def riseOf (excess : Nat) (hiMoves loMoves : Bool) : Nat :=
  if loMoves then if hiMoves then excess / 2 else excess else 0

theorem ceilDiv_two (n : Nat) : ceilDiv n 2 = (n + 1) / 2 := rfl

/-- The members that move take the whole excess between them. -/
theorem fallOf_add_riseOf (excess : Nat) {hiMoves loMoves : Bool} (moves : hiMoves = true ∨ loMoves = true) :
    fallOf excess hiMoves loMoves + riseOf excess hiMoves loMoves = excess := by
  cases hiMoves
  · cases loMoves
    · exact absurd moves (by decide)
    · exact Nat.zero_add excess
  · cases loMoves
    · exact Nat.add_zero excess
    · show ceilDiv excess 2 + excess / 2 = excess
      rw [ceilDiv_two]
      omega

/-- A pass that has counted a pair as limited. -/
def Pass.countLimited (p : Pass) : Pass := { p with limited := p.limited + 1 }

/-- A pair beyond the limit, its upper member first: the excess is taken by the members that move (R128). -/
def Pass.drawTogether (p : Pass) (excess hi lo : Nat) (hiMoves loMoves : Bool) : Pass :=
  if hiMoves && loMoves then (p.countLimited.move hi (-(ceilDiv excess 2 : Nat))).move lo (excess / 2 : Nat)
  else if hiMoves then p.countLimited.move hi (-(excess : Int))
  else if loMoves then p.countLimited.move lo excess
  else { p with unresolved := p.unresolved + 1 }

/-- Where a member moves, the upper one falls and the lower one rises by its share. -/
theorem drawTogether_eq_moves (p : Pass) {excess hi lo : Nat} {hiMoves loMoves : Bool} (moves : hiMoves = true ∨ loMoves = true)
    (hiIn : hi < p.values.length) (loIn : lo < p.values.length) : p.drawTogether excess hi lo hiMoves loMoves
      = (p.countLimited.move hi (-(fallOf excess hiMoves loMoves : Int))).move lo
        (riseOf excess hiMoves loMoves) := by
  cases hiMoves
  · cases loMoves
    · exact absurd moves (by decide)
    · exact congrArg (Pass.move · lo excess) (move_zero p.countLimited hiIn).symm
  · cases loMoves
    · exact (move_zero (p.countLimited.move hi (-(excess : Int))) (by rwa [values_length_move])).symm
    · rfl

/-- The values of a pair that has been drawn together; no other value changes. -/
theorem value_drawTogether (p : Pass) {excess hi lo : Nat} {hiMoves loMoves : Bool} (moves : hiMoves = true ∨ loMoves = true)
    (hiIn : hi < p.values.length) (loIn : lo < p.values.length) (apart : hi ≠ lo) :
    (p.drawTogether excess hi lo hiMoves loMoves).value hi = p.value hi - fallOf excess hiMoves loMoves
    ∧ (p.drawTogether excess hi lo hiMoves loMoves).value lo = p.value lo + riseOf excess hiMoves loMoves
    ∧ ∀ j, j ≠ hi → j ≠ lo → (p.drawTogether excess hi lo hiMoves loMoves).value j = p.value j := by
  rw [drawTogether_eq_moves p moves hiIn loIn]
  have fallen := value_move p.countLimited hiIn (-(fallOf excess hiMoves loMoves : Int))
  have loIn' : lo < (p.countLimited.move hi (-(fallOf excess hiMoves loMoves : Int))).values.length := by
    rwa [values_length_move]
  have risen := value_move _ loIn' (riseOf excess hiMoves loMoves)
  refine ⟨?_, ?_, fun j notHi notLo => ?_⟩
  · rw [risen, if_neg apart, fallen, if_pos rfl]; rfl
  · rw [risen, if_pos rfl, fallen, if_neg apart.symm]; rfl
  · rw [risen, if_neg notLo, fallen, if_neg notHi]; rfl

section
variable {t : Tables} {n dMax : Nat} {p : Pass} {x y : Nat}

theorem pair_outOfRange (outside : n ≤ x ∨ n ≤ y) :
    Pass.pair t n dMax p (x, y) = { p with outOfRange := p.outOfRange + 1 } := by
  unfold Pass.pair
  exact if_pos outside

theorem pair_dead (inside : ¬(n ≤ x ∨ n ≤ y)) (dead : t.effective.get x = .dead ∨ t.effective.get y = .dead) :
    Pass.pair t n dMax p (x, y) = { p with dead := p.dead + 1 } := by
  unfold Pass.pair
  exact (if_neg inside).trans (if_pos dead)

theorem pair_within (inside : ¬(n ≤ x ∨ n ≤ y)) (alive : ¬(t.effective.get x = .dead ∨ t.effective.get y = .dead))
    (within : (p.value x - p.value y).natAbs ≤ dMax) : Pass.pair t n dMax p (x, y) = p := by
  unfold Pass.pair
  exact (if_neg inside).trans ((if_neg alive).trans (if_pos within))

/-- A pair beyond the limit is drawn together, whichever member is the upper one. -/
theorem pair_beyond (inside : ¬(n ≤ x ∨ n ≤ y)) (alive : ¬(t.effective.get x = .dead ∨ t.effective.get y = .dead))
    (beyond : ¬(p.value x - p.value y).natAbs ≤ dMax) : Pass.pair t n dMax p (x, y) =
      if 0 < p.value x - p.value y then p.drawTogether ((p.value x - p.value y).natAbs - dMax) x y
        (t.effective.get x).movable (t.effective.get y).movable
      else p.drawTogether ((p.value x - p.value y).natAbs - dMax) y x
        (t.effective.get y).movable (t.effective.get x).movable := by
  unfold Pass.pair
  refine (if_neg inside).trans ((if_neg alive).trans ((if_neg beyond).trans ?_))
  dsimp only
  split <;> rfl

end

/-- What R128 says of a pair beyond the limit, with upper member `hi` and lower member `lo`, of which at least one is movable. -/
structure Pass.BroughtToLimit (p q : Pass) (dMax hi lo : Nat) (hiMoves loMoves : Bool) : Prop where
  counted : q.limited = p.limited + 1
  gap : q.value hi - q.value lo = dMax
  others : ∀ j, j ≠ hi → j ≠ lo → q.value j = p.value j
  hiStays : hiMoves = false → q.value hi = p.value hi
  loStays : loMoves = false → q.value lo = p.value lo
  halves : hiMoves = true → loMoves = true →
    q.value hi = p.value hi - ceilDiv ((p.value hi - p.value lo).natAbs - dMax) 2
    ∧ q.value lo = p.value lo + (((p.value hi - p.value lo).natAbs - dMax) / 2 : Nat)
  hiBetween : p.value lo ≤ q.value hi ∧ q.value hi ≤ p.value hi
  loBetween : p.value lo ≤ q.value lo ∧ q.value lo ≤ p.value hi

theorem drawTogether_broughtToLimit (p : Pass) {dMax hi lo : Nat} {hiMoves loMoves : Bool}
    (moves : hiMoves = true ∨ loMoves = true) (hiIn : hi < p.values.length) (loIn : lo < p.values.length)
    (above : p.value lo < p.value hi) (beyond : ¬(p.value hi - p.value lo).natAbs ≤ dMax) :
    p.BroughtToLimit (p.drawTogether ((p.value hi - p.value lo).natAbs - dMax) hi lo hiMoves loMoves)
      dMax hi lo hiMoves loMoves := by
  have apart : hi ≠ lo := fun same => by rw [same] at above; omega
  obtain ⟨hiValue, loValue, others⟩ := value_drawTogether p
    (excess := (p.value hi - p.value lo).natAbs - dMax) moves hiIn loIn apart
  have whole := fallOf_add_riseOf ((p.value hi - p.value lo).natAbs - dMax) moves
  refine ⟨?_, ?_, others, fun stays => ?_, fun stays => ?_, fun hiMoves loMoves => ?_, ?_, ?_⟩
  · rw [drawTogether_eq_moves p moves hiIn loIn]; rfl
  · omega
  · rw [hiValue, stays]; exact Int.sub_zero _
  · rw [loValue, stays]; exact Int.add_zero _
  · rw [hiValue, loValue, hiMoves, loMoves]; exact ⟨rfl, rfl⟩
  · omega
  · omega

/-- A pair beyond the limit with a movable member, by which of its values is the upper one. -/
theorem pair_broughtToLimit {t : Tables} {n dMax : Nat} {p : Pass} {x y : Nat} (xIn : x < p.values.length)
    (yIn : y < p.values.length) (inside : ¬(n ≤ x ∨ n ≤ y))
    (alive : ¬(t.effective.get x = .dead ∨ t.effective.get y = .dead)) (beyond : ¬(p.value x - p.value y).natAbs ≤ dMax)
    (moves : (t.effective.get x).movable = true ∨ (t.effective.get y).movable = true) :
    p.value y < p.value x ∧ p.BroughtToLimit (Pass.pair t n dMax p (x, y)) dMax x y
      (t.effective.get x).movable (t.effective.get y).movable
    ∨ p.value x < p.value y ∧ p.BroughtToLimit (Pass.pair t n dMax p (x, y)) dMax y x
      (t.effective.get y).movable (t.effective.get x).movable := by
  rw [pair_beyond inside alive beyond]
  split
  next positive =>
    have above : p.value y < p.value x := by omega
    exact .inl ⟨above, drawTogether_broughtToLimit p moves xIn yIn above beyond⟩
  next =>
    have above : p.value x < p.value y := by omega
    have swapped : (p.value x - p.value y).natAbs = (p.value y - p.value x).natAbs := by omega
    rw [swapped] at beyond ⊢
    exact .inr ⟨above, drawTogether_broughtToLimit p moves.symm yIn xIn above beyond⟩

/-- Settles O31: the branches of a pair in their order; a pair beyond the limit by its upper and its lower member. -/
theorem neighbourPairIsBroughtToTheLimit : Obligations.NeighbourPairIsBroughtToTheLimit := by
  intro t n dMax p x y size
  refine ⟨_, rfl, ?_⟩
  by_cases outside : n ≤ x ∨ n ≤ y
  · rw [if_pos outside, pair_outOfRange outside]
  by_cases dead : t.effective.get x = .dead ∨ t.effective.get y = .dead
  · rw [if_neg outside, if_pos dead, pair_dead outside dead]
  by_cases within : (p.value x - p.value y).natAbs ≤ dMax
  · rw [if_neg outside, if_neg dead, if_pos within, pair_within outside dead within]
  rw [if_neg outside, if_neg dead, if_neg within]
  split
  next stuck =>
    rw [pair_beyond outside dead within, stuck.1, stuck.2]
    exact ite_self _
  next unstuck =>
    have movable : (t.effective.get x).movable = true ∨ (t.effective.get y).movable = true := by
      simpa only [← Bool.not_eq_true, not_and_or, not_not] using unstuck
    rcases pair_broughtToLimit (by omega) (by omega) outside dead within movable with
      ⟨above, counted, gap, others, xStays, yStays, halves, xBetween, yBetween⟩
      | ⟨above, counted, gap, others, yStays, xStays, halves, yBetween, xBetween⟩
    · refine ⟨by omega, counted, others, xStays, yStays,
        fun xMoves yMoves => ⟨fun _ => halves xMoves yMoves, fun below => by omega⟩, ?_⟩
      omega
    · have swapped : (p.value y - p.value x).natAbs = (p.value x - p.value y).natAbs := by omega
      rw [swapped] at halves
      refine ⟨by omega, counted, fun j notX notY => others j notY notX, xStays, yStays,
        fun xMoves yMoves => ⟨fun below => by omega, fun _ => halves yMoves xMoves⟩, ?_⟩
      omega

/-! ## What the steps of the pipeline count (R118, R122 to R129, R147, R163) -/

section
variable (s : State)

/-- A drain counts limit clamps, its entries, and responses that find no room (R118, R120, R187). -/
theorem counter_drainActuator (e : Option Tag) {k : Counter} (other : k ∉ [.limitClamps, .stagedDrained, .controlOverflow]) :
    (s.drainActuator e).counter k = s.counter k := by
  simp only [List.mem_cons, List.not_mem_nil, or_false, not_or] at other
  obtain ⟨clamps, drains, responses⟩ := other
  have entries (u : State) (es : List (StagedEntry ActuatorWrite)) :
      (State.drainEntries State.applyActuator e u es).counter k = u.counter k := by
    induction es generalizing u with
    | nil => rfl
    | cons x es ih =>
      rw [State.drainEntries, ih, counter_bump, if_neg drains, counter_respond _ _ _ _ _ responses,
        counter_applyActuator _ _ clamps]
  unfold State.drainActuator
  dsimp only
  split
  · exact (counter_congr (State_recomputeClasses_counters _) k).trans (entries _ _)
  · exact entries _ _

theorem counter_formValues (c : Ix) (closed : Bool) {k : Counter}
    (other : k ∉ [.closedUpdates, .antiWindupClamps, .slaveParked, .unslaved]) :
    (s.formValues c closed).2.2.counter k = s.counter k := by
  simp only [List.mem_cons, List.not_mem_nil, or_false, not_or] at other
  obtain ⟨updates, clamps, parked, unslaved⟩ := other
  have updated : (if closed then s.closedUpdate c else (s, 0)).1.counter k = s.counter k := by
    cases closed
    · rfl
    · show (s.closedUpdate c).1.counter k = _
      unfold State.closedUpdate
      rw [counter_setCtx, counter_bumpBy, if_neg clamps, counter_bump, if_neg updates]
      rfl
  unfold State.formValues
  rw [counter_bumpBy, if_neg unslaved, counter_bumpBy, if_neg parked]
  exact updated

theorem counter_endRecord (e : PokeRun) (r : PokeRecord) {k : Counter}
    (other : k ∉ [.recordsCompleted, .sequencesDone, .controlOverflow, .eventFrames, .triggers]) :
    (s.endRecord e r).counter k = s.counter k := by
  simp only [List.mem_cons, List.not_mem_nil, or_false, not_or] at other
  obtain ⟨records, sequences, control, reports, triggers⟩ := other
  have counted : (s.bump .recordsCompleted).counter k = s.counter k := (counter_bump s _ _).trans (if_neg records)
  unfold State.endRecord
  dsimp only
  split
  · rw [counter_raise _ _ control reports triggers, counter_bump, if_neg sequences]
    exact (counter_congr ((pokeIdle_moves _).frame .counters (by decide)).symm k).trans counted
  · split
    · exact counted
    · exact (counter_congr ((fetchPoke_moves _ _).frame .counters (by decide)).symm k).trans counted

theorem counter_pokeStep {k : Counter}
    (other : k ∉ [.withheldFrames, .recordsCompleted, .sequencesDone, .controlOverflow, .eventFrames, .triggers]) :
    s.pokeStep.2.2.counter k = s.counter k := by
  obtain ⟨withheld, ending⟩ := List.ne_and_not_mem_of_not_mem_cons other
  unfold State.pokeStep
  split
  · rfl
  · split
    · exact (counter_bump s _ _).trans (if_neg withheld)
    · dsimp only
      split
      · rfl
      · split
        · rfl
        · exact counter_endRecord s _ _ ending

theorem counter_countPass (c : Ix) (p : Pass) (clamps : Nat) {k : Counter}
    (other : k ∉ [.pokeIgnored, .pairsOutOfRange, .deadPairs, .limitedPairs, .unresolvedPairs, .outputClamps]) :
    (s.countPass c p clamps).counter k = s.counter k := by
  simp only [List.mem_cons, List.not_mem_nil, or_false, not_or] at other
  obtain ⟨ignored, outOfRange, dead, limited, unresolved, outputs⟩ := other
  unfold State.countPass
  rw [counter_setCtx, counter_bumpBy, if_neg outputs, counter_bumpBy, if_neg unresolved, counter_bumpBy, if_neg limited,
    counter_bumpBy, if_neg dead, counter_bumpBy, if_neg outOfRange, counter_bumpBy, if_neg ignored]

theorem counter_handToMirror (f : MlFrame) {k : Counter} (other : k ∉ [.unsent, .superseded]) :
    (s.handToMirror f).counter k = s.counter k := by
  simp only [List.mem_cons, List.not_mem_nil, or_false, not_or] at other
  obtain ⟨unsent, superseded⟩ := other
  unfold State.handToMirror
  split
  · exact (counter_bump s _ _).trans (if_neg unsent)
  · split
    · rfl
    · exact (counter_bumpIf s _ _ _).trans (if_neg fun both => superseded both.1)

end

/-- With ML UP and nothing being sent, a frame handed over is sent at once (R147). -/
theorem handToMirror_idle {s : State} (f : MlFrame) (up : s.mirror.up = true) (idle : s.mirror.sending = none) :
    (s.handToMirror f).mirror = { s.mirror with sending := some f } := by
  unfold State.handToMirror
  rw [up, idle]
  rfl

/-! ## The length of a pass, and the commands made of it (R126, R128, R129) -/

/-- Steps that keep the number of values keep it over a run. -/
theorem foldl_values_length {α : Type} {f : Pass → α → Pass} (kept : ∀ p x, (f p x).values.length = p.values.length)
    (xs : List α) (p : Pass) : (xs.foldl f p).values.length = p.values.length := by
  induction xs generalizing p with
  | nil => rfl
  | cons x xs ih => exact (ih _).trans (kept p x)

theorem offset_values_length (t : Tables) (a : Nat) (p : Pass) (e : Nat × Int) :
    (Pass.offset t a p e).values.length = p.values.length := by
  unfold Pass.offset
  split
  · exact values_length_move p _ _
  · rfl

theorem drawTogether_values_length (p : Pass) (excess hi lo : Nat) (hiMoves loMoves : Bool) :
    (p.drawTogether excess hi lo hiMoves loMoves).values.length = p.values.length := by
  unfold Pass.drawTogether
  split
  · rw [values_length_move, values_length_move]; rfl
  · split
    · exact values_length_move p.countLimited _ _
    · split
      · exact values_length_move p.countLimited _ _
      · rfl

theorem pair_values_length (t : Tables) (a dMax : Nat) (p : Pass) (q : Nat × Nat) :
    (Pass.pair t a dMax p q).values.length = p.values.length := by
  by_cases outside : a ≤ q.1 ∨ a ≤ q.2
  · rw [pair_outOfRange outside]
  by_cases dead : t.effective.get q.1 = .dead ∨ t.effective.get q.2 = .dead
  · rw [pair_dead outside dead]
  by_cases within : (p.value q.1 - p.value q.2).natAbs ≤ dMax
  · rw [pair_within outside dead within]
  rw [pair_beyond outside dead within]
  split <;> exact drawTogether_values_length p _ _ _ _ _

theorem constrain_values_length (t : Tables) (a dMax : Nat) (values : List Int) (offsets : List (Nat × Int)) :
    (t.constrain a dMax values offsets).values.length = values.length := by
  unfold Tables.constrain
  rw [foldl_values_length (pair_values_length t a dMax), foldl_values_length (offset_values_length t a)]

theorem commands_length (t : Tables) (p : Pass) : (t.commands p).length = p.values.length := by
  rw [Tables.commands, List.length_map, List.length_range]

theorem commands_getD (t : Tables) (p : Pass) {j : Nat} (inPass : j < p.values.length) :
    (t.commands p).getD j 0 = t.command j (p.value j) := by
  rw [List.getD_eq_getElem _ _ (by rwa [commands_length])]
  unfold Tables.commands
  rw [List.getElem_map, List.getElem_range]

theorem command_bounds {t : Tables} {j : Nat} (entry : (t.actuators.get j).ordered) (v : Int) :
    (t.actuators.get j).lo ≤ t.command j v ∧ t.command j v ≤ (t.actuators.get j).hi :=
  clampInt_bounds v (Int.le_trans entry.1 entry.2)

theorem formValues_length (s : State) (c : Ix) (closed : Bool) :
    (s.formValues c closed).1.length = s.params.actuators := by
  unfold State.formValues
  cases closed <;> exact (List.length_map _).trans List.length_range

/-! ## The pipeline of an applied frame (R121) -/

/-- The commands of a frame become the last outputs, its context is marked applied with them, and the COMMAND frame is counted
(R129, R130, R148). -/
def State.takeCommands (s : State) (c : Ix) (commands : List Int) (mark : PokeMark) : State :=
  let t : State := { s with tables := { s.tables with lastOutputs := s.tables.lastOutputs.setRun 0 commands } }
  (t.setCtx c { t.ctx c with applied := true, commands := commands, poke := mark }).bump .commandsBuilt

section
variable (s : State) (c : Ix)

theorem countPass_tables (p : Pass) (n : Nat) : (s.countPass c p n).tables = s.tables := by
  simp only [State.countPass, State_setCtx_tables, State_bumpBy_tables]

theorem countPass_mirror (p : Pass) (n : Nat) : (s.countPass c p n).mirror = s.mirror := by
  simp only [State.countPass, State_setCtx_mirror, State_bumpBy_mirror]

variable (commands : List Int) (mark : PokeMark)

theorem takeCommands_ctx : (s.takeCommands c commands mark).ctx c
    = { s.ctx c with applied := true, commands := commands, poke := mark } := State_ctx_setCtx _ _ _

theorem takeCommands_tables : (s.takeCommands c commands mark).tables
    = { s.tables with lastOutputs := s.tables.lastOutputs.setRun 0 commands } := rfl

theorem takeCommands_mirror : (s.takeCommands c commands mark).mirror = s.mirror := rfl

theorem takeCommands_counted : s.counted (s.takeCommands c commands mark) .commandsBuilt 1 := counted_bump_of rfl

end

section
variable (s : State) (c : Ix)

/-- The values of step 5 of an applied frame, its clamp count, and the state, after the drain (R118, R122 to R125). -/
def State.valuesFormed (s : State) (c : Ix) : List Int × Nat × State :=
  (s.drainActuator (some (s.ctx c).tag)).formValues c (s.loop.state == .closed)

/-- What step 6 hands over, with the state after the engine has moved on (R163). -/
def State.pokeApplied (s : State) (c : Ix) : List (Nat × Int) × PokeMark × State := (s.valuesFormed c).2.2.pokeStep

/-- The state in which the values of an applied frame go through steps 6 to 8; the Poke Engine has moved on. -/
def State.atPass (s : State) (c : Ix) : State := (s.pokeApplied c).2.2

/-- The pass of an applied frame through steps 6 and 7 (R126, R128). -/
def State.passOf (s : State) (c : Ix) : Pass :=
  (s.atPass c).tables.constrain (s.atPass c).params.actuators (s.atPass c).params.dMax (s.valuesFormed c).1 (s.pokeApplied c).1

/-- The commands of an applied frame (R129). -/
def State.commandsOf (s : State) (c : Ix) : List Int := (s.atPass c).tables.commands (s.passOf c)

/-- The state in which the COMMAND frame of an applied frame is handed over (R129, R130, R133, R148). -/
def State.commandBuilt (s : State) (c : Ix) : State :=
  ((s.atPass c).countPass c (s.passOf c) ((s.atPass c).tables.outputClamps (s.passOf c))).takeCommands c (s.commandsOf c)
    (s.pokeApplied c).2.1

theorem pipeline_eq : s.pipeline c = ((s.commandBuilt c).handToMirror
    ⟨.command, (s.ctx c).tag, commandFrame (s.ctx c).tag (s.pokeApplied c).2.1 (s.commandsOf c), true⟩,
    (s.valuesFormed c).2.1) := rfl

/-- The parts that the pipeline may change before the values go through steps 6 to 8. -/
abbrev atPassParts : List Part :=
  [.actuators, .counters, .gains, .overrides, .slaves, .pairs, .openShape, .queues, .actuatorQueue, .effective, .contexts,
   .poke, .arbiter, .requests, .banks, .events, .snapshot, .capture]

theorem atPass_moves : Moves atPassParts s (s.atPass c) :=
  (pokeStep_moves _).after ((formValues_moves _ c _).after (drainActuator_moves s _).widen)

theorem atPass_built : (s.atPass c).counter .commandsBuilt = s.counter .commandsBuilt := calc
  (s.atPass c).counter .commandsBuilt = (s.valuesFormed c).2.2.counter .commandsBuilt := counter_pokeStep _ (by decide)
  _ = (s.drainActuator (some (s.ctx c).tag)).counter .commandsBuilt := counter_formValues _ c _ (by decide)
  _ = s.counter .commandsBuilt := counter_drainActuator s _ (by decide)

/-- Every actuator below A has a value in the pass. -/
theorem passOf_length : (s.passOf c).values.length = s.params.actuators := by
  have params := (drainActuator_moves s (some (s.ctx c).tag)).frame .params (by decide)
  exact (constrain_values_length _ _ _ _ _).trans
    ((formValues_length _ c _).trans (congrArg Params.actuators params).symm)

theorem commandsOf_length : (s.commandsOf c).length = s.params.actuators :=
  (commands_length _ _).trans (passOf_length s c)

/-- The context of an applied frame (R129, R166). -/
theorem pipeline_ctx : ((s.pipeline c).1.ctx c).applied = true ∧ ((s.pipeline c).1.ctx c).commands = s.commandsOf c
    ∧ ((s.pipeline c).1.ctx c).poke = (s.pokeApplied c).2.1 := by
  rw [pipeline_eq, ctx_congr (State_handToMirror_frames _ _) c, State.commandBuilt, takeCommands_ctx]
  exact ⟨rfl, rfl, rfl⟩

theorem pipeline_tables : (s.pipeline c).1.tables
    = { (s.atPass c).tables with lastOutputs := (s.atPass c).tables.lastOutputs.setRun 0 (s.commandsOf c) } := by
  rw [pipeline_eq, State_handToMirror_tables, State.commandBuilt, takeCommands_tables, countPass_tables]

theorem pipeline_command_bounds (inv : s.Inv) {j : Nat} (inPass : j < s.params.actuators) :
    ((s.pipeline c).1.actuator j).lo ≤ (s.commandsOf c).getD j 0
      ∧ (s.commandsOf c).getD j 0 ≤ ((s.pipeline c).1.actuator j).hi := by
  have actuator : (s.pipeline c).1.actuator j = (s.atPass c).tables.actuators.get j := by
    unfold State.actuator
    rw [pipeline_tables]
  have value : (s.commandsOf c).getD j 0 = (s.atPass c).tables.command j ((s.passOf c).value j) :=
    commands_getD _ _ (by rwa [passOf_length])
  rw [actuator, value]
  exact command_bounds (((atPass_moves s c).inv inv).entries j) _

theorem pipeline_lastOutputs (j : Nat) : (s.pipeline c).1.tables.lastOutputs.get j
    = if j < s.params.actuators then (s.commandsOf c).getD j 0 else s.tables.lastOutputs.get j := by
  have kept : s.tables.lastOutputs = (s.atPass c).tables.lastOutputs := (atPass_moves s c).frame .lastOutputs (by decide)
  rw [pipeline_tables, kept]
  refine (Table_get_setRun_getD _ 0 j _ 0).trans ?_
  rw [commandsOf_length, Nat.zero_add, Nat.sub_zero]
  exact if_congr (and_iff_right (Nat.zero_le j)) rfl rfl

theorem pipeline_commandsBuilt : s.counted (s.pipeline c).1 .commandsBuilt 1 := by
  have before := (counter_countPass (s.atPass c) c (s.passOf c) ((s.atPass c).tables.outputClamps (s.passOf c))
    (k := .commandsBuilt) (by decide)).trans (atPass_built s c)
  rw [pipeline_eq, State.counted, counter_handToMirror _ _ (by decide), ← before]
  exact takeCommands_counted _ c _ _

theorem pipeline_sending (up : s.mirror.up = true) (idle : s.mirror.sending = none) : (s.pipeline c).1.mirror.sending
    = some ⟨.command, (s.ctx c).tag, commandFrame (s.ctx c).tag (s.pokeApplied c).2.1 (s.commandsOf c), true⟩ := by
  have kept : (s.commandBuilt c).mirror = s.mirror := by
    rw [State.commandBuilt, takeCommands_mirror, countPass_mirror]
    exact ((atPass_moves s c).frame .mirror (by decide)).symm
  rw [← kept] at up idle
  rw [pipeline_eq, handToMirror_idle _ up idle]

end

/-- Settles O30: what the pipeline leaves in its context, the tables, the counters and the mirror link. -/
theorem appliedFrameCommandsWithinLimits : Obligations.AppliedFrameCommandsWithinLimits := by
  intro s c inv
  obtain ⟨applied, commands, poke⟩ := pipeline_ctx s c
  refine ⟨(s.pipeline c).1, (s.pipeline c).2, rfl, applied, ?_⟩
  rw [commands, poke]
  exact ⟨commandsOf_length s c, fun j inPass => pipeline_command_bounds s c inv inPass, pipeline_lastOutputs s c,
    pipeline_commandsBuilt s c, pipeline_sending s c⟩

end Sys2Proof.Machine

/-! SUPPORT. The proofs of the statements about loop supervision and the mirror link (chapter 8): the drain, the abort of the Poke
Engine, the entry to SAFE in its steps, the detectors, the timers, echoes, and the requests of the loop. -/

namespace Sys2Proof.Machine

/-! ## Parts that moves leave alone -/

/-- The whole Loop Supervisor where neither it nor its snapshot has moved. -/
theorem Moves.loop_eq {ps : List Part} {s t : State} (h : Moves ps s t) (loop : Part.loop ∉ ps := by decide)
    (snapshot : Part.snapshot ∉ ps := by decide) : t.loop = s.loop := by
  have rest := h.frame .loop loop
  have held := h.frame .snapshot snapshot
  simp only [Part.same, Prod.mk.injEq, Loop.mk.injEq] at rest held
  generalize s.loop = l at *
  generalize t.loop = m at *
  cases l
  cases m
  simp_all

/-- Events and their settings where neither has moved. -/
theorem Moves.events_eq {ps : List Part} {s t : State} (h : Moves ps s t) (events : Part.events ∉ ps := by decide)
    (settings : Part.eventSettings ∉ ps := by decide) : t.events = s.events := by
  have rest := h.frame .events events
  have set := h.frame .eventSettings settings
  simp only [Part.same, Prod.mk.injEq, Events.mk.injEq] at rest set
  generalize s.events = l at *
  generalize t.events = m at *
  cases l
  cases m
  simp_all

/-! ## The actuator-side drain (R118, R119) -/

section
variable (s : State) (e : Option Tag)

@[simp] theorem State_drainActuator_loop : (s.drainActuator e).loop = s.loop := (drainActuator_moves s e).loop_eq

@[simp] theorem State_drainActuator_events : (s.drainActuator e).events = s.events := (drainActuator_moves s e).events_eq

@[simp] theorem State_drainActuator_safeOut : (s.drainActuator e).safeOut = s.safeOut :=
  (Prod.mk.inj ((drainActuator_moves s e).frame .loop (by decide))).1.symm

@[simp] theorem State_drainActuator_mirror : (s.drainActuator e).mirror = s.mirror :=
  ((drainActuator_moves s e).frame .mirror (by decide)).symm

@[simp] theorem State_drainActuator_poke : (s.drainActuator e).poke = s.poke :=
  ((drainActuator_moves s e).frame .poke (by decide)).symm

@[simp] theorem State_drainActuator_params : (s.drainActuator e).params = s.params :=
  ((drainActuator_moves s e).frame .params (by decide)).symm

@[simp] theorem State_drainActuator_now : (s.drainActuator e).now = s.now :=
  ((drainActuator_moves s e).frame .timebase (by decide)).symm

/-- A drain leaves its queue empty (R119). -/
@[simp] theorem State_drainActuator_actuatorQueue : (s.drainActuator e).mgmt.actuatorQueue = [] := by
  have entries (u : State) (es : List (StagedEntry ActuatorWrite)) :
      u.mgmt.actuatorQueue = (State.drainEntries State.applyActuator e u es).mgmt.actuatorQueue :=
    drainEntries_frame (ps := .queues :: actuatorParts) State.applyActuator
      (fun t w p outside => applyActuator_frame t w p fun h => outside (List.mem_cons_of_mem _ h)) rfl u e es
      .actuatorQueue (by decide)
  unfold State.drainActuator
  dsimp only
  split
  · rw [State_recomputeClasses_mgmt, ← entries]
  · rw [← entries]

/-- With nothing queued a drain does nothing. -/
theorem drainActuator_nil (empty : s.mgmt.actuatorQueue = []) : s.drainActuator e = s := by
  have same : ({ s with mgmt := { s.mgmt with actuatorQueue := [] } } : State) = s := by rw [← empty]
  unfold State.drainActuator
  rw [same, empty]
  rfl

end

/-! ## The abort of the Poke Engine (R161) -/

section
variable (s : State)

@[simp] theorem State_abortPoke_loop : s.abortPoke.loop = s.loop := by unfold State.abortPoke; split <;> simp [State.pokeIdle]

@[simp] theorem State_abortPoke_safeOut : s.abortPoke.safeOut = s.safeOut := by
  unfold State.abortPoke; split <;> simp [State.pokeIdle]

@[simp] theorem State_abortPoke_mirror : s.abortPoke.mirror = s.mirror := by
  unfold State.abortPoke; split <;> simp [State.pokeIdle]

@[simp] theorem State_abortPoke_params : s.abortPoke.params = s.params := by
  unfold State.abortPoke; split <;> simp [State.pokeIdle]

@[simp] theorem State_abortPoke_frames : s.abortPoke.frames = s.frames := by
  unfold State.abortPoke; split <;> simp [State.pokeIdle]

/-- The engine is IDLE afterwards. -/
@[simp] theorem State_abortPoke_poke : s.abortPoke.poke = none := by
  unfold State.abortPoke
  split
  · simp [State.pokeIdle]
  · next idle => simpa using idle

theorem abortPoke_idle (idle : s.poke = none) : s.abortPoke = s := by simp [State.abortPoke, idle]

theorem counter_abortPoke {k : Counter} (other : k ∉ [.sequencesAborted, .controlOverflow, .eventFrames]) :
    s.abortPoke.counter k = s.counter k := by
  simp only [List.mem_cons, List.not_mem_nil, or_false, not_or] at other
  obtain ⟨aborted, control, reports⟩ := other
  unfold State.abortPoke
  split
  · rw [counter_reportTest _ control reports, counter_bump, if_neg aborted]
    rfl
  · rfl

/-- A RUNNING engine's sequence counts as aborted. -/
theorem abortPoke_counted : s.countedIf s.abortPoke s.poke.isSome .sequencesAborted := by
  unfold State.abortPoke State.countedIf
  split
  · rw [counter_reportTest _ (by decide) (by decide), counter_bump, if_pos rfl]
    rfl
  · rfl

end

/-! ## Fatal latches (R190) -/

/-- Raising an event latches no fatal event but itself. -/
theorem isPending_raise {f : Event} (fatal : hasEvent fatalSet f = true) (s : State) (e : Event) :
    (s.raise e).isPending f = (s.isPending f || f == e) := by
  have transient : (f == .telemetryTriggered) = false := by
    refine beq_eq_false_iff_ne.mpr ?_
    rintro rfl
    exact absurd fatal (by decide)
  have triggered (u : State) : (u.triggerCapture e).isPending f = u.isPending f := by
    unfold State.triggerCapture
    split
    · dsimp only
      split
      · exact (isPending_setPending _ _ f).trans (by rw [transient]; exact Bool.or_false _)
      · rfl
    · rfl
  have joined : ((s.setPending e).joinLaterCauses e).isPending f = (s.setPending e).isPending f := by
    simp [State.isPending]
  unfold State.raise
  dsimp only
  rw [← isPending_setPending]
  refine ((isPending_reportTest _ f).resolve_right fun transient => by simp [fatal] at transient).trans ?_
  split
  · rfl
  · rw [triggered, joined]

/-- An event that joins no later causes leaves the Loop Supervisor alone (R154). -/
theorem raise_loop {e : Event} (joins : joinsLaterCauses e = false) (s : State) : (s.raise e).loop = s.loop := by
  unfold State.raise State.joinLaterCauses
  dsimp only
  rw [joins]
  split <;> simp


/-! ## Frames handed to the mirror link (R147, R149) -/

section
variable {s : State} (f : MlFrame)

theorem handToMirror_down (down : s.mirror.up = false) : s.handToMirror f = s.bump .unsent := by
  unfold State.handToMirror; rw [down]; rfl

theorem handToMirror_sent (up : s.mirror.up = true) (idle : s.mirror.sending = none) :
    s.handToMirror f = { s with mirror := { s.mirror with sending := some f } } := by
  unfold State.handToMirror; rw [up, idle]; rfl

theorem handToMirror_waits (up : s.mirror.up = true) (busy : s.mirror.sending ≠ none) : s.handToMirror f
    = { s.bumpIf s.mirror.waiting.isSome .superseded with mirror := { s.mirror with waiting := some f } } := by
  obtain ⟨g, sending⟩ := Option.ne_none_iff_exists'.mp busy
  unfold State.handToMirror
  rw [up, sending]
  dsimp only
  rw [State_bumpIf_mirror]
  rfl

/-- A frame handed over changes nothing of the mirror link but its two slots. -/
theorem handToMirror_slots (s : State) :
    { (s.handToMirror f).mirror with sending := s.mirror.sending, waiting := s.mirror.waiting } = s.mirror := by
  cases up : s.mirror.up with
  | false => rw [handToMirror_down f up]; rfl
  | true =>
    by_cases idle : s.mirror.sending = none
    · rw [handToMirror_sent f up idle]
    · rw [handToMirror_waits f up idle]

end

/-- The shape number one higher and the last outputs at their parks, before the SHAPE frame is handed over (R149). -/
def State.shaped (s : State) : State :=
  { s with
    mirror := { s.mirror with shapeNumber := s.mirror.shapeNumber + 1 }
    tables := { s.tables with lastOutputs := s.tables.lastOutputs.setRun 0 s.parks } }

/-- The SHAPE frame that is built next (R149). -/
def State.nextShape (s : State) : MlFrame :=
  ⟨.shape, s.mirror.shapeNumber + 1, shapeFrame (s.mirror.shapeNumber + 1) s.parks, true⟩

theorem buildShape_eq (s : State) : s.buildShape = s.shaped.handToMirror s.nextShape := rfl

section
variable (s : State)

theorem buildShape_tables : s.buildShape.tables = { s.tables with lastOutputs := s.tables.lastOutputs.setRun 0 s.parks } :=
  State_handToMirror_tables _ _

theorem counter_buildShape {k : Counter} (other : k ∉ [.unsent, .superseded]) : s.buildShape.counter k = s.counter k :=
  counter_handToMirror s.shaped _ other

/-- The last output of every actuator below A is its park (R130, R149). -/
theorem buildShape_lastOutputs {j : Nat} (inFrame : j < s.params.actuators) :
    s.buildShape.tables.lastOutputs.get j = (s.actuator j).park := by
  rw [buildShape_tables, Table_get_setRun_getD _ _ _ _ 0]
  simp [State.parks, inFrame]

/-- Beside the slots a SHAPE frame changes only the shape number of the mirror link. -/
theorem buildShape_slots :
    { s.buildShape.mirror with sending := s.mirror.sending, waiting := s.mirror.waiting, shapeNumber := s.mirror.shapeNumber }
    = s.mirror ∧ s.buildShape.mirror.shapeNumber = s.mirror.shapeNumber + 1 := by
  have slots := handToMirror_slots s.nextShape s.shaped
  have number := congrArg Mirror.shapeNumber slots
  exact ⟨congrArg (fun m => { m with shapeNumber := s.mirror.shapeNumber }) slots, number⟩

theorem buildShape_sending (up : s.mirror.up = true) (idle : s.mirror.sending = none) :
    s.buildShape.mirror.sending = some s.nextShape := by
  rw [buildShape_eq, handToMirror_idle (s := s.shaped) _ up idle]

/-- With ML DOWN the slots stand as they were (R147). -/
theorem buildShape_down (down : s.mirror.up = false) :
    s.buildShape.mirror = { s.mirror with shapeNumber := s.mirror.shapeNumber + 1 } := by
  rw [buildShape_eq, handToMirror_down (s := s.shaped) _ down]
  rfl

end

/-! ## The entry to SAFE in its steps (R144) -/

/-- Steps 1 to 3: the snapshot filled, the loop SAFE with SAFE_OUT high, LOOP_SAFE latched. -/
def State.safeLatched (s : State) (cause : SafeCause) : State :=
  let s1 := s.fillSnapshot cause
  (State.bump { s1 with loop := { s1.loop with state := .safe }, safeOut := true } .safeEntries).raise .loopSafe

/-- Steps 4 and 5: the Poke Engine aborted and the actuator-side queue drained. -/
def State.safeDrained (s : State) (cause : SafeCause) : State := (s.safeLatched cause).abortPoke.drainActuator none

/-- Step 6: the starvation timer stopped and the park refresh timer started. -/
def State.safeTimed (s : State) (cause : SafeCause) : State :=
  { s.safeDrained cause with loop :=
    { (s.safeDrained cause).loop with starvation := none, parkRefresh := some (s.safeDrained cause).now } }

section
variable {s : State} (cause : SafeCause)

theorem enterSafe_eq (enters : s.loop.state.entersSafe = true) : s.enterSafe cause = (s.safeTimed cause).buildShape := by
  unfold State.enterSafe; rw [if_pos enters]; rfl

theorem enterSafe_rests (rests : s.loop.state.entersSafe = false) : s.enterSafe cause = s := by
  unfold State.enterSafe; rw [rests]; rfl

theorem entersSafe_of_applies {l : LoopState} (applies : l.applies = true) : l.entersSafe = true := by
  revert applies; cases l <;> decide

theorem fillSnapshot_eq (s : State) : s.fillSnapshot cause = { s with loop := { s.loop with
    snapshotState := .held
    snapshot := if s.loop.snapshotState = .held then s.loop.snapshot else some (s.takeSnapshot cause) } } := by
  unfold State.fillSnapshot
  split
  · next held => rw [← held]
  · rfl

theorem safeLatched_eq (s : State) : s.safeLatched cause = State.raise (State.bump
    { s with
      safeOut := true
      loop := { s.loop with
        state := .safe
        snapshotState := .held
        snapshot := if s.loop.snapshotState = .held then s.loop.snapshot else some (s.takeSnapshot cause) } }
    .safeEntries) .loopSafe := by
  unfold State.safeLatched
  rw [fillSnapshot_eq]

/-- The Loop Supervisor after an entry to SAFE (R144, R153). -/
theorem enterSafe_loop (enters : s.loop.state.entersSafe = true) : (s.enterSafe cause).loop = { s.loop with
    state := .safe
    starvation := none
    parkRefresh := some s.now
    snapshotState := .held
    snapshot := if s.loop.snapshotState = .held then s.loop.snapshot else some (s.takeSnapshot cause) } := by
  have loop : (s.safeDrained cause).loop = (s.safeLatched cause).loop := by simp [State.safeDrained]
  have now : (s.safeDrained cause).now = s.now := by
    rw [State.safeDrained, State_drainActuator_now, safeLatched_eq]
    simp [State.now]
  rw [enterSafe_eq _ enters, State_buildShape_loop]
  unfold State.safeTimed
  rw [loop, now, safeLatched_eq, raise_loop rfl]
  rfl

/-- SAFE_OUT is high, the Poke Engine IDLE, and the actuator-side queue empty after an entry to SAFE (R144, R145, R161). -/
theorem enterSafe_quiets (enters : s.loop.state.entersSafe = true) : (s.enterSafe cause).safeOut = true
    ∧ (s.enterSafe cause).poke = none ∧ (s.enterSafe cause).mgmt.actuatorQueue = [] := by
  rw [enterSafe_eq _ enters]
  refine ⟨?_, ?_, ?_⟩
  · rw [State_buildShape_safeOut]
    show (s.safeDrained cause).safeOut = true
    rw [State.safeDrained, State_drainActuator_safeOut, State_abortPoke_safeOut, safeLatched_eq]
    simp
  · rw [State_buildShape_poke]
    exact (State_drainActuator_poke _ _).trans (State_abortPoke_poke _)
  · rw [State_buildShape_mgmt]
    exact State_drainActuator_actuatorQueue _ _

/-- What an entry to SAFE can count beside its own counter. -/
abbrev Counter.besideSafe : List Counter :=
  [.controlOverflow, .eventFrames, .triggers, .sequencesAborted, .limitClamps, .stagedDrained, .unsent, .superseded]

theorem counter_safeTimed (s : State) {k : Counter} (other : k ∉ Counter.besideSafe) :
    (s.safeTimed cause).buildShape.counter k = (s.bump .safeEntries).counter k := by
  have latched : (s.safeLatched cause).counter k = (s.bump .safeEntries).counter k := by
    rw [safeLatched_eq, counter_raise]
    · rfl
    all_goals rintro rfl; exact other (by decide)
  have within {ks : List Counter} (sub : ks ⊆ Counter.besideSafe) : k ∉ ks := fun mem => other (sub mem)
  calc (s.safeTimed cause).buildShape.counter k
    _ = (s.safeDrained cause).counter k := counter_buildShape _ (within (by decide))
    _ = (s.safeLatched cause).abortPoke.counter k := counter_drainActuator _ none (within (by decide))
    _ = (s.safeLatched cause).counter k := counter_abortPoke _ (within (by decide))
    _ = (s.bump .safeEntries).counter k := latched

theorem enterSafe_counted (enters : s.loop.state.entersSafe = true) : s.counted (s.enterSafe cause) .safeEntries 1 := by
  rw [State.counted, enterSafe_eq _ enters, counter_safeTimed _ _ (by decide)]
  exact counted_bump s .safeEntries

theorem counter_enterSafe {k : Counter} (other : k ∉ .safeEntries :: Counter.besideSafe) :
    (s.enterSafe cause).counter k = s.counter k := by
  obtain ⟨entries, beside⟩ := List.ne_and_not_mem_of_not_mem_cons other
  cases enters : s.loop.state.entersSafe with
  | false => rw [enterSafe_rests _ enters]
  | true => rw [enterSafe_eq _ enters, counter_safeTimed _ _ beside, counter_bump, if_neg entries]

/-- LOOP_SAFE is latched by an entry to SAFE (R144). -/
theorem enterSafe_latches (enters : s.loop.state.entersSafe = true) : (s.enterSafe cause).isPending .loopSafe = true := by
  have latched : (s.safeLatched cause).isPending .loopSafe = true := (raise_raised _ .loopSafe).2 rfl
  have drained : (s.safeDrained cause).isPending .loopSafe = true :=
    (drainActuator_sparesReads _ none).latched _ rfl ((abortPoke_sparesReads _).latched _ rfl latched)
  rw [enterSafe_eq _ enters]
  unfold State.isPending
  rw [State_buildShape_events]
  exact drained

/-- The mirror link as the steps before the SHAPE frame leave it. -/
theorem safeTimed_mirror (s : State) : (s.safeTimed cause).mirror = s.mirror := by
  show (s.safeDrained cause).mirror = s.mirror
  rw [State.safeDrained, State_drainActuator_mirror, State_abortPoke_mirror, safeLatched_eq]
  simp

theorem safeTimed_params (s : State) : (s.safeTimed cause).params = s.params := by
  show (s.safeDrained cause).params = s.params
  rw [State.safeDrained, State_drainActuator_params, State_abortPoke_params, safeLatched_eq]
  simp

/-- Beside the slots an entry to SAFE changes at most the shape number of the mirror link. -/
theorem enterSafe_slots (s : State) : { (s.enterSafe cause).mirror with
    sending := s.mirror.sending, waiting := s.mirror.waiting, shapeNumber := s.mirror.shapeNumber } = s.mirror := by
  cases enters : s.loop.state.entersSafe with
  | false => rw [enterSafe_rests _ enters]
  | true =>
    rw [enterSafe_eq _ enters]
    have slots := (buildShape_slots (s.safeTimed cause)).1
    rwa [safeTimed_mirror] at slots

/-- The parks in effect are those that the drain has left. -/
theorem enterSafe_actuator (enters : s.loop.state.entersSafe = true) (j : Nat) :
    (s.enterSafe cause).actuator j = (s.safeTimed cause).actuator j := by
  rw [enterSafe_eq _ enters]
  unfold State.actuator
  rw [buildShape_tables]

theorem enterSafe_lastOutputs (enters : s.loop.state.entersSafe = true) {j : Nat} (inFrame : j < s.params.actuators) :
    (s.enterSafe cause).tables.lastOutputs.get j = ((s.enterSafe cause).actuator j).park := by
  rw [enterSafe_actuator _ enters, enterSafe_eq _ enters]
  exact buildShape_lastOutputs _ (by rwa [safeTimed_params])

/-- The SHAPE frame of an entry to SAFE (R149). -/
theorem enterSafe_sending (enters : s.loop.state.entersSafe = true) (up : s.mirror.up = true) (idle : s.mirror.sending = none) :
    (s.enterSafe cause).mirror.sending = some ⟨.shape, s.mirror.shapeNumber + 1,
      shapeFrame (s.mirror.shapeNumber + 1) (s.enterSafe cause).parks, true⟩ := by
  have parks : (s.enterSafe cause).parks = (s.safeTimed cause).parks := by
    unfold State.parks
    rw [funext fun j => congrArg ActuatorEntry.park (enterSafe_actuator cause enters j), enterSafe_eq _ enters,
      State_buildShape_params]
  rw [parks, enterSafe_eq _ enters, buildShape_sending _ (by rwa [safeTimed_mirror]) (by rwa [safeTimed_mirror])]
  unfold State.nextShape
  rw [safeTimed_mirror]

end

theorem entersSafe_iff (l : LoopState) : l.entersSafe = true ↔ l ≠ .off ∧ l ≠ .safe := by cases l <;> decide

/-- Settles O34, step by step. -/
theorem entryToSafeTakesItsSteps : Obligations.EntryToSafeTakesItsSteps := by
  intro s cause
  refine ⟨fun rests => enterSafe_rests _ ?_, fun notOff notSafe => ?_⟩
  · rcases rests with h | h <;> rw [h] <;> rfl
  · have enters := (entersSafe_iff _).mpr ⟨notOff, notSafe⟩
    obtain ⟨safeOut, poke, queue⟩ := enterSafe_quiets cause enters
    have number : (s.enterSafe cause).mirror.shapeNumber = s.mirror.shapeNumber + 1 := by
      rw [enterSafe_eq _ enters, (buildShape_slots _).2, safeTimed_mirror]
    refine ⟨_, rfl, ?_, safeOut, enterSafe_latches cause enters, enterSafe_counted cause enters, poke, queue, ?_, ?_, number,
      fun j inFrame => enterSafe_lastOutputs cause enters inFrame, ?_, ?_, ?_, ?_, enterSafe_sending cause enters⟩
    all_goals rw [enterSafe_loop _ enters]


/-! ## The detectors (R141, R142) -/

/-- The state as a report leaves it before a detector trips. -/
def State.reported (s : State) (bad applied : Bool) (clamps : Nat) : State :=
  State.countSaturation (State.countBad { s with loop := { s.loop with
    lastFinish := some s.now
    starvation := if s.loop.state.applies then some s.now else s.loop.starvation } } bad applied) applied clamps

/-- The run counters are kept by an entry to SAFE (R144). -/
theorem enterSafe_runs (s : State) (cause : SafeCause) :
    (s.enterSafe cause).loop.badFrames = s.loop.badFrames ∧ (s.enterSafe cause).loop.satRun = s.loop.satRun := by
  cases enters : s.loop.state.entersSafe with
  | false => rw [enterSafe_rests _ enters]; exact ⟨rfl, rfl⟩
  | true => rw [enterSafe_loop _ enters]; exact ⟨rfl, rfl⟩

/-- A snapshot that was not HELD is filled (R153). -/
theorem enterSafe_snapshot {s : State} (cause : SafeCause) (enters : s.loop.state.entersSafe = true)
    (released : s.loop.snapshotState ≠ .held) : (s.enterSafe cause).loop.snapshot = some (s.takeSnapshot cause) := by
  rw [enterSafe_loop _ enters]
  exact if_neg released

section
variable (s : State) (bad applied : Bool) (clamps : Nat)

/-- What a report makes of the Loop Supervisor before a detector trips: the table of R141 with that of R142. -/
theorem reported_loop : (s.reported bad applied clamps).loop = { s.loop with
    lastFinish := some s.now
    starvation := if s.loop.state.applies then some s.now else s.loop.starvation
    badFrames := if applied then 0
      else if bad = true ∧ s.loop.state = .closed then min (s.loop.badFrames + 1) 255 else s.loop.badFrames
    satRun := if applied then
        (if s.loop.state = .closed ∧ s.params.saturationLimit < clamps then min (s.loop.satRun + 1) 1000 else 0)
      else s.loop.satRun
    lastClampCount := if applied then clamps else s.loop.lastClampCount } := by
  cases applied with
  | true => simp [State.reported, State.countBad, State.countSaturation]
  | false =>
    by_cases counts : bad = true ∧ s.loop.state = .closed <;>
      simp [State.reported, State.countBad, State.countSaturation, counts]

theorem reported_params : (s.reported bad applied clamps).params = s.params := by
  have counted (u : State) : (u.countBad bad applied).params = u.params :=
    ((countBad_moves u bad applied).frame .params (by decide)).symm
  exact ((countSaturation_moves _ applied clamps).frame .params (by decide)).symm.trans (counted _)

/-- A report trips a detector or none (R141, R142). -/
theorem report_eq : s.report bad applied clamps =
    if bad = true ∧ applied = false ∧ s.loop.state = .closed
        ∧ s.params.kBad ≤ (s.reported bad applied clamps).loop.badFrames then
      (s.reported bad applied clamps).enterSafe .badFrames
    else if applied = true ∧ s.loop.state = .closed ∧ s.params.saturationLimit < clamps
        ∧ s.params.saturationFrames ≤ (s.reported bad applied clamps).loop.satRun then
      (s.reported bad applied clamps).enterSafe .saturation
    else s.reported bad applied clamps := by
  have kBad : s.params.kBad = (s.reported bad applied clamps).params.kBad := by rw [reported_params]
  have frames : s.params.saturationFrames = (s.reported bad applied clamps).params.saturationFrames := by rw [reported_params]
  rw [kBad, frames]
  unfold State.report
  simp only [Bool.and_eq_true, beq_iff_eq, decide_eq_true_eq, Bool.not_eq_true', and_assoc]
  rfl

theorem report_bad : s.report true false clamps =
    if s.loop.state = .closed ∧ s.params.kBad ≤ (s.reported true false clamps).loop.badFrames then
      (s.reported true false clamps).enterSafe .badFrames
    else s.reported true false clamps := by
  simp [report_eq]

theorem report_applied : s.report false true clamps =
    if s.loop.state = .closed ∧ s.params.saturationLimit < clamps
        ∧ s.params.saturationFrames ≤ (s.reported false true clamps).loop.satRun then
      (s.reported false true clamps).enterSafe .saturation
    else s.reported false true clamps := by
  simp [report_eq]

/-- A report keeps the run counters as the detectors' tables make them, whether or not a detector trips (R141, R142, R144). -/
theorem report_runs : (s.report bad applied clamps).loop.badFrames = (s.reported bad applied clamps).loop.badFrames
    ∧ (s.report bad applied clamps).loop.satRun = (s.reported bad applied clamps).loop.satRun := by
  rw [report_eq]
  split
  · exact enterSafe_runs _ _
  · split
    · exact enterSafe_runs _ _
    · exact ⟨rfl, rfl⟩

end

section
variable (s : State) (clamps : Nat)

/-- Outside CLOSED no detector trips. -/
theorem report_outside (outside : s.loop.state ≠ .closed) (bad applied : Bool) :
    (s.report bad applied clamps).loop.state = s.loop.state := by
  rw [report_eq, if_neg (by simp [outside]), if_neg (by simp [outside]), reported_loop]

/-- The bad-frame detector trips at K_bad (R141, R153). -/
theorem report_trips_badFrames (closed : s.loop.state = .closed) :
    if s.params.kBad ≤ min (s.loop.badFrames + 1) 255 then
      (s.report true false clamps).loop.state = .safe
      ∧ (s.loop.snapshotState ≠ .held → ∃ n, (s.report true false clamps).loop.snapshot = some n
          ∧ n.cause = .badFrames ∧ n.badFrames = min (s.loop.badFrames + 1) 255)
    else (s.report true false clamps).loop.state = .closed := by
  have loop := reported_loop s true false clamps
  have counter : (s.reported true false clamps).loop.badFrames = min (s.loop.badFrames + 1) 255 := by rw [loop]; simp [closed]
  have enters : (s.reported true false clamps).loop.state.entersSafe = true := by rw [loop]; simp [closed, LoopState.entersSafe]
  rw [report_bad, counter]
  split
  · next trips =>
    rw [if_pos ⟨closed, trips⟩]
    exact ⟨by rw [enterSafe_loop _ enters],
      fun released => ⟨_, enterSafe_snapshot _ enters (by rwa [loop]), rfl, counter⟩⟩
  · next below =>
    rw [if_neg fun trips => below trips.2, loop]
    exact closed

/-- The saturation detector trips at its limit (R142, R153). -/
theorem report_trips_saturation (closed : s.loop.state = .closed) :
    if s.params.saturationLimit < clamps ∧ s.params.saturationFrames ≤ min (s.loop.satRun + 1) 1000 then
      (s.report false true clamps).loop.state = .safe
      ∧ (s.loop.snapshotState ≠ .held → ∃ n, (s.report false true clamps).loop.snapshot = some n
          ∧ n.cause = .saturation ∧ n.satRun = min (s.loop.satRun + 1) 1000 ∧ n.lastClampCount = clamps)
    else (s.report false true clamps).loop.state = .closed := by
  have loop := reported_loop s false true clamps
  have counter (exceeds : s.params.saturationLimit < clamps) :
      (s.reported false true clamps).loop.satRun = min (s.loop.satRun + 1) 1000 := by rw [loop]; simp [closed, exceeds]
  have enters : (s.reported false true clamps).loop.state.entersSafe = true := by rw [loop]; simp [closed, LoopState.entersSafe]
  have clampCount : (s.reported false true clamps).loop.lastClampCount = clamps := by rw [loop]; rfl
  rw [report_applied]
  by_cases exceeds : s.params.saturationLimit < clamps
  · rw [counter exceeds]
    split
    · next trips =>
      rw [if_pos ⟨closed, exceeds, trips.2⟩]
      exact ⟨by rw [enterSafe_loop _ enters],
        fun released => ⟨_, enterSafe_snapshot _ enters (by rwa [loop]), rfl, counter exceeds, clampCount⟩⟩
    · next below =>
      rw [if_neg fun trips => below trips.2, loop]
      exact closed
  · rw [if_neg fun trips => exceeds trips.1, if_neg fun trips => exceeds trips.2.1, loop]
    exact closed

end

/-! ## Requests to the tail's loop (R136 to R138, R184) -/

/-- At a tail a request with an empty body is judged by its last check alone (R184). -/
theorem judge_atTail {s : State} {r : Request} (tail : s.isTail = true) (empty : r.body = []) (accepts : Bool)
    (f : State → State) : s.judge r (s.tailChecks r ++ [(accepts, .wrongState)]) f
    = if accepts = true then f (s.bump .requestsAccepted) else s.refuse r .wrongState := by
  rw [State.tailChecks, List.cons_append, List.cons_append, judge_passed _ _ _ _ tail,
    judge_passed _ _ _ _ (by simp [Request.bodyIs, empty])]
  cases accepts
  · exact judge_failed _ _ _ _ rfl
  · exact judge_passed _ _ _ _ rfl

/-- The state in which an accepted request has left the queue and is counted (R183). -/
def State.accepted (s : State) : State := s.dequeue.bump .requestsAccepted

/-- The state that an accepted LOOP CLOSE answers in (R110, R137). -/
def State.closedLoop (s : State) : State := s.accepted.loadFromOpen.clearDetectors.enterRunning .closed

/-- The execution of such a request (R183). -/
theorem serve_atTail {s : State} {i : Instr} {r : Request} {f : State → Request → State} {g : State → State}
    {accepts : Bool} (oldest : s.oldest? i = some r) (tail : s.isTail = true) (empty : r.body = [])
    (judged : f s.dequeue r = s.dequeue.judge r (s.dequeue.tailChecks r ++ [(accepts, .wrongState)]) g) :
    s.serve i f = if accepts = true then g s.accepted else s.dequeue.refuse r .wrongState := by
  rw [serve_eq f oldest, judged]
  exact judge_atTail (s := s.dequeue) tail empty accepts g

theorem loopClose_exec {s : State} {r : Request} (oldest : s.oldest? .loopClose = some r) (tail : s.isTail = true)
    (empty : r.body = []) : exec .loopClose s = .next (if (s.loop.state.closes && s.loopReady) = true then s.closedLoop.done r []
      else s.dequeue.refuse r .wrongState) :=
  congrArg Host.Outcome.next (serve_atTail (g := fun t => (t.loadFromOpen.clearDetectors.enterRunning .closed).done r [])
    oldest tail empty rfl)

theorem closes_iff (l : LoopState) : l.closes = true ↔ l = .opened ∨ l = .held := by cases l <;> decide

/-- From OPEN the bumpless load is made and counted (R110, R137). -/
theorem loadFromOpen_opened {s : State} (opened : s.loop.state = .opened) :
    s.loadFromOpen = State.bump { s with tables := s.tables.bumpless } .bumplessLoads := if_pos opened

theorem loadFromOpen_rests {s : State} (rests : s.loop.state ≠ .opened) : s.loadFromOpen = s := if_neg rests

theorem closedLoop_loop (s : State) : s.closedLoop.loop
    = { s.loop with state := .closed, badFrames := 0, satRun := 0, starvation := some s.now } := by
  have kept : s.accepted.loadFromOpen.loop = s.loop ∧ s.accepted.loadFromOpen.now = s.now := by
    by_cases opened : s.accepted.loop.state = .opened
    · rw [loadFromOpen_opened opened]; exact ⟨rfl, rfl⟩
    · rw [loadFromOpen_rests opened]; exact ⟨rfl, rfl⟩
  obtain ⟨loop, now⟩ := kept
  show { s.accepted.loadFromOpen.loop with
    state := .closed, badFrames := 0, satRun := 0, starvation := some s.accepted.loadFromOpen.now } = _
  rw [loop, now]

/-- Settles O33, clause by clause. -/
theorem badFrameCounterFollowsTheTable : Obligations.BadFrameCounterFollowsTheTable := by
  refine ⟨fun s clamps closed => ⟨?_, report_trips_badFrames s clamps closed⟩, fun s clamps outside => ⟨?_, ?_⟩, ?_, ?_,
    fun s r oldest tail empty state ready => ⟨_, loopClose_exec oldest tail empty, ?_⟩,
    fun s n => ⟨_, rfl, rfl, rfl⟩, fun s due => ⟨_, nodeResetBegin_exec s due, ?_⟩,
    fun s inv => ⟨inv.badFrames, inv.satRun⟩, fun s clamps closed => ⟨?_, report_trips_saturation s clamps closed⟩,
    fun s clamps outside => ⟨?_, report_outside s clamps outside _ _⟩, ?_⟩
  · rw [(report_runs ..).1, reported_loop]; simp [closed]
  · rw [(report_runs ..).1, reported_loop]; simp [outside]
  · exact report_outside s clamps outside _ _
  · intro s clamps; rw [(report_runs ..).1, reported_loop]; rfl
  · intro s clamps; rw [(report_runs ..).1, reported_loop]; simp
  · rw [(closes_iff _).mpr state, ready, Bool.and_self, if_pos rfl, State.done, State_respond_loop, closedLoop_loop]
    exact ⟨rfl, rfl⟩
  · have loop : s.resetUnits.resetTables.loop = _ := Loop_nodeReset_eq s.loop
    rw [loop]
    exact ⟨rfl, rfl⟩
  · rw [(report_runs ..).2, reported_loop]; simp [closed]
  · rw [(report_runs ..).2, reported_loop]; simp [outside]
  · intro s bad clamps; rw [(report_runs ..).2, reported_loop]; rfl


/-! ## The loss of the mirror link (R147, R150, R152) -/

/-- With ML DOWN an entry to SAFE changes at most the shape number of the mirror link (R147). -/
theorem enterSafe_down {s : State} (cause : SafeCause) (down : s.mirror.up = false) :
    { (s.enterSafe cause).mirror with shapeNumber := s.mirror.shapeNumber } = s.mirror := by
  cases enters : s.loop.state.entersSafe with
  | false => rw [enterSafe_rests _ enters]
  | true => rw [enterSafe_eq _ enters, buildShape_down _ (by rwa [safeTimed_mirror]), safeTimed_mirror]

/-- The state in which MIRROR_LINK_LOST has been latched and counted (R152). -/
def State.mirrorLost (s : State) : State := (s.raise .mirrorLinkLost).bump .mirrorLinkLost

section
variable {s : State}

theorem loseMirror_eq (clear : s.isPending .mirrorLinkLost = false) : s.loseMirror = s.mirrorLost.enterSafe .mirrorLinkLost := by
  unfold State.loseMirror; rw [clear]; rfl

/-- The loss of the mirror link in OPEN and CLOSED latches, counts, and enters SAFE (R152). -/
theorem loseMirror_spec (clear : s.isPending .mirrorLinkLost = false) (applies : s.loop.state.applies = true) :
    s.loseMirror.isPending .mirrorLinkLost = true ∧ s.counted s.loseMirror .mirrorLinkLost 1
    ∧ s.loseMirror.loop.state = .safe := by
  have latched : s.mirrorLost.isPending .mirrorLinkLost = true := (raise_raised s .mirrorLinkLost).2 rfl
  have enters : s.mirrorLost.loop.state.entersSafe = true := by
    unfold State.mirrorLost
    rw [State_bump_loop, raise_loop rfl]
    exact entersSafe_of_applies applies
  rw [loseMirror_eq clear]
  refine ⟨(enterSafe_sparesReads _ _).latched _ rfl latched, ?_, by rw [enterSafe_loop _ enters]⟩
  rw [State.counted, counter_enterSafe _ (by decide)]
  exact counted_bump_of (counter_raise s _ (by decide) (by decide) (by decide))

theorem counter_loseMirror (s : State) {k : Counter} (other : k ∉ .mirrorLinkLost :: .safeEntries :: Counter.besideSafe) :
    s.loseMirror.counter k = s.counter k := by
  obtain ⟨lost, beside⟩ := List.ne_and_not_mem_of_not_mem_cons other
  unfold State.loseMirror
  split
  · rfl
  · rw [counter_enterSafe _ beside, counter_bump, if_neg lost, counter_raise]
    all_goals rintro rfl; exact other (by decide)

/-- Beside the slots the loss changes at most the shape number of the mirror link. -/
theorem loseMirror_slots (s : State) : { s.loseMirror.mirror with
    sending := s.mirror.sending, waiting := s.mirror.waiting, shapeNumber := s.mirror.shapeNumber } = s.mirror := by
  have same : s.mirrorLost.mirror = s.mirror := State_raise_mirror s .mirrorLinkLost
  unfold State.loseMirror
  split
  · rfl
  · have slots := enterSafe_slots .mirrorLinkLost s.mirrorLost
    rwa [same] at slots

/-- The fall of an UP mirror link, as far as its counters (R147). -/
def State.mlFell (s : State) : State :=
  State.bumpIf (State.bumpIf (State.bump (State.raise
      { s with mirror := { s.mirror with up := false, sending := none, waiting := none } } .linkDown) .mlLinkDown)
    s.mirror.sending.isSome .mlTransmitAborted) s.mirror.waiting.isSome .unsent

theorem mlFell_spec (s : State) : s.mlFell.mirror = { s.mirror with up := false, sending := none, waiting := none }
    ∧ s.mlFell.loop = s.loop ∧ s.mlFell.isPending .mirrorLinkLost = s.isPending .mirrorLinkLost
    ∧ s.counted s.mlFell .mlLinkDown 1 ∧ s.mlFell.counter .mirrorLinkLost = s.counter .mirrorLinkLost := by
  generalize hu : ({ s with mirror := { s.mirror with up := false, sending := none, waiting := none } } : State) = u
  have same (k : Counter) : u.counter k = s.counter k := by subst hu; rfl
  have fell : s.mlFell = (((u.raise .linkDown).bump .mlLinkDown).bumpIf s.mirror.sending.isSome .mlTransmitAborted).bumpIf
      s.mirror.waiting.isSome .unsent := by subst hu; rfl
  rw [fell]
  refine ⟨by simp [← hu],
    by rw [State_bumpIf_loop, State_bumpIf_loop, State_bump_loop, raise_loop rfl, ← hu], ?_, ?_, ?_⟩
  · have pending : (u.raise .linkDown).isPending .mirrorLinkLost = s.isPending .mirrorLinkLost := by
      rw [isPending_raise rfl, ← hu]
      exact Bool.or_false _
    simpa [State.isPending] using pending
  · simp [State.counted, counter_bumpIf, counter_bump, counter_raise, same]
  · simp [counter_bumpIf, counter_bump, counter_raise, same]

/-- In OPEN and CLOSED the fall of the mirror link loses it (R147, R152). -/
theorem mlLinkDown_loses (up : s.mirror.up = true) (applies : s.loop.state.applies = true) :
    exec .mlLinkDown s = .next s.mlFell.loseMirror := by
  have loop : s.mlFell.loop.state.applies = true := by rw [(mlFell_spec s).2.1, applies]
  show execMlLinkDown s = _
  unfold execMlLinkDown
  rw [if_pos up]
  exact congrArg _ (if_pos loop)

end

/-! ## Missed echoes (R150) -/

/-- The state in which a miss has been counted (R150). -/
def State.missCounted (s : State) : State :=
  State.bump { s with mirror := { s.mirror with misses := min (s.mirror.misses + 1) 64 } } .missedEchoes

section
variable (s : State)

theorem missEcho_eq : s.missEcho =
    if s.loop.state.applies = true ∧ s.params.echoMissLimit ≤ min (s.mirror.misses + 1) 64 then s.missCounted.loseMirror
    else s.missCounted := by
  unfold State.missEcho
  simp only [Bool.and_eq_true, decide_eq_true_eq]
  rfl

theorem missEcho_rests (rests : s.loop.state.applies = false) : s.missEcho = s.missCounted := by
  rw [missEcho_eq, if_neg (by simp [rests])]

/-- A miss is counted, with the consecutive misses one higher, at most at 64, whatever it leads to (R150). -/
theorem missEcho_counts : s.missEcho.mirror.misses = min (s.mirror.misses + 1) 64 ∧ s.counted s.missEcho .missedEchoes 1 := by
  have counted : s.counted s.missCounted .missedEchoes 1 := counted_bump_of rfl
  rw [missEcho_eq]
  split
  · refine ⟨congrArg Mirror.misses (loseMirror_slots s.missCounted), ?_⟩
    rw [State.counted, counter_loseMirror _ (by decide)]
    exact counted
  · exact ⟨rfl, counted⟩

/-- The state in which the entry that expires first has left the list (R150, log entry 14). -/
def State.echoGone (e : EchoEntry) (rest : List EchoEntry) : State :=
  { s.advanceTo e.expiry with mirror := { s.mirror with echoes := rest } }

theorem advanceTo_eq (m : Time) :
    s.advanceTo m = { s with frames := { s.frames with timebase := if hasReached s.now m = true then s.now else m } } := by
  unfold State.advanceTo; split <;> rfl

theorem echoEntryExpiry_exec {s : State} {e : EchoEntry} {rest : List EchoEntry}
    (first : takeSoonest s.now EchoEntry.expiry s.mirror.echoes = some (e, rest)) :
    exec .echoEntryExpiry s = .next (s.echoGone e rest).missEcho := by
  show execEchoEntryExpiry s = _
  unfold execEchoEntryExpiry
  rw [first]
  rfl

/-- An expired entry is missed (R150). -/
theorem echoGone_missed (e : EchoEntry) (rest : List EchoEntry) : (s.echoGone e rest).missEcho.mirror.echoes = rest
    ∧ s.counted (s.echoGone e rest).missEcho .missedEchoes 1
    ∧ (s.echoGone e rest).missEcho.mirror.misses = min (s.mirror.misses + 1) 64 := by
  obtain ⟨misses, counted⟩ := missEcho_counts (s.echoGone e rest)
  have same : (s.echoGone e rest).counter .missedEchoes = s.counter .missedEchoes := by
    unfold State.echoGone; rw [advanceTo_eq]; rfl
  refine ⟨missEcho_echoes _, ?_, misses⟩
  rwa [State.counted, same] at counted

theorem echoGone_rest (e : EchoEntry) (rest : List EchoEntry) : (s.echoGone e rest).loop = s.loop
    ∧ (s.echoGone e rest).params = s.params ∧ (s.echoGone e rest).events = s.events
    ∧ (s.echoGone e rest).counters = s.counters ∧ (s.echoGone e rest).mirror = { s.mirror with echoes := rest } := by
  unfold State.echoGone
  rw [advanceTo_eq]
  exact ⟨rfl, rfl, rfl, rfl, rfl⟩

end

/-- The loss of ML by the fall of its link, in OPEN and CLOSED (R147, R152). -/
theorem mlFell_loses {s : State} (applies : s.loop.state.applies = true) (clear : s.isPending .mirrorLinkLost = false) :
    s.mlFell.loseMirror.mirror.up = false ∧ s.mlFell.loseMirror.mirror.sending = none
    ∧ s.mlFell.loseMirror.mirror.waiting = none ∧ s.counted s.mlFell.loseMirror .mlLinkDown 1
    ∧ s.mlFell.loseMirror.isPending .mirrorLinkLost = true ∧ s.counted s.mlFell.loseMirror .mirrorLinkLost 1
    ∧ s.mlFell.loseMirror.loop.state = .safe := by
  obtain ⟨mirror, loop, pending, fallCounted, lostSame⟩ := mlFell_spec s
  have unlatched := pending.trans clear
  obtain ⟨latched, counted, safe⟩ := loseMirror_spec unlatched (by rwa [loop])
  have slots : { s.mlFell.loseMirror.mirror with shapeNumber := s.mirror.shapeNumber }
      = { s.mirror with up := false, sending := none, waiting := none } := by
    have same : s.mlFell.mirrorLost.mirror = s.mlFell.mirror := State_raise_mirror _ _
    have kept := enterSafe_down .mirrorLinkLost (s := s.mlFell.mirrorLost) (by rw [same, mirror])
    rwa [← loseMirror_eq unlatched, same, mirror] at kept
  have up := congrArg Mirror.up slots
  have sending := congrArg Mirror.sending slots
  have waiting := congrArg Mirror.waiting slots
  refine ⟨up, sending, waiting, ?_, latched, ?_, safe⟩
  · rw [State.counted, counter_loseMirror _ (by decide)]
    exact fallCounted
  · rwa [State.counted, lostSame] at counted

/-- In OPEN and CLOSED a miss loses ML where the consecutive misses reach their limit, and only there (R150, R152). -/
theorem missEcho_loses {s : State} (applies : s.loop.state.applies = true) (clear : s.isPending .mirrorLinkLost = false) :
    if s.params.echoMissLimit ≤ min (s.mirror.misses + 1) 64 then
      s.missEcho.isPending .mirrorLinkLost = true ∧ s.counted s.missEcho .mirrorLinkLost 1 ∧ s.missEcho.loop.state = .safe
    else s.missEcho.loop.state = s.loop.state ∧ s.missEcho.counter .mirrorLinkLost = s.counter .mirrorLinkLost := by
  have lost : s.missCounted.counter .mirrorLinkLost = s.counter .mirrorLinkLost := (counter_bump _ _ _).trans (if_neg (by decide))
  rw [missEcho_eq]
  split
  · next reaches =>
    rw [if_pos ⟨applies, reaches⟩]
    obtain ⟨latched, counted, safe⟩ := loseMirror_spec (s := s.missCounted) clear applies
    exact ⟨latched, by rwa [State.counted, lost] at counted, safe⟩
  · next below =>
    rw [if_neg fun both => below both.2]
    exact ⟨rfl, lost⟩

/-- Settles O35, by the fall of the link and by a missed echo. -/
theorem mirrorLossEntersSafe : Obligations.MirrorLossEntersSafe := by
  refine fun s applies clear => ⟨fun up => ⟨_, mlLinkDown_loses up applies, mlFell_loses applies clear⟩,
    fun e rest first => ?_⟩
  obtain ⟨echoes, counted, misses⟩ := echoGone_missed s e rest
  obtain ⟨loop, params, events, counters, mirror⟩ := echoGone_rest s e rest
  have unlatched : (s.echoGone e rest).isPending .mirrorLinkLost = false := by
    unfold State.isPending at clear ⊢
    rwa [events]
  have loses := missEcho_loses (s := s.echoGone e rest) (by rwa [loop]) unlatched
  rw [State.counted, params, loop, mirror, counter_congr counters] at loses
  exact ⟨_, echoEntryExpiry_exec first, echoes, counted, misses, loses⟩

/-! ## The timers of the Loop Supervisor (R143, R145) -/

section
variable {s : State} {u : Time}

theorem parkRefreshExpiry_exec (safe : s.loop.state = .safe) (started : s.loop.parkRefresh = some u) :
    exec .parkRefreshExpiry s = .next (s.advanceTo (after u 10000)).refreshPark := by
  show execParkRefreshExpiry s = _
  unfold execParkRefreshExpiry State.parkMoment?
  rw [if_pos safe, started]
  rfl

theorem starvationExpiry_exec (applies : s.loop.state.applies = true) (started : s.loop.starvation = some u) :
    exec .starvationExpiry s = .next (s.advanceTo (after u (1000 * s.params.starvationInterval))).starve := by
  show execStarvationExpiry s = _
  unfold execStarvationExpiry State.starvationMoment?
  rw [if_pos applies, started]
  rfl

theorem parkRefreshExpiry_idle (idle : s.loop.state ≠ .safe ∨ s.loop.parkRefresh = none) :
    exec .parkRefreshExpiry s = .next s := by
  have noMoment : s.parkMoment? = none := by
    unfold State.parkMoment?
    rcases idle with outside | stopped
    · exact if_neg outside
    · rw [stopped]; exact ite_self _
  show execParkRefreshExpiry s = _
  unfold execParkRefreshExpiry
  rw [noMoment]

theorem starvationExpiry_idle (idle : s.loop.state.applies = false ∨ s.loop.starvation = none) :
    exec .starvationExpiry s = .next s := by
  have noMoment : s.starvationMoment? = none := by
    unfold State.starvationMoment?
    rcases idle with outside | stopped
    · rw [outside]; rfl
    · rw [stopped]; exact ite_self _
  show execStarvationExpiry s = _
  unfold execStarvationExpiry
  rw [noMoment]

end

section
variable (s : State)

/-- A park refresh: the SHAPE frame of the parks, and the timer started anew (R145, R149). -/
theorem refreshPark_spec : s.refreshPark.now = s.now ∧ s.refreshPark.mirror.shapeNumber = s.mirror.shapeNumber + 1
    ∧ s.refreshPark.loop = { s.loop with parkRefresh := some s.now }
    ∧ (∀ j, j < s.params.actuators → s.refreshPark.tables.lastOutputs.get j = (s.actuator j).park)
    ∧ (s.mirror.up = true → s.mirror.sending = none → s.refreshPark.mirror.sending = some s.nextShape) := by
  have now : s.buildShape.now = s.now := congrArg FrameUnit.timebase (State_buildShape_frames s)
  refine ⟨now, (buildShape_slots s).2, ?_, fun j inFrame => buildShape_lastOutputs s inFrame, buildShape_sending s⟩
  show { s.buildShape.loop with parkRefresh := some s.buildShape.now } = _
  rw [State_buildShape_loop, now]

/-- The state as starvation finds it, HELD with its timer stopped (R143). -/
def State.starved : State := { s with loop := { s.loop with state := .held, starvation := none } }

theorem starve_eq : s.starve = ((s.starved.raise .starvationHold).bump .starvationHolds).drainActuator none := rfl

/-- Starvation makes the loop HELD and drains; SAFE_OUT, Poke Engine and mirror link are left alone (R143). -/
theorem starve_spec : s.starve.now = s.now ∧ s.starve.loop = { s.loop with state := .held, starvation := none }
    ∧ s.counted s.starve .starvationHolds 1 ∧ s.raised s.starve .starvationHold ∧ s.starve.mgmt.actuatorQueue = []
    ∧ s.starve.safeOut = s.safeOut ∧ s.starve.poke = s.poke ∧ s.starve.mirror = s.mirror := by
  rw [starve_eq]
  refine ⟨?_, ?_, ?_, raised_of_raise (u := s.starved) rfl ?_ ?_, ?_, ?_, ?_, ?_⟩
  · rw [State_drainActuator_now]; simp [State.now, State.starved]
  · rw [State_drainActuator_loop, State_bump_loop, raise_loop rfl]; rfl
  · rw [State.counted, counter_drainActuator _ _ (by decide)]
    exact counted_bump_of (counter_raise s.starved _ (by decide) (by decide) (by decide))
  · simp
  · rw [counter_drainActuator _ _ (by decide), counter_bump, if_neg (by decide)]
  all_goals simp [State.starved]

end

/-- Settles O36, timer by timer. -/
theorem parkRefreshAndStarvationTimers : Obligations.ParkRefreshAndStarvationTimers := by
  refine fun s => ⟨fun u safe started => ?_, fun u applies started => ?_, parkRefreshExpiry_idle, starvationExpiry_idle⟩
  · obtain ⟨now, number, loop, parks, sending⟩ := refreshPark_spec (s.advanceTo (after u 10000))
    refine ⟨_, parkRefreshExpiry_exec safe started, now.trans (advanceTo_now _ _), ?_⟩
    rw [now, loop]
    rw [advanceTo_eq] at number parks sending ⊢
    exact ⟨number, rfl, safe, parks, sending⟩
  · obtain ⟨now, loop, counted, raised, queue, safeOut, poke, mirror⟩ :=
      starve_spec (s.advanceTo (after u (1000 * s.params.starvationInterval)))
    refine ⟨_, starvationExpiry_exec applies started, now.trans (advanceTo_now _ _), ?_⟩
    rw [loop]
    rw [advanceTo_eq] at counted raised queue safeOut poke mirror ⊢
    exact ⟨rfl, rfl, counted, raised, queue, safeOut, rfl, poke, mirror⟩

/-! ## The end of a send on ML (R147, R150) -/

section
variable {s : State} (f : MlFrame)

/-- The entry that a frame sent to its end makes (R150). -/
def State.entryOf (s : State) (f : MlFrame) : EchoEntry := ⟨f.kind, f.number, after s.now s.params.echoTimeout⟩

theorem joinEchoes_room (room : s.mirror.echoes.length < 4) :
    s.joinEchoes f = { s with mirror := { s.mirror with echoes := s.mirror.echoes ++ [s.entryOf f] } } := by
  unfold State.joinEchoes
  rw [if_neg (show ¬ Config.echoCapacity ≤ s.mirror.echoes.length from Nat.not_le.mpr room)]
  rfl

/-- Where no frame is applied a full list loses its oldest entry as a miss (R150). -/
theorem joinEchoes_full (full : ¬ s.mirror.echoes.length < 4) (rests : s.loop.state.applies = false) : s.joinEchoes f
    = State.bump { s with mirror := { s.mirror with
        misses := min (s.mirror.misses + 1) 64, echoes := s.mirror.echoes.drop 1 ++ [s.entryOf f] } } .missedEchoes := by
  have missed := missEcho_rests { s with mirror := { s.mirror with echoes := s.mirror.echoes.drop 1 } } rests
  unfold State.joinEchoes
  rw [if_pos (show Config.echoCapacity ≤ s.mirror.echoes.length from Nat.not_lt.mp full), missed]
  rfl

theorem joinEchoes_spec (quiet : s.mirror.echoes.length < 4 ∨ s.loop.state.applies = false) :
    (s.joinEchoes f).mirror.waiting = s.mirror.waiting
    ∧ (s.joinEchoes f).mirror.echoes = (if s.mirror.echoes.length < 4 then s.mirror.echoes else s.mirror.echoes.drop 1)
        ++ [s.entryOf f]
    ∧ s.countedIf (s.joinEchoes f) (4 ≤ s.mirror.echoes.length) .missedEchoes
    ∧ ∀ k, k ≠ .missedEchoes → (s.joinEchoes f).counter k = s.counter k := by
  by_cases room : s.mirror.echoes.length < 4
  · rw [joinEchoes_room f room, if_pos room, decide_eq_false (Nat.not_le.mpr room)]
    exact ⟨rfl, rfl, rfl, fun _ _ => rfl⟩
  · rw [joinEchoes_full f room (quiet.resolve_left room), if_neg room, decide_eq_true (Nat.not_lt.mp room)]
    exact ⟨rfl, rfl, counted_bump_of rfl, fun k other => (counter_bump _ _ _).trans (if_neg other)⟩

theorem counter_promoteWaiting (s : State) (k : Counter) : s.promoteWaiting.counter k = s.counter k := rfl

/-- The state in which a frame sent to its end has made its entry, if it makes one (R150, R151, R155). -/
def State.entryMade (s : State) (f : MlFrame) : State := if (f.makesEntry && s.isTail) = true then s.joinEchoes f else s

theorem mlSendEnd_exec (sending : s.mirror.sending = some f) :
    exec .mlSendEnd s = .next ((s.entryMade f).bump f.kind.sentCounter).promoteWaiting := by
  show execMlSendEnd s = _
  unfold execMlSendEnd
  rw [sending]
  rfl

theorem entryMade_spec (quiet : s.mirror.echoes.length < 4 ∨ f.makesEntry = false ∨ s.loop.state.applies = false
      ∨ s.isTail = false) :
    (s.entryMade f).mirror.waiting = s.mirror.waiting
    ∧ (s.entryMade f).mirror.echoes = (if f.makesEntry = true ∧ s.isTail = true then
        (if s.mirror.echoes.length < 4 then s.mirror.echoes else s.mirror.echoes.drop 1) ++ [s.entryOf f] else s.mirror.echoes)
    ∧ s.countedIf (s.entryMade f) (f.makesEntry && s.isTail && 4 ≤ s.mirror.echoes.length) .missedEchoes
    ∧ ∀ k, k ≠ .missedEchoes → (s.entryMade f).counter k = s.counter k := by
  unfold State.entryMade
  by_cases makes : f.makesEntry = true ∧ s.isTail = true
  · obtain ⟨entry, tail⟩ := makes
    simp only [entry, tail, Bool.and_self, Bool.true_and, and_self, if_true]
    exact joinEchoes_spec f (by simpa [entry, tail] using quiet)
  · have noEntry : (f.makesEntry && s.isTail) = false := by simpa using makes
    rw [noEntry, if_neg (by simp), if_neg makes]
    exact ⟨rfl, rfl, rfl, fun _ _ => rfl⟩

end

/-- Settles O37, by the entry that a frame makes and by the three states in which a frame is handed over. -/
theorem mirrorSendsAndHandovers : Obligations.MirrorSendsAndHandovers := by
  refine ⟨fun s f sending quiet => ?_, fun s f => ⟨handToMirror_sent f, fun up busy => ?_, fun down => ?_⟩⟩
  · obtain ⟨waiting, echoes, missed, counters⟩ := entryMade_spec f quiet
    refine ⟨_, mlSendEnd_exec f sending, waiting, rfl, ?_, ?_, echoes, ?_⟩
    all_goals rw [State.countedIf, counter_promoteWaiting, counter_bump]
    · cases f.kind <;> simp [MlKind.sentCounter, counters]
    · cases f.kind <;> simp [MlKind.sentCounter, counters]
    · rw [if_neg (by cases f.kind <;> decide)]
      exact missed
  · rw [handToMirror_waits f up busy]
    refine ⟨rfl, ?_⟩
    show (s.bumpIf s.mirror.waiting.isSome .superseded).counter .superseded = _
    rw [counter_bumpIf]
    simp
  · rw [handToMirror_down f down]
    exact ⟨rfl, counted_bump s .unsent⟩

/-! ## Echoes (R151) -/

/-- Where some element satisfies `p`, the first one that does is dropped. -/
theorem dropFirst_split {α : Type} {p : α → Bool} {xs : List α} (hits : xs.any p = true) :
    ∃ pre post e, xs = pre ++ e :: post ∧ p e = true ∧ (∀ x ∈ pre, p x = false) ∧ dropFirst p xs = pre ++ post := by
  induction xs with
  | nil => cases hits
  | cons x xs ih =>
    cases hit : p x with
    | true => exact ⟨[], xs, x, rfl, hit, by simp, by simp [dropFirst, hit]⟩
    | false =>
      obtain ⟨pre, post, e, parts, answers, others, dropped⟩ := ih (by simpa [hit] using hits)
      refine ⟨x :: pre, post, e, by rw [parts]; rfl, answers, ?_, by simp [dropFirst, hit, dropped]⟩
      intro y hy
      rcases List.mem_cons.mp hy with rfl | mem
      · exact hit
      · exact others y mem

/-- An entry answers to the kind and number that an echo names (R151, R201). -/
def EchoEntry.hitBy (f : List Byte) (e : EchoEntry) : Bool := e.answersTo (fieldAt f 4 1) (BitVec.ofNat 16 (fieldAt f 2 2))

section
variable {s : State} {f : List Byte}

/-- The state in which the entry that an echo answers has left the list (R151). -/
def State.echoTaken (s : State) (f : List Byte) : State :=
  { s with mirror := { s.mirror with echoes := dropFirst (EchoEntry.hitBy f) s.mirror.echoes } }

theorem echo_eq (s : State) (f : List Byte) : s.echo f =
    if echoHolds f = false then s.bump .echoErrors
    else if ∀ e ∈ s.mirror.echoes, e.hitBy f = false then s.bump .unknownEchoes
    else (s.echoTaken f).matchedEcho (fieldAt f 5 1) := by
  unfold State.echo
  simp only [Bool.not_eq_true', List.any_eq_false, Bool.not_eq_true]
  rfl

/-- A fault code is kept as the last driver status, counted, and latched; what else the mirror link holds is left alone but for
its slots and the shape number (R151). -/
theorem driverFault_spec (s : State) (code : Nat) : { (s.driverFault code).mirror with
        sending := s.mirror.sending, waiting := s.mirror.waiting, shapeNumber := s.mirror.shapeNumber }
      = { s.mirror with lastDriverStatus := some code }
    ∧ s.counted (s.driverFault code) .driverFaults 1 ∧ (s.driverFault code).isPending .driverFault = true
    ∧ (s.driverFault code).loop.state
      = (if s.isPending .driverFault = false ∧ s.loop.state.entersSafe = true then .safe else s.loop.state) := by
  generalize hu : State.bump { s with mirror := { s.mirror with lastDriverStatus := some code } } .driverFaults = u
  have mirror : u.mirror = { s.mirror with lastDriverStatus := some code } := by subst hu; rfl
  have counted : s.counted u .driverFaults 1 := by subst hu; exact counted_bump_of rfl
  have loop : u.loop = s.loop := by subst hu; rfl
  have pending : u.isPending .driverFault = s.isPending .driverFault := by subst hu; rfl
  have fault : s.driverFault code = if s.isPending .driverFault = true then u
      else (u.raise .driverFault).enterSafe (.driverFault code) := by
    rw [← pending]; subst hu; rfl
  rw [fault]
  split
  · next latched =>
    exact ⟨by rw [mirror], counted, pending.trans latched, by rw [latched, loop]; rfl⟩
  · next clear =>
    have state : (u.raise .driverFault).loop.state = s.loop.state := by rw [State_loop_state_raise, loop]
    refine ⟨?_, ?_, (enterSafe_sparesReads _ _).latched _ rfl ((raise_raised u .driverFault).2 rfl), ?_⟩
    · have slots := enterSafe_slots (.driverFault code) (u.raise .driverFault)
      rwa [State_raise_mirror, mirror] at slots
    · rw [State.counted, counter_enterSafe _ (by decide), counter_raise _ _ (by decide) (by decide) (by decide)]
      exact counted
    · rw [← state]
      cases enters : (u.raise .driverFault).loop.state.entersSafe with
      | false => rw [enterSafe_rests _ enters]; simp
      | true => rw [enterSafe_loop _ enters]; simp [clear]

end

section
variable {s : State} {f : List Byte}

theorem echoReceived_exec (up : s.mirror.up = true) : exec (.echoReceived f) s = .next (s.echo f) := by
  show execEchoReceived f s = _
  unfold execEchoReceived
  rw [if_pos up]

/-- An OK echo ends the misses and is counted (R151). -/
theorem matchedEcho_ok (s : State) : (s.matchedEcho 0).mirror = { s.mirror with misses := 0 }
    ∧ s.counted (s.matchedEcho 0) .echoesOk 1 ∧ (s.matchedEcho 0).loop = s.loop :=
  ⟨rfl, counted_bump_of rfl, rfl⟩

theorem matchedEcho_fault (s : State) {status : Nat} (fault : status ≠ 0) : s.matchedEcho status = s.driverFault status :=
  if_neg fault

/-- A matched echo removes no more than the entry that it answers, and does what its status says (R151). -/
theorem matchedEcho_spec (s : State) (status : Nat) : (s.matchedEcho status).mirror.echoes = s.mirror.echoes
    ∧ (if status = 0 then (s.matchedEcho status).mirror.misses = 0 ∧ s.counted (s.matchedEcho status) .echoesOk 1
        ∧ (s.matchedEcho status).loop = s.loop
      else (s.matchedEcho status).mirror.lastDriverStatus = some status ∧ s.counted (s.matchedEcho status) .driverFaults 1
        ∧ (s.matchedEcho status).isPending .driverFault = true ∧ (s.matchedEcho status).mirror.misses = s.mirror.misses
        ∧ (s.matchedEcho status).loop.state
          = (if s.isPending .driverFault = false ∧ s.loop.state.entersSafe = true then .safe else s.loop.state)) := by
  split
  · next ok =>
    subst ok
    obtain ⟨mirror, counted, loop⟩ := matchedEcho_ok s
    rw [mirror]
    exact ⟨rfl, rfl, counted, loop⟩
  · next fault =>
    obtain ⟨slots, counted, latched, state⟩ := driverFault_spec s status
    have echoes := congrArg Mirror.echoes slots
    have driver := congrArg Mirror.lastDriverStatus slots
    have misses := congrArg Mirror.misses slots
    rw [matchedEcho_fault s fault]
    exact ⟨echoes, driver, counted, latched, misses, state⟩

end

/-- Settles O38, case by case. -/
theorem echoTakesTheFirstCase : Obligations.EchoTakesTheFirstCase := by
  refine fun s => ⟨fun up f => ⟨_, echoReceived_exec up, ?_⟩, fun rests e rest first => ?_⟩
  · split
    · next damaged =>
      rw [echo_eq, if_pos damaged]
      exact ⟨counted_bump s .echoErrors, rfl, rfl⟩
    · next whole =>
      split
      · next unknown =>
        rw [echo_eq, if_neg whole, if_pos (show ∀ e ∈ s.mirror.echoes, e.hitBy f = false from unknown)]
        exact ⟨counted_bump s .unknownEchoes, rfl, rfl⟩
      · next unknown =>
        have known : s.mirror.echoes.any (EchoEntry.hitBy f) = true := by
          simpa only [List.any_eq_true, not_forall, exists_prop, Bool.not_eq_false, EchoEntry.hitBy] using unknown
        obtain ⟨pre, post, e, parts, answers, others, dropped⟩ := dropFirst_split known
        obtain ⟨echoes, byStatus⟩ := matchedEcho_spec (s.echoTaken f) (fieldAt f 5 1)
        have left : ((s.echoTaken f).matchedEcho (fieldAt f 5 1)).mirror.echoes = pre ++ post := echoes.trans dropped
        rw [echo_eq, if_neg whole, if_neg (show ¬∀ e ∈ s.mirror.echoes, e.hitBy f = false from unknown)]
        refine ⟨?_, ⟨pre, post, e, parts, answers, others, left⟩, byStatus⟩
        rw [left, parts]
        simp [Nat.add_assoc]
  · obtain ⟨echoes, counted, misses⟩ := echoGone_missed s e rest
    obtain ⟨loop, -⟩ := echoGone_rest s e rest
    refine ⟨_, echoEntryExpiry_exec first, echoes, counted, misses, ?_⟩
    rw [missEcho_rests _ (by rwa [loop])]
    exact loop

/-! ## The requests of the loop (R112, R136 to R138) -/

/-- The conditions of LOOP OPEN and LOOP CLOSE, one by one (R136). -/
theorem loopReady_iff (s : State) : s.loopReady = true ↔ ((s.bank .zero).state = .live ∨ (s.bank .one).state = .live)
    ∧ 0 < s.params.actuators ∧ s.mirror.up = true ∧ s.isPending .mirrorLinkLost = false
    ∧ s.isPending .driverFault = false ∧ s.mirror.misses < s.params.echoMissLimit := by
  have live : s.liveBank?.isSome = true ↔ (s.bank .zero).state = .live ∨ (s.bank .one).state = .live := by
    unfold State.liveBank?
    split
    · next zero => simp [zero]
    · next other =>
      split
      · next one => simp [one]
      · next rests => simp [other, rests]
  unfold State.loopReady
  simp only [Bool.and_eq_true, live, decide_eq_true_eq, Bool.not_eq_true', and_assoc]

section
variable (s : State)

theorem counter_withTables (t : Tables) (k : Counter) : ({ s with tables := t } : State).counter k = s.counter k := rfl

/-- A load of the integrator states leaves every other table alone. -/
theorem loadIntegrators_frame (t : Tables) (f : Nat → Int) : { t.loadIntegrators f with integrators := t.integrators } = t := by
  unfold Tables.loadIntegrators
  generalize Table.build Config.maxActuators f = loaded
  rfl

theorem counter_accepted {k : Counter} (other : k ≠ .requestsAccepted) : s.accepted.counter k = s.counter k :=
  (counter_bump s.dequeue _ k).trans (if_neg other)

/-- A refused request leaves the loop and the tables alone (R183). -/
theorem refuse_loop (r : Request) (st : Status) :
    (s.dequeue.refuse r st).loop = s.loop ∧ (s.dequeue.refuse r st).tables = s.tables := by
  simp [State.refuse]

theorem leaveRunning_loop (l : LoopState) : (s.leaveRunning l).loop = { s.loop with state := l, starvation := none } := by
  unfold State.leaveRunning
  dsimp only
  split
  · rw [State_drainActuator_loop]
  · rfl

theorem leaveRunning_poke (l : LoopState) : (s.leaveRunning l).poke = s.poke := by
  unfold State.leaveRunning
  dsimp only
  split
  · rw [State_drainActuator_poke]
  · rfl

theorem counter_leaveRunning (l : LoopState) {k : Counter} (other : k ∉ [.limitClamps, .stagedDrained, .controlOverflow]) :
    (s.leaveRunning l).counter k = s.counter k := by
  unfold State.leaveRunning
  dsimp only
  split
  · exact counter_drainActuator _ _ other
  · rfl

variable {s}

/-- On leaving OPEN or CLOSED the actuator-side queue drains (R119, R138). -/
theorem leaveRunning_drains (l : LoopState) (applies : s.loop.state.applies = true) :
    (s.leaveRunning l).mgmt.actuatorQueue = [] := by
  unfold State.leaveRunning
  dsimp only
  rw [if_pos applies, State_drainActuator_actuatorQueue]

/-- Where nothing drains, only the Loop Supervisor changes. -/
theorem leaveRunning_quiet (l : LoopState) (quiet : s.loop.state.applies = false ∨ s.mgmt.actuatorQueue = []) :
    s.leaveRunning l = { s with loop := { s.loop with state := l, starvation := none } } := by
  unfold State.leaveRunning
  dsimp only
  split
  · next applies => exact drainActuator_nil _ _ (quiet.resolve_left (by simp [applies]))
  · rfl

variable {r : Request}

theorem loopOff_exec (oldest : s.oldest? .loopOff = some r) (tail : s.isTail = true) (empty : r.body = []) :
    exec .loopOff s = .next (if s.loop.state.entersSafe = true then (s.accepted.abortPoke.leaveRunning .off).done r []
      else s.dequeue.refuse r .wrongState) :=
  congrArg Host.Outcome.next (serve_atTail (g := fun t => (t.abortPoke.leaveRunning .off).done r [])
    oldest tail empty rfl)

theorem loopOpen_exec (oldest : s.oldest? .loopOpen = some r) (tail : s.isTail = true) (empty : r.body = []) :
    exec .loopOpen s = .next (if (s.loop.state.opens && s.loopReady) = true then (s.accepted.enterRunning .opened).done r []
      else s.dequeue.refuse r .wrongState) :=
  congrArg Host.Outcome.next (serve_atTail (g := fun t => (t.enterRunning .opened).done r [])
    oldest tail empty rfl)

theorem loopHold_exec (oldest : s.oldest? .loopHold = some r) (tail : s.isTail = true) (empty : r.body = []) :
    exec .loopHold s = .next (if s.loop.state.applies = true then (s.accepted.leaveRunning .held).done r []
      else s.dequeue.refuse r .wrongState) :=
  congrArg Host.Outcome.next (serve_atTail (g := fun t => (t.leaveRunning .held).done r [])
    oldest tail empty rfl)

theorem resetIntegrators_exec (oldest : s.oldest? .resetIntegrators = some r) (tail : s.isTail = true) (empty : r.body = []) :
    exec .resetIntegrators s = .next (if s.loop.state.resetsIntegrators = true then
        (State.bump { s.accepted with tables := s.tables.parkIntegrators } .integratorResets).done r []
      else s.dequeue.refuse r .wrongState) :=
  congrArg Host.Outcome.next (serve_atTail
    (g := fun t => (State.bump { t with tables := t.tables.parkIntegrators } .integratorResets).done r []) oldest tail empty rfl)

/-! ### LOOP OFF (R138, R161) -/

theorem loopOff_spec (oldest : s.oldest? .loopOff = some r) (tail : s.isTail = true) (empty : r.body = []) :
    ∃ t, exec .loopOff s = .next t ∧
      (if s.loop.state = .opened ∨ s.loop.state = .closed ∨ s.loop.state = .held then
        t.loop.state = .off ∧ t.loop.starvation = none ∧ t.poke = none ∧ s.countedIf t s.poke.isSome .sequencesAborted
        ∧ (s.loop.state ≠ .held → t.mgmt.actuatorQueue = [])
        ∧ (s.poke = none → s.loop.state = .held ∨ s.mgmt.actuatorQueue = [] → s.answered t r .done none [])
      else s.answered t r .wrongState none [] ∧ t.loop = s.loop ∧ t.tables = s.tables) := by
  have enters : s.loop.state.entersSafe = true
      ↔ s.loop.state = .opened ∨ s.loop.state = .closed ∨ s.loop.state = .held := by
    cases s.loop.state <;> decide
  refine ⟨_, loopOff_exec oldest tail empty, ?_⟩
  split
  · next running =>
    rw [if_pos (enters.mpr running), State.done, State_respond_loop, leaveRunning_loop, State_respond_poke, leaveRunning_poke,
      State_respond_mgmt]
    refine ⟨rfl, rfl, State_abortPoke_poke _, ?_, fun left => leaveRunning_drains _ ?_, fun idle quiet => ?_⟩
    · rw [State.countedIf, counter_respond _ _ _ _ _ (by decide), counter_leaveRunning _ _ (by decide)]
      rw [← counter_accepted s (by decide)]
      exact abortPoke_counted s.accepted
    · rw [State_abortPoke_loop]
      exact (applies_iff _).mpr (running.imp_right fun h => h.resolve_right left)
    · rw [abortPoke_idle s.accepted idle, leaveRunning_quiet (s := s.accepted) .off (quiet.imp_left fun held => ?_)]
      · exact done_answered r [] rfl rfl rfl
      · show s.loop.state.applies = false
        rw [held]; rfl
  · next outside =>
    rw [if_neg fun h => outside (enters.mp h)]
    exact ⟨(refuse_answered s r .wrongState).1, refuse_loop s r .wrongState⟩

/-! ### LOOP OPEN and LOOP CLOSE (R110, R136, R137) -/

theorem loopOpen_spec (oldest : s.oldest? .loopOpen = some r) (tail : s.isTail = true) (empty : r.body = []) :
    ∃ t, exec .loopOpen s = .next t ∧ t.tables = s.tables ∧
      (if (s.loop.state = .off ∨ s.loop.state = .closed ∨ s.loop.state = .held) ∧ s.loopReady = true then
        s.answered t r .done none [] ∧ t.loop.state = .opened ∧ t.loop.starvation = some s.now
      else s.answered t r .wrongState none [] ∧ t.loop = s.loop) := by
  have opens : (s.loop.state.opens && s.loopReady) = true
      ↔ (s.loop.state = .off ∨ s.loop.state = .closed ∨ s.loop.state = .held) ∧ s.loopReady = true := by
    rw [Bool.and_eq_true]
    exact and_congr_left' (by cases s.loop.state <;> decide)
  refine ⟨_, loopOpen_exec oldest tail empty, ?_⟩
  by_cases accepted : (s.loop.state = .off ∨ s.loop.state = .closed ∨ s.loop.state = .held) ∧ s.loopReady = true
  · rw [if_pos accepted, if_pos (opens.mpr accepted), State.done, State_respond_tables, State_respond_loop]
    exact ⟨rfl, done_answered r [] rfl rfl rfl, rfl, rfl⟩
  · rw [if_neg accepted, if_neg fun h => accepted (opens.mp h)]
    obtain ⟨loop, tables⟩ := refuse_loop s r .wrongState
    exact ⟨tables, (refuse_answered s r .wrongState).1, loop⟩

theorem bumpless_get (t : Tables) {j : Nat} (inTable : j < Config.maxActuators) : t.bumpless.integrators.get j =
    clampInt (t.actuators.get j).lo (t.actuators.get j).hi (t.openShape.get j) * 65536 := by
  unfold Tables.bumpless Tables.loadIntegrators
  rw [Table_get_build, if_pos inTable]
  rfl

theorem closedLoop_tables (s : State) :
    s.closedLoop.tables = if s.loop.state = .opened then s.tables.bumpless else s.tables := by
  show s.accepted.loadFromOpen.tables = _
  split
  · next opened => rw [loadFromOpen_opened (s := s.accepted) opened]; rfl
  · next rests => rw [loadFromOpen_rests (s := s.accepted) rests]; rfl

/-- A bumpless load is counted where the loop closes from OPEN (R110, R137). -/
theorem closedLoop_counted (s : State) : s.countedIf s.closedLoop (s.loop.state == .opened) .bumplessLoads := by
  have same := counter_accepted s (k := .bumplessLoads) (by decide)
  unfold State.countedIf
  rw [← same]
  show s.accepted.loadFromOpen.counter .bumplessLoads = _
  by_cases opened : s.loop.state = .opened
  · rw [loadFromOpen_opened (s := s.accepted) opened, counter_bump, if_pos rfl, if_pos (by rw [opened]; rfl),
      counter_withTables]
  · rw [loadFromOpen_rests (s := s.accepted) opened, if_neg (by simpa using opened)]

theorem closedLoop_answers (s : State) (r : Request) : s.answered (s.closedLoop.done r []) r .done none [] := by
  have kept : s.accepted.loadFromOpen.mgmt = s.dequeue.mgmt ∧ s.accepted.loadFromOpen.trunk = s.trunk
      ∧ s.accepted.loadFromOpen.nodeNumber = s.nodeNumber := by
    by_cases opened : s.accepted.loop.state = .opened
    · rw [loadFromOpen_opened opened]; exact ⟨rfl, rfl, rfl⟩
    · rw [loadFromOpen_rests opened]; exact ⟨rfl, rfl, rfl⟩
  obtain ⟨mgmt, trunk, node⟩ := kept
  exact done_answered r [] mgmt trunk node

theorem loopClose_spec (oldest : s.oldest? .loopClose = some r) (tail : s.isTail = true) (empty : r.body = []) :
    ∃ t, exec .loopClose s = .next t ∧
      (if (s.loop.state = .opened ∨ s.loop.state = .held) ∧ s.loopReady = true then
        s.answered t r .done none [] ∧ t.loop.state = .closed ∧ t.loop.badFrames = 0 ∧ t.loop.satRun = 0
        ∧ t.loop.starvation = some s.now ∧ s.countedIf t (s.loop.state == .opened) .bumplessLoads
        ∧ { t.tables with integrators := s.tables.integrators } = s.tables
        ∧ (s.loop.state = .held → t.tables = s.tables)
        ∧ (s.loop.state = .opened → ∀ j, j < 6144 → t.tables.integrators.get j =
            clampInt (s.actuator j).lo (s.actuator j).hi (s.tables.openShape.get j) * 65536)
      else s.answered t r .wrongState none [] ∧ t.loop = s.loop ∧ t.tables = s.tables) := by
  have closes : (s.loop.state.closes && s.loopReady) = true
      ↔ (s.loop.state = .opened ∨ s.loop.state = .held) ∧ s.loopReady = true := by
    rw [Bool.and_eq_true, closes_iff]
  refine ⟨_, loopClose_exec oldest tail empty, ?_⟩
  split
  · next accepted =>
    rw [if_pos (closes.mpr accepted)]
    refine ⟨closedLoop_answers s r, ?_⟩
    rw [State.done, State_respond_loop, State_respond_tables, closedLoop_loop, closedLoop_tables, State.countedIf,
      counter_respond _ _ _ _ _ (by decide)]
    refine ⟨rfl, rfl, rfl, rfl, closedLoop_counted s, ?_, fun held => if_neg (by simp [held]), fun opened j inTable => ?_⟩
    · split
      · exact loadIntegrators_frame s.tables _
      · rfl
    · rw [if_pos opened]
      exact bumpless_get s.tables inTable
  · next outside =>
    rw [if_neg fun h => outside (closes.mp h)]
    exact ⟨(refuse_answered s r .wrongState).1, refuse_loop s r .wrongState⟩

/-! ### LOOP HOLD and RESET INTEGRATORS (R112, R138) -/

theorem loopHold_spec (oldest : s.oldest? .loopHold = some r) (tail : s.isTail = true) (empty : r.body = []) :
    ∃ t, exec .loopHold s = .next t ∧
      (if s.loop.state = .opened ∨ s.loop.state = .closed then
        t.loop.state = .held ∧ t.loop.starvation = none ∧ t.poke = s.poke ∧ t.mgmt.actuatorQueue = []
        ∧ (s.mgmt.actuatorQueue = [] → s.answered t r .done none [])
      else s.answered t r .wrongState none [] ∧ t.loop = s.loop ∧ t.tables = s.tables) := by
  refine ⟨_, loopHold_exec oldest tail empty, ?_⟩
  split
  · next running =>
    have applies := (applies_iff _).mpr running
    rw [if_pos applies, State.done, State_respond_loop, leaveRunning_loop, State_respond_poke, leaveRunning_poke,
      State_respond_mgmt, leaveRunning_drains (s := s.accepted) .held applies]
    refine ⟨rfl, rfl, rfl, rfl, fun quiet => ?_⟩
    rw [leaveRunning_quiet (s := s.accepted) .held (.inr quiet)]
    exact done_answered r [] rfl rfl rfl
  · next outside =>
    rw [if_neg fun h => outside ((applies_iff _).mp h)]
    exact ⟨(refuse_answered s r .wrongState).1, refuse_loop s r .wrongState⟩

theorem resetIntegrators_spec (oldest : s.oldest? .resetIntegrators = some r) (tail : s.isTail = true) (empty : r.body = []) :
    ∃ t, exec .resetIntegrators s = .next t ∧ t.loop = s.loop ∧
      (if s.loop.state = .off ∨ s.loop.state = .opened ∨ s.loop.state = .held then
        s.answered t r .done none [] ∧ s.counted t .integratorResets 1
        ∧ { t.tables with integrators := s.tables.integrators } = s.tables
        ∧ ∀ j, j < 6144 → t.tables.integrators.get j = (s.actuator j).park * 65536
      else s.answered t r .wrongState none [] ∧ t.tables = s.tables) := by
  have resets : s.loop.state.resetsIntegrators = true
      ↔ s.loop.state = .off ∨ s.loop.state = .opened ∨ s.loop.state = .held := by
    cases s.loop.state <;> decide
  refine ⟨_, resetIntegrators_exec oldest tail empty, ?_⟩
  by_cases allowed : s.loop.state = .off ∨ s.loop.state = .opened ∨ s.loop.state = .held
  · rw [if_pos allowed, if_pos (resets.mpr allowed), State.done, State_respond_loop, State_respond_tables, State.counted,
      counter_respond _ _ _ _ _ (by decide)]
    exact ⟨rfl, done_answered r [] rfl rfl rfl,
      counted_bump_of ((counter_withTables _ _ _).trans (counter_accepted s (by decide))), loadIntegrators_frame s.tables _,
      fun j inTable => parkIntegrators_get s.tables inTable⟩
  · rw [if_neg allowed, if_neg fun h => allowed (resets.mp h)]
    obtain ⟨loop, tables⟩ := refuse_loop s r .wrongState
    exact ⟨loop, (refuse_answered s r .wrongState).1, tables⟩

end

/-- Settles O56, request by request. -/
theorem loopRequestsChangeTheLoop : Obligations.LoopRequestsChangeTheLoop := by
  intro s r ready tail empty conditions
  have ready_eq : ready = s.loopReady := Bool.eq_iff_iff.mpr (conditions.trans (loopReady_iff s).symm)
  rw [ready_eq]
  exact ⟨fun oldest => loopOff_spec oldest tail empty, fun oldest => loopOpen_spec oldest tail empty,
    fun oldest => loopClose_spec oldest tail empty, fun oldest => loopHold_spec oldest tail empty,
    fun oldest => resetIntegrators_spec oldest tail empty⟩
end Sys2Proof.Machine

/-! SUPPORT. The proofs of the statements about the Poke Engine (chapter 9): the fetch of a record and its arrival, the walk of the
chain at step 6 of an applied frame, and POKE START. -/

namespace Sys2Proof.Machine

/-! ## The fetch of a poke record (R38, R57, R58, R162) -/

/-- A burst that reads poke record `r` from its place waits in the poke-fetch queue or is in progress. -/
def Arbiter.fetchesPoke (a : Arbiter) (r : Nat) : Prop :=
  ∃ b : Burst, b.job = .pokeFetch r ∧ b.address = 469762048 + 128 * r ∧ b.length = 128
    ∧ (b ∈ a.pokeFetch ∨ a.inProgress = some b)

/-- The burst that fetches poke record `r` (R38, R162). -/
def pokeFetchBurst (r : Nat) : Burst := ⟨.pokeFetch r, pokeAddress r, 128, [], true, false⟩

/-- A poke fetch that waits when the DRAM is granted goes on waiting, or is the burst granted (R58). -/
theorem completed_pokeFetch {a : Arbiter} {b : Burst} (waits : b ∈ a.pokeFetch) :
    b ∈ a.completed.pokeFetch ∨ a.completed.inProgress = some b := by
  obtain ⟨column, poke, write, read, management, busy⟩ := a
  cases column with
  | cons x q => exact .inl waits
  | nil =>
    cases poke with
    | nil => exact absurd waits List.not_mem_nil
    | cons x q =>
      rcases List.mem_cons.mp waits with rfl | later
      · exact .inr rfl
      · exact .inl later

section
variable (s : State) (r : Nat)

theorem fetchPoke_eq : s.fetchPoke r
    = (s.setArbiter { s.arbiter with pokeFetch := s.arbiter.pokeFetch ++ [pokeFetchBurst r] }).grantDram := rfl

theorem fetchPoke_places : (s.fetchPoke r).arbiter.fetchesPoke r := by
  refine ⟨pokeFetchBurst r, rfl, rfl, rfl, ?_⟩
  rw [fetchPoke_eq, arbiter_grantDram, State_arbiter_setArbiter]
  have joined : pokeFetchBurst r ∈ s.arbiter.pokeFetch ++ [pokeFetchBurst r] :=
    List.mem_append_right _ (List.mem_singleton_self _)
  split
  · exact .inl joined
  · exact completed_pokeFetch joined

@[simp] theorem State_fetchPoke_poke : (s.fetchPoke r).poke = s.poke := State_queueBursts_poke s _

@[simp] theorem State_fetchPoke_counters : (s.fetchPoke r).counters = s.counters := State_queueBursts_counters s _

@[simp] theorem State_fetchPoke_trunk : (s.fetchPoke r).trunk = s.trunk := State_queueBursts_trunk s _

@[simp] theorem State_fetchPoke_nodeNumber : (s.fetchPoke r).nodeNumber = s.nodeNumber := State_queueBursts_nodeNumber s _

@[simp] theorem State_fetchPoke_queue : (s.fetchPoke r).mgmt.queue = s.mgmt.queue := (grantDram_held _).2

end

/-! ## The engine becomes IDLE (R159, R162) -/

theorem State_pokeIdle_poke (s : State) : s.pokeIdle.poke = none := rfl

theorem counter_pokeIdle (s : State) (k : Counter) : s.pokeIdle.counter k = s.counter k := rfl

/-- A faulted fetch ends the sequence: the engine is IDLE, the fault is counted and raised (R162). -/
theorem pokeFault_ends {s u : State} (reports : min (s.counter .eventFrames) Config.counterMax ≤ u.counter .eventFrames)
    (faults : u.counter .pokeFaults = s.counter .pokeFaults) :
    u.pokeFault.poke = none ∧ s.counted u.pokeFault .pokeFaults 1 ∧ s.raised u.pokeFault .pokeFault := by
  unfold State.pokeFault
  refine ⟨by rw [State_raise_poke, State_bump_poke, State_pokeIdle_poke], ?_, raised_later _ ?_⟩
  · rw [State.counted, counter_raise _ _ (by decide) (by decide) (by decide)]
    exact counted_bump_of ((counter_pokeIdle u _).trans faults)
  · rwa [counter_bump, if_neg (by decide), counter_pokeIdle]

theorem counter_pokeFault (s : State) {k : Counter} (other : k ∉ [.pokeFaults, .controlOverflow, .eventFrames, .triggers]) :
    s.pokeFault.counter k = s.counter k := by
  simp only [List.mem_cons, List.not_mem_nil, or_false, not_or] at other
  obtain ⟨faults, control, reports, triggers⟩ := other
  unfold State.pokeFault
  rw [counter_raise _ _ control reports triggers, counter_bump, if_neg faults, counter_pokeIdle]

theorem pokeFault_sparesReads (s : State) : s.SparesReads s.pokeFault :=
  (raise_sparesReads _ .pokeFault).after ((bump_sparesReads _ .pokeFaults).after (pokeIdle_sparesReads s))

@[simp] theorem State_pokeFault_dram (s : State) : s.pokeFault.dram = s.dram := by simp [State.pokeFault, State.pokeIdle]

/-! ## The arrival of a fetched record (R39, R162) -/

section
variable {s : State} {ks : List Strike} {b : Burst}

/-- The check of a read takes no EVENT frame back (R39, R191). -/
theorem State.ReadFrom.reports {u : State} (read : s.ReadFrom ks b u) :
    min (s.counter .eventFrames) Config.counterMax ≤ u.counter .eventFrames := by
  have own : b.job.uncorrectableCounter? ≠ some .eventFrames := fun counts => by
    obtain ⟨ofReads, -⟩ := uncorrectableCounter_ofReads counts
    cases ofReads
  obtain ⟨-, -, before⟩ := correct_counts s (areaCounter b.address) (areaCounter_ofReads _) (s.singles ks b)
  rwa [read.counters _ own, corrected_eq]

theorem pokeFetch_uncorrectable (poke : b.job.isPoke = true) : b.job.uncorrectableCounter? = some .uncorrectablePoke := by
  cases job : b.job with
  | pokeFetch r => rfl
  | _ => rw [job] at poke; cases poke

/-- The state in which a fetched record has been checked and the next burst is granted (R39, R58, log entry 22). -/
def State.fetchChecked (s : State) (ks : List Strike) (b : Burst) : State := ((s.burstEnded ks).checkRead b).grantDram

/-- The counters of the Poke Engine's faults stand as they were when a fetched record is judged. -/
theorem counter_fetchChecked (poke : b.job.isPoke = true) {k : Counter} (fault : k = .pokeFaults ∨ k = .illFormedRecords) :
    (s.fetchChecked ks b).counter k = s.counter k := by
  have own : b.job.uncorrectableCounter? ≠ some k := by
    rw [pokeFetch_uncorrectable poke]
    rcases fault with rfl | rfl <;> decide
  have spared : (s.corrected ks b).counter k = s.counter k := by
    rcases fault with rfl | rfl <;> exact counter_corrected s ks b (ne_areaCounter _) (by decide)
  exact (counter_congr (State_grantDram_counters _) k).trans (((readFrom_checkRead s ks b).counters k own).trans spared)

theorem fetchChecked_reports : min (s.counter .eventFrames) Config.counterMax ≤ (s.fetchChecked ks b).counter .eventFrames := by
  rw [State.fetchChecked, counter_congr (State_grantDram_counters _)]
  exact (readFrom_checkRead s ks b).reports

/-- What the check claims of its corrections, wherever work follows that spares them (R39). -/
theorem fetchChecked_corrects {t : State} (spared : (s.fetchChecked ks b).SparesReads t)
    (dram : t.dram = (s.fetchChecked ks b).dram) : s.corrects t ks b :=
  (readFrom_checkRead s ks b).corrects (spared.after (grantDram_sparesReads _)) (dram.trans (State_grantDram_dram _))

/-- Where no codeword of a burst fails, the check leaves its corrections alone (R39). -/
theorem fetchChecked_clean (clean : ¬(s.burstEnded ks).burstFails b = true) :
    (s.fetchChecked ks b).counters = (s.corrected ks b).counters ∧ (s.fetchChecked ks b).events = (s.corrected ks b).events := by
  rw [State.fetchChecked, State_grantDram_counters, State_grantDram_events, checkRead_burstEnded, if_neg clean]
  exact ⟨rfl, rfl⟩

theorem pokeRecordFetchArrival_exec (busy : s.arbiter.inProgress = some b) (poke : b.job.isPoke = true) :
    exec (.pokeRecordFetchArrival ks) s = .next ((s.burstEnded ks).pokeArrives b) := by
  show execPokeRecordFetchArrival ks s = _
  unfold execPokeRecordFetchArrival
  rw [takeBurst_struck ks busy poke]

/-- A fetch that arrives for an IDLE engine only frees the DRAM (R159). -/
theorem pokeArrives_idle (idle : s.poke = none) : (s.burstEnded ks).pokeArrives b = (s.burstEnded ks).grantDram := by
  unfold State.pokeArrives
  rw [show (s.burstEnded ks).poke = none from idle]

theorem pokeArrives_running {e : PokeRun} (running : s.poke = some e) (kept : b.dropped = false) :
    (s.burstEnded ks).pokeArrives b = if (s.burstEnded ks).burstFails b = true then (s.fetchChecked ks b).pokeFault
      else (s.fetchChecked ks b).judgeRecord e (s.dramBytes b.address b.length) := by
  unfold State.pokeArrives
  rw [show (s.burstEnded ks).poke = some e from running]
  dsimp only
  rw [if_neg (by simp [kept])]
  rfl

/-- A fetch with a double-bit error ends the sequence (R39, R162). -/
theorem pokeArrives_uncorrectable (poke : b.job.isPoke = true) (fails : (s.burstEnded ks).burstFails b = true) :
    let t := (s.fetchChecked ks b).pokeFault
    s.corrects t ks b ∧ t.poke = none ∧ s.counted t .uncorrectablePoke 1 ∧ s.counted t .pokeFaults 1 ∧ s.raised t .pokeFault := by
  obtain ⟨idle, faults, raised⟩ := pokeFault_ends (fetchChecked_reports (s := s) (ks := ks) (b := b))
    (counter_fetchChecked poke (.inl rfl))
  refine ⟨fetchChecked_corrects (pokeFault_sparesReads _) (State_pokeFault_dram _), idle, ?_, faults, raised⟩
  rw [State.counted, counter_pokeFault _ (by decide), State.fetchChecked, counter_congr (State_grantDram_counters _)]
  exact checkRead_counted fails (pokeFetch_uncorrectable poke)

/-- Bytes that are no well-formed record end the sequence (R157, R162). -/
theorem judgeRecord_illFormed (e : PokeRun) (poke : b.job.isPoke = true) {bytes : List Byte}
    (illFormed : PokeRecord.decode? bytes = none) :
    let t := (s.fetchChecked ks b).judgeRecord e bytes
    s.corrects t ks b ∧ t.poke = none ∧ s.counted t .illFormedRecords 1 ∧ s.counted t .pokeFaults 1 ∧ s.raised t .pokeFault := by
  have judged : (s.fetchChecked ks b).judgeRecord e bytes = ((s.fetchChecked ks b).bump .illFormedRecords).pokeFault := by
    unfold State.judgeRecord
    rw [illFormed]
  dsimp only
  rw [judged]
  obtain ⟨idle, faults, raised⟩ := pokeFault_ends (s := s) (u := (s.fetchChecked ks b).bump .illFormedRecords)
    (by rw [counter_bump, if_neg (by decide)]; exact fetchChecked_reports)
    (by rw [counter_bump, if_neg (by decide)]; exact counter_fetchChecked poke (.inl rfl))
  refine ⟨fetchChecked_corrects ((pokeFault_sparesReads _).after (bump_sparesReads _ .illFormedRecords))
    (State_pokeFault_dram _), idle, ?_, faults, raised⟩
  rw [State.counted, counter_pokeFault _ (by decide)]
  exact counted_bump_of (counter_fetchChecked poke (.inr rfl))

/-- A well-formed record is the awaited current copy, or the copy of the prefetched record (R162, R163, log entry 30). -/
theorem arrive_eq (e : PokeRun) (rec : PokeRecord) : some (e.arrive rec) =
    if e.copy = none then some { e with copy := some rec, remaining := rec.dwell, prefetched := none }
    else some { e with prefetched := e.prefetched.map (fun f => (f.1, some rec)) } := by
  unfold PokeRun.arrive
  cases e.copy <;> rfl

theorem judgeRecord_wellFormed (e : PokeRun) (clean : ¬(s.burstEnded ks).burstFails b = true) {bytes : List Byte}
    {rec : PokeRecord} (wellFormed : PokeRecord.decode? bytes = some rec) :
    let t := (s.fetchChecked ks b).judgeRecord e bytes
    s.corrects t ks b ∧ t.counters = (s.corrected ks b).counters ∧ t.events = (s.corrected ks b).events
    ∧ t.poke = some (e.arrive rec) := by
  have judged : (s.fetchChecked ks b).judgeRecord e bytes = { s.fetchChecked ks b with poke := some (e.arrive rec) } := by
    unfold State.judgeRecord
    rw [wellFormed]
  obtain ⟨counters, events⟩ := fetchChecked_clean clean
  dsimp only
  rw [judged]
  exact ⟨fetchChecked_corrects (poke_moves _ _).sparesReads rfl, counters, events, rfl⟩

end

/-- Settles O39, judgement by judgement. -/
theorem pokeFetchArrivalIsJudged : Obligations.PokeFetchArrivalIsJudged := by
  intro s ks b busy poke
  rw [pokeRecordFetchArrival_exec busy poke]
  refine ⟨fun idle => ⟨_, rfl, ?_⟩, fun e running kept => ⟨_, rfl, ?_⟩⟩
  · rw [pokeArrives_idle idle, State_grantDram_poke, State_grantDram_counters]
    exact ⟨idle, rfl⟩
  rw [pokeArrives_running running kept]
  by_cases fails : (s.burstEnded ks).burstFails b = true
  · rw [if_pos fails, if_pos ((burstFails_iff s ks b).mp fails)]
    exact pokeArrives_uncorrectable poke fails
  · rw [if_neg fails, if_neg fun double => fails ((burstFails_iff s ks b).mpr double)]
    cases decoded : PokeRecord.decode? (s.dramBytes b.address b.length) with
    | none => exact judgeRecord_illFormed e poke decoded
    | some rec =>
      obtain ⟨corrects, counters, events, arrived⟩ := judgeRecord_wellFormed e fails decoded
      refine ⟨corrects, counters, events, ?_⟩
      rw [arrived, arrive_eq]
      split <;> rfl

/-! ## The walk of the chain (R163, R164, R166) -/

theorem offsets_eq (rec : PokeRecord) (phase : PokePhase) :
    rec.offsets phase = rec.entries.map (fun x => (x.1, if phase = .pull then -x.2 else x.2)) := by
  cases phase
  · exact (List.map_id _).symm
  · rfl

theorem turns_iff (rec : PokeRecord) (phase : PokePhase) : rec.turns phase = true ↔ rec.pushPull = true ∧ phase = .push := by
  simp [PokeRecord.turns]

section
variable {s : State}

theorem pokeStep_idle (idle : s.poke = none) : s.pokeStep = ([], .idle, s) := by
  unfold State.pokeStep
  rw [idle]

variable {e : PokeRun} (running : s.poke = some e)
include running

/-- Without its copy the engine withholds its offsets from the frame (R163). -/
theorem pokeStep_awaiting (awaited : e.copy = none) :
    s.pokeStep = ([], .active e.current .push true, s.bump .withheldFrames) := by
  unfold State.pokeStep
  rw [running]
  dsimp only
  rw [awaited]

/-- With its copy the engine hands the record's offsets and moves on by one frame (R163). -/
theorem pokeStep_holding {rec : PokeRecord} (held : e.copy = some rec) :
    s.pokeStep = (rec.offsets e.phase, .active e.current e.phase false,
      if 1 < e.remaining then { s with poke := some { e with remaining := e.remaining - 1 } }
      else if rec.turns e.phase = true then { s with poke := some { e with phase := .pull, remaining := rec.dwell } }
      else s.endRecord e rec) := by
  unfold State.pokeStep
  rw [running]
  dsimp only
  rw [held]
  dsimp only
  split
  · rfl
  · split <;> rfl

end

section
variable (s : State) (e : PokeRun) (rec : PokeRecord)

theorem takeUp_begins (r : Nat) (copy : Option PokeRecord) :
    (PokeRun.takeUp r copy).current = r ∧ (PokeRun.takeUp r copy).phase = .push := by
  cases copy <;> exact ⟨rfl, rfl⟩

/-- A record that ends is counted (R163). -/
theorem endRecord_counted : s.counted (s.endRecord e rec) .recordsCompleted 1 := by
  unfold State.endRecord
  dsimp only
  split
  · rw [State.counted, counter_raise _ _ (by decide) (by decide) (by decide), counter_bump, if_neg (by decide),
      counter_pokeIdle]
    exact counted_bump s .recordsCompleted
  · split
    · exact counted_bump s .recordsCompleted
    · rw [State.counted, counter_congr (State_fetchPoke_counters _ _)]
      exact counted_bump s .recordsCompleted

variable {rec}

/-- At END the sequence is done (R163). -/
theorem endRecord_done (last : rec.next = none) : (s.endRecord e rec).poke = none
    ∧ s.counted (s.endRecord e rec) .sequencesDone 1 ∧ s.raised (s.endRecord e rec) .pokeDone := by
  have ended : s.endRecord e rec = ((s.bump .recordsCompleted).pokeIdle.bump .sequencesDone).raise .pokeDone := by
    unfold State.endRecord
    rw [last]
  have earlier {k : Counter} (other : k ≠ .recordsCompleted) : (s.bump .recordsCompleted).pokeIdle.counter k = s.counter k := by
    rw [counter_pokeIdle, counter_bump, if_neg other]
  rw [ended]
  refine ⟨by rw [State_raise_poke, State_bump_poke, State_pokeIdle_poke], ?_, raised_of_raise ?_ rfl rfl⟩
  · rw [State.counted, counter_raise _ _ (by decide) (by decide) (by decide)]
    exact counted_bump_of (earlier (by decide))
  · rw [counter_bump, if_neg (by decide), earlier (by decide)]

/-- The next record is current; where it has not been prefetched, its fetch is placed (R163, R164, log entry 30). -/
theorem endRecord_goesOn {r : Nat} (next : rec.next = some r) : ∃ n, (s.endRecord e rec).poke = some n ∧ n.current = r
    ∧ n.phase = .push ∧ (e.prefetched = none → n.copy = none ∧ n.prefetched = some (r, none)
      ∧ (s.endRecord e rec).arbiter.fetchesPoke r) := by
  unfold State.endRecord
  rw [next]
  dsimp only
  cases prefetched : e.prefetched with
  | some f =>
    obtain ⟨current, phase⟩ := takeUp_begins r (e.prefetchedCopy r)
    exact ⟨_, rfl, current, phase, nofun⟩
  | none => exact ⟨_, State_fetchPoke_poke _ _, rfl, rfl, fun _ => ⟨rfl, rfl, fetchPoke_places _ r⟩⟩

end

/-- Settles O40, by the states of the engine: IDLE, awaiting its copy, within a phase, at the end of PUSH, at the end of a
record. -/
theorem pokeEngineWalksItsChain : Obligations.PokeEngineWalksItsChain := by
  intro s
  refine ⟨_, rfl, ?_⟩
  cases running : s.poke with
  | none => rw [pokeStep_idle running]; exact ⟨rfl, rfl, rfl⟩
  | some e =>
    dsimp only
    cases copy : e.copy with
    | none => rw [pokeStep_awaiting running copy]; exact ⟨rfl, rfl, running, counted_bump s .withheldFrames⟩
    | some rec =>
      rw [pokeStep_holding running copy]
      refine ⟨offsets_eq rec e.phase, rfl, ?_⟩
      dsimp only
      by_cases more : 1 < e.remaining
      · rw [if_pos more, if_pos more]
        exact ⟨by rw [copy], rfl⟩
      rw [if_neg more, if_neg more]
      by_cases turns : rec.pushPull = true ∧ e.phase = .push
      · rw [if_pos turns, if_pos ((turns_iff rec e.phase).mpr turns)]
        exact ⟨by rw [copy], rfl⟩
      rw [if_neg turns, if_neg fun h => turns ((turns_iff rec e.phase).mp h)]
      refine ⟨endRecord_counted s e rec, ?_⟩
      cases next : rec.next with
      | none => exact endRecord_done s e next
      | some r => exact endRecord_goesOn s e next

/-! ## POKE START (R159, R160) -/

section
variable {s : State} {r : Request}

theorem isTail_eq_false_iff (s : State) : s.isTail = false ↔ s.params.role = .head ∨ s.params.role = .middle := by
  unfold State.isTail
  cases s.params.role <;> decide

theorem pokeStart_exec (oldest : s.oldest? .pokeStart = some r) (form : r.form = 0) : exec .pokeStart s = .next
    (s.dequeue.judge r [(s.isTail, .notTail), r.bodyIs 4, (r.field 0 2 ≤ 1023, .badValue),
      (s.loop.state.applies && s.poke.isNone, .wrongState)] fun t => (t.startPoke (r.field 0 2)).done r []) := by
  show execPokeStart s = _
  unfold execPokeStart
  rw [serve_eq _ oldest, State.pokeStart, judge_passed _ _ _ _ (by simp [Request.plain, form])]
  rfl

/-- A refused request leaves the Poke Engine and the Memory Arbiter alone (R183). -/
theorem refuse_sparesPoke (s : State) (r : Request) (st : Status) : s.answered (s.dequeue.refuse r st) r st none []
    ∧ (s.dequeue.refuse r st).poke = s.poke ∧ (s.dequeue.refuse r st).arbiter = s.arbiter :=
  ⟨(refuse_answered s r st).1, by simp [State.refuse], by simp [State.refuse]⟩

/-- An accepted POKE START (R159, R160). -/
theorem startPoke_spec (s : State) (r : Request) (n : Nat) : let t := (s.accepted.startPoke n).done r []
    s.answered t r .done none [] ∧ s.counted t .sequencesStarted 1 ∧ t.poke = some (PokeRun.start n)
    ∧ t.arbiter.fetchesPoke n := by
  dsimp only
  unfold State.done State.startPoke
  refine ⟨answered_of ?_ rfl (State_fetchPoke_trunk _ _) (State_fetchPoke_nodeNumber _ _), ?_, ?_, ?_⟩
  · rw [State_respond_mgmt, State_bump_mgmt, State_fetchPoke_queue]; rfl
  · rw [State.counted, counter_respond _ _ _ _ _ (by decide)]
    exact counted_bump_of ((counter_congr (State_fetchPoke_counters _ _) _).trans (counter_accepted s (by decide)))
  · rw [State_respond_poke, State_bump_poke, State_fetchPoke_poke]
  · rw [State_respond_arbiter, State_bump_arbiter]
    exact fetchPoke_places _ n

end

/-- Settles O57, check by check. -/
theorem pokeStartInTheOrderOfItsChecks : Obligations.PokeStartInTheOrderOfItsChecks := by
  intro s r oldest form
  refine ⟨_, pokeStart_exec oldest form, ?_⟩
  split
  · next elsewhere =>
    rw [judge_failed _ _ _ _ ((isTail_eq_false_iff s).mpr elsewhere)]
    exact refuse_sparesPoke s r .notTail
  next atTail =>
  rw [judge_passed _ _ _ _ (by simpa using mt (isTail_eq_false_iff s).mp atTail)]
  split
  · next length =>
    rw [judge_failed _ _ _ _ (by simpa [Request.bodyIs] using length)]
    exact refuse_sparesPoke s r .badRequest
  next length =>
  rw [judge_passed _ _ _ _ (by simpa [Request.bodyIs] using length)]
  split
  · next beyond =>
    rw [judge_failed _ _ _ _ (by simpa using beyond)]
    exact refuse_sparesPoke s r .badValue
  next first =>
  rw [judge_passed _ _ _ _ (by simpa using first)]
  have startable : (s.loop.state.applies && s.poke.isNone) = true
      ↔ ¬(¬(s.loop.state = .opened ∨ s.loop.state = .closed) ∨ s.poke ≠ none) := by
    rw [Bool.and_eq_true, applies_iff, Option.isNone_iff_eq_none, not_or, not_not, not_not]
  split
  · next barred =>
    rw [judge_failed _ _ _ _ (Bool.eq_false_iff.mpr fun h => startable.mp h barred)]
    exact refuse_sparesPoke s r .wrongState
  next free =>
  rw [judge_passed _ _ _ _ (startable.mpr free), judge_nil]
  obtain ⟨answered, started, engine, fetches⟩ := startPoke_spec s r (r.field 0 2)
  exact ⟨answered, started, ⟨_, engine, rfl, rfl, rfl, rfl⟩, fetches⟩

end Sys2Proof.Machine

/-! SUPPORT. The proofs of the statements about telemetry capture (chapter 10): the trigger, the giving up of a record write, the
requests of the Telemetry Unit and of the events, the commit of a record, the end of a read, and the offer of a finished frame. -/

namespace Sys2Proof.Machine

/-! ## The trigger (R177) -/

/-- The Telemetry Unit after the event that triggers the capture: with post-trigger count 0 it freezes at once (R177). -/
def Telemetry.triggered (t : Telemetry) : Telemetry :=
  { t with state := if t.config.postTrigger = 0 then .frozen else .triggered, remaining := t.config.postTrigger }

/-- Raising this event triggers the capture: it passes from clear to pending, stands in the trigger mask, and finds the capture
RUNNING (R177). -/
def State.triggersOn (s : State) (e : Event) : Prop :=
  s.isPending e = false ∧ hasEvent s.telemetry.config.triggerMask e = true ∧ s.telemetry.state = .running

section
variable {s : State} {e : Event}

theorem triggerCapture_of (running : s.telemetry.state = .running) (masked : hasEvent s.telemetry.config.triggerMask e = true) :
    (s.triggerCapture e).telemetry = s.telemetry.triggered ∧ s.counted (s.triggerCapture e) .triggers 1
    ∧ (s.telemetry.config.postTrigger = 0 → (s.triggerCapture e).isPending .telemetryTriggered = true) := by
  unfold State.triggerCapture Telemetry.triggered
  rw [if_pos (by simp [running, masked])]
  dsimp only
  split
  · next none =>
    refine ⟨by rw [none]; rfl, counted_bump s .triggers, fun _ => ?_⟩
    rw [isPending_setPending, beq_self_eq_true, Bool.or_true]
  · next some => exact ⟨rfl, counted_bump s .triggers, fun none => absurd none some⟩

theorem triggerCapture_of_not (h : ¬(s.telemetry.state = .running ∧ hasEvent s.telemetry.config.triggerMask e = true)) :
    s.triggerCapture e = s := by
  unfold State.triggerCapture
  exact if_neg (by simpa using h)

/-- The report test that ends the raising of an event counts no trigger (R191). -/
theorem raise_triggers (h : s.triggersOn e) : (s.raise e).telemetry = s.telemetry.triggered ∧ s.counted (s.raise e) .triggers 1
    ∧ (s.telemetry.config.postTrigger = 0 → s.raised (s.raise e) .telemetryTriggered) := by
  obtain ⟨clear, masked, running⟩ := h
  have set : ((s.setPending e).joinLaterCauses e).telemetry = s.telemetry := by simp
  have raised : s.raise e = (((s.setPending e).joinLaterCauses e).triggerCapture e).reportTest := by
    unfold State.raise
    dsimp only
    rw [if_neg (by simp [clear])]
  obtain ⟨telemetry, counted, pending⟩ :=
    triggerCapture_of (s := (s.setPending e).joinLaterCauses e) (e := e) (by rw [set]; exact running) (by rw [set]; exact masked)
  have counters (k : Counter) : ((s.setPending e).joinLaterCauses e).counter k = s.counter k := counter_congr (by simp) k
  rw [raised]
  refine ⟨by rw [State_reportTest_telemetry, telemetry, set], ?_, fun none => ?_⟩
  · unfold State.counted at counted ⊢
    rw [counter_reportTest _ (by decide) (by decide), counted, counters]
  · refine (reportTest_spares _).raised ?_ (.inl (pending (by rw [set]; exact none)))
    rw [counter_triggerCapture _ _ (by decide), counters]
    exact Nat.min_le_left _ _

theorem raise_untriggered (h : ¬s.triggersOn e) :
    (s.raise e).telemetry = s.telemetry ∧ (s.raise e).counter .triggers = s.counter .triggers := by
  unfold State.raise
  dsimp only
  rw [State_reportTest_telemetry, counter_reportTest _ (by decide) (by decide)]
  split
  · exact ⟨rfl, rfl⟩
  · next clear =>
    rw [triggerCapture_of_not fun on => h ⟨by simpa using clear, by simpa using on.2, by simpa using on.1⟩]
    exact ⟨by simp, counter_congr (by simp) _⟩

end

/-- Two telemetry states that differ in capture state and remaining count at most (R172, R177). -/
def Telemetry.SameRing (t u : Telemetry) : Prop := u = { t with state := u.state, remaining := u.remaining }

theorem Telemetry.SameRing.refl (t : Telemetry) : t.SameRing t := rfl

theorem Telemetry.SameRing.trans {t u v : Telemetry} (h : t.SameRing u) (k : u.SameRing v) : t.SameRing v := by
  unfold Telemetry.SameRing at *
  rw [k, h]

/-- An event leaves the ring and the record in flight (R177). -/
theorem raise_sameRing (s : State) (e : Event) : s.telemetry.SameRing (s.raise e).telemetry := by
  by_cases h : s.triggersOn e
  · rw [(raise_triggers h).1]; rfl
  · rw [(raise_untriggered h).1]; exact .refl _

theorem correct_sameRing (s : State) (c : Counter) (n : Nat) : s.telemetry.SameRing (s.correct c n).telemetry := by
  induction n generalizing s with
  | zero => exact .refl _
  | succ n ih => exact (raise_sameRing (s.bump c) .matrixCorrected).trans (ih _)

end Sys2Proof.Machine

namespace Sys2Proof.Machine

/-! ## A record write is given up (R172, R176) -/

section
variable {s : State}

theorem release_ctx_ne {c x : Ix} (h : x ≠ c) : (s.release c).ctx x = s.ctx x := by
  rw [(ix_eq_or_other c x).resolve_left h, release_ctx_other]

theorem withdrawRecord_none (idle : s.telemetry.inFlight = none) : s.withdrawRecord = s := by
  unfold State.withdrawRecord
  rw [idle]

theorem withdrawRecord_some {w : RecordWrite} (inFlight : s.telemetry.inFlight = some w) : s.withdrawRecord
    = State.release { s.withdraw BurstJob.isTelemetryWrite with telemetry := { s.telemetry with inFlight := none } } w.ctx := by
  unfold State.withdrawRecord
  rw [inFlight]
  rfl

variable (s)

@[simp] theorem State_withdrawRecord_telemetry : s.withdrawRecord.telemetry = { s.telemetry with inFlight := none } := by
  cases inFlight : s.telemetry.inFlight with
  | none =>
    rw [withdrawRecord_none inFlight, ← inFlight]
  | some w => rw [withdrawRecord_some inFlight, State_release_telemetry]

@[simp] theorem State_withdrawRecord_counters : s.withdrawRecord.counters = s.counters :=
  ((withdrawRecord_moves s).frame .counters (by decide)).symm

@[simp] theorem State_withdrawRecord_nodeNumber : s.withdrawRecord.nodeNumber = s.nodeNumber :=
  ((withdrawRecord_moves s).frame .nodeNumber (by decide)).symm

@[simp] theorem State_withdrawRecord_mgmt : s.withdrawRecord.mgmt = s.mgmt := by
  unfold State.withdrawRecord
  split
  · rfl
  · simp

@[simp] theorem State_withdrawRecord_trunk : s.withdrawRecord.trunk = s.trunk := by
  unfold State.withdrawRecord
  split
  · rfl
  · simp

@[simp] theorem State_withdrawRecord_ports : s.withdrawRecord.ports = s.ports := by
  unfold State.withdrawRecord
  split
  · rfl
  · simp

variable {s}

/-- The context of the record given up is FREE, and no other context changes. -/
theorem withdrawRecord_ctx {w : RecordWrite} (inFlight : s.telemetry.inFlight = some w) :
    (s.withdrawRecord.ctx w.ctx).state = .free ∧ ∀ x, x ≠ w.ctx → s.withdrawRecord.ctx x = s.ctx x := by
  rw [withdrawRecord_some inFlight]
  exact ⟨release_ctx_state _ _, fun x other => release_ctx_ne other⟩

theorem withdrawRecord_arbiter {w : RecordWrite} (inFlight : s.telemetry.inFlight = some w) :
    s.withdrawRecord.arbiter = s.arbiter.withdraw BurstJob.isTelemetryWrite := by
  rw [withdrawRecord_some inFlight, State_release_arbiter]
  rfl

end

/-! ## Telemetry configuration (R169) -/

/-- A request that has passed its checks is carried out (R183). -/
theorem judge_accepts (s : State) (r : Request) (f : State → State) : s.dequeue.judge r [] f = f s.accepted := rfl

section
variable {s : State} {r : Request}

theorem rests_iff (c : CaptureState) : c.rests = true ↔ ¬(c = .running ∨ c = .triggered) := by cases c <;> decide

/-- A refused request leaves the Telemetry Unit alone (R183). -/
theorem refuse_telemetry (s : State) (r : Request) (st : Status) : (s.dequeue.refuse r st).telemetry = s.telemetry := by
  simp [State.refuse]

theorem done_telemetry (s : State) (r : Request) (body : List Byte) : (s.done r body).telemetry = s.telemetry :=
  State_respond_telemetry _ _ _ _ _

theorem writeTelemetryConfiguration_exec (oldest : s.oldest? .writeTelemetryConfiguration = some r) (form : r.form = 0)
    (items : (r.holdsItems 17).1 = true) (writable : (r.writesOnly 7).1 = true) : exec .writeTelemetryConfiguration s = .next
    (s.dequeue.judge r [(s.telemetry.state.rests, .wrongState),
        (r.items.all (fun i => telemetryInRange i.1 i.2) && (s.telemetry.config.setItems r.items).ringFits, .badValue)]
      fun t => (t.setTelemetry (s.telemetry.config.setItems r.items)).done r []) := by
  show execWriteTelemetryConfiguration s = _
  unfold execWriteTelemetryConfiguration
  rw [serve_eq _ oldest, State.writeTelemetry, judge_passed _ _ _ _ (by simp [Request.plain, form]), judge_passed _ _ _ _ items,
    judge_passed _ _ _ _ writable]
  rfl

section
variable {new : TelemetryConfig}

theorem setTelemetry_sameBounds
    (same : new.ringStart = s.telemetry.config.ringStart ∧ new.ringEnd = s.telemetry.config.ringEnd) :
    (s.setTelemetry new).telemetry = { s.telemetry with config := new } := by
  unfold State.setTelemetry
  dsimp only
  rw [if_pos ⟨same.1.symm, same.2.symm⟩]

/-- New bounds leave an empty ring, and no record in flight (R169). -/
theorem setTelemetry_newBounds
    (changed : ¬(new.ringStart = s.telemetry.config.ringStart ∧ new.ringEnd = s.telemetry.config.ringEnd)) :
    (s.setTelemetry new).telemetry = Telemetry.emptied { s.telemetry with config := new, inFlight := none } := by
  unfold State.setTelemetry
  dsimp only
  rw [if_neg fun same => changed ⟨same.1.symm, same.2.symm⟩, State_withdrawRecord_telemetry]

end

theorem setTelemetry_config (s : State) (new : TelemetryConfig) : (s.setTelemetry new).telemetry.config = new := by
  unfold State.setTelemetry
  dsimp only
  split <;> rfl

theorem setTelemetry_frame (s : State) (new : TelemetryConfig) : (s.setTelemetry new).mgmt = s.mgmt
    ∧ (s.setTelemetry new).trunk = s.trunk ∧ (s.setTelemetry new).nodeNumber = s.nodeNumber := by
  unfold State.setTelemetry
  dsimp only
  split
  · exact ⟨rfl, rfl, rfl⟩
  · exact ⟨State_withdrawRecord_mgmt s, State_withdrawRecord_trunk s, State_withdrawRecord_nodeNumber s⟩

theorem writeTelemetryConfiguration_spec (oldest : s.oldest? .writeTelemetryConfiguration = some r) (form : r.form = 0)
    (items : (r.holdsItems 17).1 = true) (writable : (r.writesOnly 7).1 = true) :
    ∃ t, exec .writeTelemetryConfiguration s = .next t ∧
      (if s.telemetry.state = .running ∨ s.telemetry.state = .triggered then
        s.answered t r .wrongState none [] ∧ t.telemetry = s.telemetry
      else (r.items.all (fun i => telemetryInRange i.1 i.2) = true →
        (s.telemetry.config.setItems r.items).ringStart + 2562 ≤ (s.telemetry.config.setItems r.items).ringEnd →
        s.answered t r .done none [] ∧ t.telemetry.config = s.telemetry.config.setItems r.items ∧
        (if t.telemetry.config.ringStart = s.telemetry.config.ringStart
            ∧ t.telemetry.config.ringEnd = s.telemetry.config.ringEnd then
          t.telemetry = { s.telemetry with config := t.telemetry.config }
        else t.telemetry.readPos = t.telemetry.config.ringStart ∧ t.telemetry.writePos = t.telemetry.config.ringStart
          ∧ t.telemetry.lengths = [] ∧ t.telemetry.inFlight = none))) := by
  refine ⟨_, writeTelemetryConfiguration_exec oldest form items writable, ?_⟩
  generalize s.telemetry.config.setItems r.items = new
  split
  · next captures =>
    rw [judge_failed _ _ _ _ (Bool.eq_false_iff.mpr fun h => (rests_iff _).mp h captures)]
    exact ⟨(refuse_answered s r .wrongState).1, refuse_telemetry s r .wrongState⟩
  · next rests =>
    intro inRange fits
    have passed : (r.items.all (fun i => telemetryInRange i.1 i.2) && new.ringFits) = true := by
      rw [inRange, Bool.true_and, TelemetryConfig.ringFits, decide_eq_true_eq]
      exact fits
    rw [judge_passed _ _ _ _ ((rests_iff _).mpr rests), judge_passed _ _ _ _ passed, judge_accepts]
    obtain ⟨mgmt, trunk, node⟩ := setTelemetry_frame s.accepted new
    refine ⟨done_answered r [] mgmt trunk node, ?_⟩
    rw [done_telemetry, setTelemetry_config]
    refine ⟨rfl, ?_⟩
    split
    · next same => exact setTelemetry_sameBounds (s := s.accepted) same
    · next changed =>
      rw [setTelemetry_newBounds (s := s.accepted) changed]
      exact ⟨rfl, rfl, rfl, rfl⟩

/-! ## Event state (R192) -/

theorem writeEventState_exec (oldest : s.oldest? .writeEventState = some r) (form : r.form = 0)
    (items : (r.holdsItems 7).1 = true) (writable : (r.writesOnly 4).1 = true)
    (inRange : r.items.all (fun i => eventInRange i.1 i.2) = true) : exec .writeEventState s = .next
    (State.done { s.accepted with events := r.items.foldl Events.setItem s.events } r []).reportTest := by
  show execWriteEventState s = _
  unfold execWriteEventState
  rw [serve_eq _ oldest, State.writeEvents, judge_passed _ _ _ _ (by simp [Request.plain, form]), judge_passed _ _ _ _ items,
    judge_passed _ _ _ _ writable, judge_passed _ _ _ _ inRange]
  rfl

theorem setItems_holdoff (is : List (Nat × Nat)) (e : Events) : (is.foldl Events.setItem e).holdoff = e.holdoff := by
  induction is generalizing e with
  | nil => rfl
  | cons i is ih =>
    refine (ih _).trans ?_
    unfold Events.setItem
    split <;> rfl

/-- A report leaves the settings of the events (R191). -/
theorem reportTest_settings (s : State) : s.reportTest.events.enabled = s.events.enabled
    ∧ s.reportTest.events.critical = s.events.critical ∧ s.reportTest.events.reportEnable = s.events.reportEnable := by
  have kept := (reportTest_moves s).frame .eventSettings (by decide)
  simp only [Part.same, Prod.mk.injEq] at kept
  exact ⟨kept.1.symm, kept.2.1.symm, kept.2.2.symm⟩

/-- Nothing is reported with report enable off or while the holdoff runs (R191). -/
theorem reportTest_silent (h : s.events.reportEnable = false ∨ s.events.holdoff.isSome = true) : s.reportTest = s := by
  unfold State.reportTest
  refine if_neg ?_
  rcases h with off | runs
  · simp [off]
  · simp [Option.isSome_iff_ne_none.mp runs]

theorem writeEventState_spec (oldest : s.oldest? .writeEventState = some r) (form : r.form = 0)
    (items : (r.holdsItems 7).1 = true) (writable : (r.writesOnly 4).1 = true)
    (inRange : r.items.all (fun i => eventInRange i.1 i.2) = true) : ∃ t, exec .writeEventState s = .next t
      ∧ t.events.enabled = (r.items.foldl Events.setItem s.events).enabled
      ∧ t.events.critical = (r.items.foldl Events.setItem s.events).critical
      ∧ t.events.reportEnable = (r.items.foldl Events.setItem s.events).reportEnable
      ∧ (s.events.holdoff.isSome = true →
        t.events = r.items.foldl Events.setItem s.events ∧ s.answered t r .done none []) := by
  refine ⟨_, writeEventState_exec oldest form items writable inRange, ?_⟩
  generalize written : r.items.foldl Events.setItem s.events = new
  generalize answer : State.done { s.accepted with events := new } r [] = u
  have events : u.events = new := by rw [← answer]; exact State_respond_events _ _ _ _ _
  obtain ⟨enabled, critical, reportEnable⟩ := reportTest_settings u
  rw [events] at enabled critical reportEnable
  refine ⟨enabled, critical, reportEnable, fun runs => ?_⟩
  have silent : u.reportTest = u :=
    reportTest_silent (.inr (by rw [events, ← written, setItems_holdoff]; exact runs))
  rw [silent]
  exact ⟨events, by rw [← answer]; exact done_answered r [] rfl rfl rfl⟩

/-! ## TELEMETRY ARM and TELEMETRY STOP (R172) -/

theorem telemetryArm_exec (oldest : s.oldest? .telemetryArm = some r) (empty : r.body = []) : exec .telemetryArm s = .next
    (s.dequeue.judge r [(s.telemetry.state.rests, .wrongState)] fun t => t.arm.done r []) := by
  show execTelemetryArm s = _
  unfold execTelemetryArm
  rw [serve_eq _ oldest, State.telemetryArm, judge_passed _ _ _ _ (by simp [Request.bodyIs, empty])]
  rfl

theorem arm_telemetry (s : State) : s.arm.telemetry =
    { s.telemetry.emptied with inFlight := none, phase := 0, nextRecord := 0, state := .running } := by
  unfold State.arm
  dsimp only
  rw [State_withdrawRecord_telemetry]
  rfl

theorem telemetryArm_spec (oldest : s.oldest? .telemetryArm = some r) (empty : r.body = []) :
    ∃ t, exec .telemetryArm s = .next t ∧
      (if s.telemetry.state = .running ∨ s.telemetry.state = .triggered then
        s.answered t r .wrongState none [] ∧ t.telemetry = s.telemetry
      else s.answered t r .done none [] ∧ t.telemetry.state = .running ∧ t.telemetry.lengths = []
        ∧ t.telemetry.readPos = s.telemetry.config.ringStart ∧ t.telemetry.writePos = s.telemetry.config.ringStart
        ∧ t.telemetry.phase = 0 ∧ t.telemetry.nextRecord = 0 ∧ t.telemetry.inFlight = none) := by
  refine ⟨_, telemetryArm_exec oldest empty, ?_⟩
  split
  · next captures =>
    rw [judge_failed _ _ _ _ (Bool.eq_false_iff.mpr fun h => (rests_iff _).mp h captures)]
    exact ⟨(refuse_answered s r .wrongState).1, refuse_telemetry s r .wrongState⟩
  · next rests =>
    rw [judge_passed _ _ _ _ ((rests_iff _).mpr rests), judge_accepts, done_telemetry, arm_telemetry]
    exact ⟨done_answered r [] (State_withdrawRecord_mgmt s.accepted) (State_withdrawRecord_trunk s.accepted)
      (State_withdrawRecord_nodeNumber s.accepted), rfl, rfl, rfl, rfl, rfl, rfl, rfl⟩

theorem telemetryStop_exec (oldest : s.oldest? .telemetryStop = some r) (empty : r.body = []) :
    exec .telemetryStop s = .next (s.accepted.stopCapture.done r []) := by
  show execTelemetryStop s = _
  unfold execTelemetryStop
  rw [serve_eq _ oldest, State.telemetryStop, judge_passed _ _ _ _ (by simp [Request.bodyIs, empty]), judge_accepts]

theorem telemetryStop_spec (oldest : s.oldest? .telemetryStop = some r) (empty : r.body = []) :
    ∃ t, exec .telemetryStop s = .next t
      ∧ s.answered t r .done none [] ∧ t.telemetry = { s.telemetry with state := .idle, inFlight := none }
      ∧ ∀ w, s.telemetry.inFlight = some w → (t.ctx w.ctx).state = .free := by
  refine ⟨_, telemetryStop_exec oldest empty, done_answered r [] (State_withdrawRecord_mgmt s.accepted)
    (State_withdrawRecord_trunk s.accepted) (State_withdrawRecord_nodeNumber s.accepted), ?_, fun w inFlight => ?_⟩
  · rw [done_telemetry]
    unfold State.stopCapture
    dsimp only
    rw [State_withdrawRecord_telemetry]
    rfl
  · rw [State.done, ctx_congr (State_respond_frames _ r .done none [])]
    exact (withdrawRecord_ctx (s := s.accepted) inFlight).1

/-! ## POKE STOP (R161) -/

theorem pokeStop_exec (oldest : s.oldest? .pokeStop = some r) (form : r.form = 0) (tail : s.isTail = true) (empty : r.body = []) :
    exec .pokeStop s = .next (s.accepted.stopPoke.done r []) := by
  show execPokeStop s = _
  unfold execPokeStop
  rw [serve_eq _ oldest, State.pokeStop, judge_passed _ _ _ _ (by simp [Request.plain, form]), judge_passed _ _ _ _ tail,
    judge_passed _ _ _ _ (by simp [Request.bodyIs, empty]), judge_accepts]

theorem stopPoke_idle (idle : s.poke = none) : s.stopPoke = s := by simp [State.stopPoke, idle]

/-- A RUNNING engine becomes IDLE, its sequence counts as stopped, and the report test follows (R161, R191). -/
theorem stopPoke_running (running : s.poke.isSome = true) :
    s.stopPoke = (s.pokeIdle.bump .sequencesStopped).reportTest := if_pos running

theorem stopPoke_poke (s : State) : s.stopPoke.poke = none := by
  cases engine : s.poke with
  | none => rw [stopPoke_idle engine, engine]
  | some e => rw [stopPoke_running (by simp [engine]), State_reportTest_poke]; rfl

theorem counter_stopPoke (s : State) {k : Counter} (control : k ≠ .controlOverflow) (reports : k ≠ .eventFrames) :
    s.stopPoke.counter k =
      if k = .sequencesStopped ∧ s.poke.isSome = true then min (s.counter k + 1) Config.counterMax else s.counter k := by
  cases engine : s.poke with
  | none => simp [stopPoke_idle engine]
  | some e =>
    rw [stopPoke_running (by simp [engine]), counter_reportTest _ control reports, counter_bump]
    by_cases stopped : k = .sequencesStopped
    · simp [stopped, counter_pokeIdle]
    · simp [stopped, counter_pokeIdle]

theorem pokeStop_spec (oldest : s.oldest? .pokeStop = some r) (form : r.form = 0) (tail : s.isTail = true) (empty : r.body = []) :
    ∃ t, exec .pokeStop s = .next t
      ∧ t.poke = none ∧ s.countedIf t s.poke.isSome .sequencesStopped
      ∧ t.counter .sequencesAborted = s.counter .sequencesAborted
      ∧ (s.poke = none ∨ s.events.reportEnable = false ∨ s.events.holdoff.isSome = true → s.answered t r .done none []) := by
  have counter {k : Counter} (control : k ≠ .controlOverflow) (reports : k ≠ .eventFrames)
      (accepted : k ≠ .requestsAccepted) : (s.accepted.stopPoke.done r []).counter k =
        if k = .sequencesStopped ∧ s.poke.isSome = true then min (s.counter k + 1) Config.counterMax else s.counter k := by
    rw [State.done, counter_respond _ _ _ _ _ control, counter_stopPoke _ control reports, counter_accepted s accepted]
    rfl
  refine ⟨_, pokeStop_exec oldest form tail empty, (State_respond_poke _ _ _ _ _).trans (stopPoke_poke _), ?_, ?_,
    fun quiet => ?_⟩
  · rw [State.countedIf, counter (by decide) (by decide) (by decide)]
    simp
  · rw [counter (by decide) (by decide) (by decide)]
    simp
  · have silent : s.accepted.stopPoke.mgmt = s.accepted.mgmt ∧ s.accepted.stopPoke.trunk = s.trunk
        ∧ s.accepted.stopPoke.nodeNumber = s.nodeNumber := by
      by_cases running : s.poke.isSome = true
      · have silent := quiet.resolve_left (Option.isSome_iff_ne_none.mp running)
        rw [stopPoke_running (s := s.accepted) running,
          reportTest_silent (s := s.accepted.pokeIdle.bump .sequencesStopped) silent]
        exact ⟨rfl, rfl, rfl⟩
      · rw [stopPoke_idle (s := s.accepted) (Option.not_isSome_iff_eq_none.mp running)]
        exact ⟨rfl, rfl, rfl⟩
    obtain ⟨mgmt, trunk, node⟩ := silent
    exact done_answered r [] mgmt trunk node

end

/-- Settles O52, request by request. -/
theorem telemetryEventAndStopRequests : Obligations.TelemetryEventAndStopRequests := by
  intro s r
  exact ⟨writeTelemetryConfiguration_spec, writeEventState_spec, telemetryArm_spec, telemetryStop_spec, pokeStop_spec⟩

end Sys2Proof.Machine

namespace Sys2Proof.Machine

/-! ## Records leave the ring's old end (R168, R175) -/

namespace Telemetry

/-- The ring once its `n` oldest records have been discarded one after the other (R175). -/
def discarded (t : Telemetry) (n : Nat) : Telemetry := if n = 0 then t else t.dropOldest n

/-- Records that leave one after the other leave as they would together. -/
theorem dropOldest_dropOldest (t : Telemetry) (m n : Nat) : (t.dropOldest m).dropOldest n = t.dropOldest (m + n) := by
  have sums : (t.lengths.take (m + n)).sum = (t.lengths.take m).sum + ((t.lengths.drop m).take n).sum := by
    rw [List.take_add, List.sum_append]
  have position : (t.dropOldest m).advance (t.dropOldest m).readPos ((t.lengths.drop m).take n).sum
      = t.advance t.readPos (t.lengths.take (m + n)).sum := by
    show t.config.ringStart + (t.config.ringStart + (t.readPos - t.config.ringStart + (t.lengths.take m).sum) % t.ringSize
      - t.config.ringStart + ((t.lengths.drop m).take n).sum) % t.ringSize = _
    rw [Nat.add_sub_cancel_left, Nat.mod_add_mod, Nat.add_assoc, ← sums]
    rfl
  show ({ t with readPos := _, lengths := _ } : Telemetry) = { t with readPos := _, lengths := _ }
  rw [← position]
  congr 1
  exact List.drop_drop

theorem discarded_dropOldest (t : Telemetry) (n : Nat) : (t.dropOldest 1).discarded n = t.discarded (n + 1) := by
  unfold discarded
  rw [if_neg (Nat.succ_ne_zero n)]
  split
  · next none => rw [none]
  · rw [dropOldest_dropOldest, Nat.add_comm]

section
variable (t : Telemetry) (n : Nat)

@[simp] theorem discarded_config : (t.discarded n).config = t.config := by unfold discarded; split <;> rfl
@[simp] theorem discarded_state : (t.discarded n).state = t.state := by unfold discarded; split <;> rfl
@[simp] theorem discarded_remaining : (t.discarded n).remaining = t.remaining := by unfold discarded; split <;> rfl
@[simp] theorem discarded_writePos : (t.discarded n).writePos = t.writePos := by unfold discarded; split <;> rfl
@[simp] theorem discarded_inFlight : (t.discarded n).inFlight = t.inFlight := by unfold discarded; split <;> rfl

theorem discarded_lengths : (t.discarded n).lengths = t.lengths.drop n := by
  unfold discarded
  split
  · next none => rw [none]; rfl
  · rfl

theorem discarded_readPos : (t.discarded n).readPos =
    if n = 0 then t.readPos else t.config.ringStart + (t.readPos - t.config.ringStart + (t.lengths.take n).sum) % t.ringSize := by
  unfold discarded
  split <;> rfl

@[simp] theorem discarded_ringSize : (t.discarded n).ringSize = t.ringSize := by unfold ringSize; rw [discarded_config]

theorem discarded_freeSize : (t.discarded n).freeSize = t.ringSize - (t.lengths.drop n).sum := by
  unfold freeSize heldSize
  rw [discarded_ringSize, discarded_lengths]

end

end Telemetry

/-! ## Room is made in WRAP mode (R175) -/

section
variable (s : State)

@[simp] theorem State_forgetChosen_telemetry (unit : Nat) : (s.forgetChosen unit).telemetry = s.telemetry := by
  unfold State.forgetChosen
  split
  · split
    · dsimp only
      split
      · simp
      · rfl
    · rfl
  · rfl

theorem counter_forgetChosen (unit : Nat) {k : Counter} (control : k ≠ .controlOverflow) :
    (s.forgetChosen unit).counter k = s.counter k := by
  unfold State.forgetChosen
  split
  · split
    · dsimp only
      split
      · exact counter_respond _ _ _ _ _ control
      · rfl
    · rfl
  · rfl

theorem discardOldest_telemetry : s.discardOldest.telemetry = s.telemetry.dropOldest 1 := State_forgetChosen_telemetry _ _

theorem counter_discardOldest {k : Counter} (control : k ≠ .controlOverflow) :
    s.discardOldest.counter k = if k = .overwritten then min (s.counter k + 1) Config.counterMax else s.counter k := by
  unfold State.discardOldest
  rw [counter_forgetChosen _ _ control, counter_bump]
  split
  · next overwritten => rw [overwritten]; rfl
  · rfl

/-- The oldest records are discarded, no more of them than give room for the largest record (R175). -/
theorem makeRoom_discards (most : Nat) : ∃ n, n ≤ most ∧ (s.makeRoom most).telemetry = s.telemetry.discarded n
    ∧ (∀ m, m < n → (s.telemetry.discarded m).freeSize < Config.largestRecord)
    ∧ (n < most → Config.largestRecord ≤ (s.telemetry.discarded n).freeSize)
    ∧ s.countedTimes (s.makeRoom most) .overwritten n
    ∧ ∀ k : Counter, k ≠ .controlOverflow → k ≠ .overwritten → (s.makeRoom most).counter k = s.counter k := by
  induction most generalizing s with
  | zero => exact ⟨0, Nat.le_refl 0, rfl, by simp, by simp, rfl, fun _ _ _ => rfl⟩
  | succ most ih =>
    unfold State.makeRoom
    split
    · next short =>
      obtain ⟨n, within, telemetry, needed, room, counted, others⟩ := ih s.discardOldest
      simp only [discardOldest_telemetry, Telemetry.discarded_dropOldest] at telemetry needed room
      refine ⟨n + 1, by omega, telemetry, fun m before => ?_, fun more => room (by omega), ?_, fun k control own => ?_⟩
      · cases m with
        | zero => exact short
        | succ m => exact needed m (by omega)
      · unfold State.countedTimes at counted ⊢
        rw [counted, counter_discardOldest s (by decide), if_pos rfl, if_neg (Nat.succ_ne_zero n)]
        generalize Config.counterMax = ceiling
        split
        · next none => rw [none]
        · omega
      · rw [others k control own, counter_discardOldest s control, if_neg own]
    · next room => exact ⟨0, Nat.zero_le _, rfl, by simp, fun _ => Nat.le_of_not_lt room, rfl, fun _ _ _ => rfl⟩

end

/-! ## The post-trigger count (R177) -/

/-- The Telemetry Unit after a committed record has counted toward the post-trigger count (R177). -/
def Telemetry.postTriggered (t : Telemetry) : Telemetry :=
  if t.state = .triggered then
    if t.remaining ≤ 1 then { t with remaining := 0, state := .frozen } else { t with remaining := t.remaining - 1 }
  else t

section
variable {s : State}

/-- The event that the frozen capture raises triggers nothing (R177). -/
theorem countPostTrigger_telemetry (s : State) : s.countPostTrigger.telemetry = s.telemetry.postTriggered := by
  unfold State.countPostTrigger Telemetry.postTriggered
  dsimp only
  split
  · split
    · exact (raise_untriggered fun on => absurd on.2.2 (by simp)).1
    · rfl
  · rfl

theorem counter_countPostTrigger (s : State) {k : Counter} (other : k ∉ [.controlOverflow, .eventFrames, .triggers]) :
    s.countPostTrigger.counter k = s.counter k := by
  simp only [List.mem_cons, List.not_mem_nil, or_false, not_or] at other
  obtain ⟨control, reports, triggers⟩ := other
  unfold State.countPostTrigger
  dsimp only
  split
  · split
    · exact counter_raise _ _ control reports triggers
    · rfl
  · rfl

theorem countPostTrigger_raised (triggered : s.telemetry.state = .triggered) (last : s.telemetry.remaining ≤ 1) :
    s.raised s.countPostTrigger .telemetryTriggered := by
  unfold State.countPostTrigger
  dsimp only
  rw [if_pos triggered, if_pos last]
  exact raised_later _ (Nat.min_le_left _ _)

theorem postTriggered_sameRing (t : Telemetry) : t.SameRing t.postTriggered := by
  unfold Telemetry.postTriggered
  split
  · split <;> rfl
  · rfl

end

/-! ## The commit of a record (R174) -/

/-- The ring once a record of `units` units that was in flight has been taken in (R174). -/
def Telemetry.takenIn (t : Telemetry) (units : Nat) : Telemetry :=
  { t with writePos := t.advance t.writePos units, lengths := t.lengths ++ [units], inFlight := none }

/-- The state in which the record in flight has been taken in and has counted toward the post-trigger count (R174, R177). -/
def State.recordTaken (s : State) (w : RecordWrite) : State :=
  (State.bump { s with telemetry := s.telemetry.takenIn w.units } .recordsWritten).countPostTrigger

section
variable {s : State} {w : RecordWrite} {b : Burst}

theorem commitRecord_eq (s : State) (w : RecordWrite) : s.commitRecord w
    = (if (s.recordTaken w).telemetry.config.fullMode = .wrap then
        (s.recordTaken w).makeRoom (s.recordTaken w).telemetry.lengths.length
      else s.recordTaken w).release w.ctx := rfl

theorem recordTaken_telemetry (s : State) (w : RecordWrite) :
    (s.recordTaken w).telemetry = (s.telemetry.takenIn w.units).postTriggered := countPostTrigger_telemetry _

theorem counter_recordTaken (s : State) (w : RecordWrite) {k : Counter}
    (other : k ∉ [.controlOverflow, .eventFrames, .triggers]) : (s.recordTaken w).counter k =
      if k = .recordsWritten then min (s.counter .recordsWritten + 1) Config.counterMax else s.counter k :=
  (counter_countPostTrigger _ other).trans (counter_bump _ _ _)

theorem recordTaken_raised (triggered : s.telemetry.state = .triggered) (last : s.telemetry.remaining ≤ 1) :
    s.raised (s.recordTaken w) .telemetryTriggered := by
  have raised := countPostTrigger_raised (s := State.bump { s with telemetry := s.telemetry.takenIn w.units } .recordsWritten)
    triggered last
  unfold State.raised at raised ⊢
  rwa [counter_bump, if_neg (by decide)] at raised

theorem recordTaken_sameRing (s : State) (w : RecordWrite) :
    (s.telemetry.takenIn w.units).SameRing (s.recordTaken w).telemetry := by
  rw [recordTaken_telemetry]
  exact postTriggered_sameRing _

theorem recordTaken_config (s : State) (w : RecordWrite) : (s.recordTaken w).telemetry.config = s.telemetry.config := by
  rw [recordTaken_sameRing s w]; rfl

theorem recordTaken_lengths (s : State) (w : RecordWrite) :
    (s.recordTaken w).telemetry.lengths = s.telemetry.lengths ++ [w.units] := by
  rw [recordTaken_sameRing s w]; rfl

/-- The state that a commit leaves once it has discarded `n` records (R174, R175). -/
structure State.CommitDiscards (s : State) (w : RecordWrite) (n : Nat) (t : State) : Prop where
  telemetry : t.telemetry = (s.recordTaken w).telemetry.discarded n
  overwritten : s.countedTimes t .overwritten n
  written : s.counted t .recordsWritten 1
  events : t.events = (s.recordTaken w).events
  reports : t.counter .eventFrames = (s.recordTaken w).counter .eventFrames
  stops : s.telemetry.config.fullMode = .stop → n = 0
  within : n ≤ s.telemetry.lengths.length + 1
  needed : ∀ m, m < n → ((s.recordTaken w).telemetry.discarded m).freeSize < Config.largestRecord
  room : s.telemetry.config.fullMode = .wrap → n < s.telemetry.lengths.length + 1 →
    Config.largestRecord ≤ ((s.recordTaken w).telemetry.discarded n).freeSize

theorem commitRecord_discards (s : State) (w : RecordWrite) : ∃ n, s.CommitDiscards w n (s.commitRecord w) := by
  have written : s.counted (s.recordTaken w) .recordsWritten 1 := counter_recordTaken s w (by decide)
  have overwritten : (s.recordTaken w).counter .overwritten = s.counter .overwritten := counter_recordTaken s w (by decide)
  have released {u : State} (k : Counter) : (u.release w.ctx).counter k = u.counter k :=
    counter_congr (State_release_counters u w.ctx) k
  rw [commitRecord_eq, recordTaken_config]
  split
  · next wraps =>
    obtain ⟨n, within, telemetry, needed, room, counted, others⟩ :=
      makeRoom_discards (s.recordTaken w) (s.recordTaken w).telemetry.lengths.length
    have events : ((s.recordTaken w).makeRoom (s.recordTaken w).telemetry.lengths.length).events = (s.recordTaken w).events :=
      (makeRoom_moves _ _).events_eq
    simp only [recordTaken_lengths, List.length_append, List.length_singleton] at *
    exact ⟨n, (State_release_telemetry _ _).trans telemetry,
      by unfold State.countedTimes at *; rw [released, counted, overwritten],
      by unfold State.counted at *; rw [released, others _ (by decide) (by decide), written],
      (State_release_events _ _).trans events, by rw [released, others _ (by decide) (by decide)],
      fun stop => absurd (stop.symm.trans wraps) (by decide), within, needed, fun _ => room⟩
  · next stops =>
    exact ⟨0, State_release_telemetry _ _, (released _).trans overwritten, (released _).trans written,
      State_release_events _ _, released _, fun _ => rfl, Nat.zero_le _, by simp, fun wraps => absurd wraps stops⟩

/-- What the ring holds after a commit, and where it begins and ends (R174, R175). -/
theorem State.CommitDiscards.ring {n : Nat} {t : State} (h : s.CommitDiscards w n t) :
    t.telemetry.inFlight = none
    ∧ t.telemetry.writePos = s.telemetry.advance s.telemetry.writePos w.units
    ∧ t.telemetry.lengths = (s.telemetry.lengths ++ [w.units]).drop n
    ∧ t.telemetry.readPos = (if n = 0 then s.telemetry.readPos else s.telemetry.config.ringStart
      + (s.telemetry.readPos - s.telemetry.config.ringStart + ((s.telemetry.lengths ++ [w.units]).take n).sum)
        % s.telemetry.ringSize) := by
  rw [h.telemetry, Telemetry.discarded_inFlight, Telemetry.discarded_writePos, Telemetry.discarded_lengths,
    Telemetry.discarded_readPos, recordTaken_sameRing s w]
  exact ⟨rfl, rfl, rfl, rfl⟩

theorem recordTaken_freeSize (s : State) (w : RecordWrite) (m : Nat) : ((s.recordTaken w).telemetry.discarded m).freeSize
    = s.telemetry.ringSize - ((s.telemetry.lengths ++ [w.units]).drop m).sum := by
  rw [Telemetry.discarded_freeSize, recordTaken_lengths, Telemetry.ringSize, recordTaken_config, Telemetry.ringSize]

/-- In a ring of twice the largest record, the records held before give room enough for one that has been taken in (R169, R175). -/
theorem State.CommitDiscards.makes_room {n : Nat} {t : State} (h : s.CommitDiscards w n t)
    (wraps : s.telemetry.config.fullMode = .wrap) (large : s.telemetry.config.ringStart + 2562 ≤ s.telemetry.config.ringEnd)
    (fits : w.units ≤ 1281) : n ≤ s.telemetry.lengths.length
    ∧ 1281 ≤ s.telemetry.ringSize - t.telemetry.lengths.sum
    ∧ (∀ m, m < n → s.telemetry.ringSize - ((s.telemetry.lengths ++ [w.units]).drop m).sum < 1281)
    ∧ t.telemetry.readPos = (if n = 0 then s.telemetry.readPos else s.telemetry.config.ringStart
      + (s.telemetry.readPos - s.telemetry.config.ringStart + (s.telemetry.lengths.take n).sum) % s.telemetry.ringSize) := by
  have needed (m : Nat) (before : m < n) : s.telemetry.ringSize - ((s.telemetry.lengths ++ [w.units]).drop m).sum < 1281 := by
    rw [← recordTaken_freeSize]
    exact h.needed m before
  have within : n ≤ s.telemetry.lengths.length := by
    by_contra beyond
    have short := needed s.telemetry.lengths.length (by omega)
    rw [List.drop_left, List.sum_singleton, Telemetry.ringSize] at short
    omega
  obtain ⟨-, -, lengths, readPos⟩ := h.ring
  have room := h.room wraps (by omega)
  rw [recordTaken_freeSize, ← lengths] at room
  rw [List.take_append_of_le_length within] at readPos
  exact ⟨within, room, needed, readPos⟩

theorem telemetryRecordCommit_exec (inFlight : s.telemetry.inFlight = some w) (busy : s.arbiter.inProgress = some b)
    (job : b.job = .telemetryWrite) (last : b.last = true) (kept : b.dropped = false) : exec .telemetryRecordCommit s
      = .next (((s.setArbiter { s.arbiter with inProgress := none }).storeBurst b).grantDram.commitRecord w) := by
  show execTelemetryRecordCommit s = _
  unfold execTelemetryRecordCommit
  rw [inFlight, takeBurst_eq busy (by simp [BurstJob.isTelemetryWrite, job, last, kept])]

/-- A committed record in TRIGGERED counts, and the last one freezes the capture (R174, R177). -/
theorem State.CommitDiscards.capture {n : Nat} {t : State} (h : s.CommitDiscards w n t) :
    (s.telemetry.state = .triggered → s.telemetry.remaining ≤ 1 →
      t.telemetry.state = .frozen ∧ t.telemetry.remaining = 0 ∧ s.raised t .telemetryTriggered)
    ∧ (s.telemetry.state = .triggered → 1 < s.telemetry.remaining →
      t.telemetry.state = .triggered ∧ t.telemetry.remaining = s.telemetry.remaining - 1)
    ∧ (s.telemetry.state ≠ .triggered →
      t.telemetry.state = s.telemetry.state ∧ t.telemetry.remaining = s.telemetry.remaining) := by
  rw [h.telemetry, Telemetry.discarded_state, Telemetry.discarded_remaining, recordTaken_telemetry]
  have state : (s.telemetry.takenIn w.units).state = s.telemetry.state := rfl
  have remaining : (s.telemetry.takenIn w.units).remaining = s.telemetry.remaining := rfl
  unfold Telemetry.postTriggered
  rw [state, remaining]
  refine ⟨fun triggered last => ?_, fun triggered more => ?_, fun other => ?_⟩
  · rw [if_pos triggered, if_pos last]
    refine ⟨rfl, rfl, ?_⟩
    have raised := recordTaken_raised (w := w) triggered last
    unfold State.raised State.isPending at raised ⊢
    rwa [h.events, h.reports]
  · rw [if_pos triggered, if_neg (by omega)]
    exact ⟨triggered, rfl⟩
  · rw [if_neg other]
    exact ⟨rfl, rfl⟩

end

/-! ## The end of a telemetry read (R178, R179) -/

/-- Records leave the ring's old end whatever events have done to the capture meanwhile (R177, R178). -/
theorem dropOldest_sameRing {t u : Telemetry} (same : t.SameRing u) (n : Nat) : (u.dropOldest n).lengths = t.lengths.drop n
    ∧ (u.dropOldest n).readPos
      = t.config.ringStart + (t.readPos - t.config.ringStart + (t.lengths.take n).sum) % t.ringSize := by
  rw [same]
  exact ⟨rfl, rfl⟩

theorem telemetryBody_joinChosen (u : Nat) (bytes : List Byte) (chosen : List ChosenRecord) :
    telemetryBody (joinChosen u bytes chosen) = leBytes 2 chosen.length ++ leBytes 2 0
      ++ chosen.flatMap (fun k => if k.unit = u then k.data ++ bytes else k.data) := by
  unfold telemetryBody joinChosen
  rw [List.length_map, List.flatMap_map]
  congr 2
  funext k
  split <;> rfl

/-- The ring through the check of a read, which raises an event for each error that it corrects (R39). -/
theorem State.ReadFrom.sameRing {s u : State} {ks : List Strike} {b : Burst} (read : s.ReadFrom ks b u) :
    s.telemetry.SameRing u.telemetry := by
  rw [read.telemetry, corrected_eq]
  exact correct_sameRing _ _ _

theorem telemetryReadEnd_exec {s : State} {b : Burst} {u : Nat} (ks : List Strike) (busy : s.arbiter.inProgress = some b)
    (job : b.job = .telemetryRead u) (last : b.last = true) (kept : b.dropped = false) :
    exec (.telemetryReadEnd ks) s = .next ((s.burstEnded ks).telemetryReadBurst b) := by
  show execTelemetryReadEnd ks s = _
  unfold execTelemetryReadEnd
  rw [takeBurst_struck ks busy (by simp [BurstJob.isTelemetryRead, job, last, kept])]

/-- What an ended read counts (R178). -/
theorem counter_readEnds (s : State) (e : Execution) (chosen : List ChosenRecord) {k : Counter} (control : k ≠ .controlOverflow) :
    (s.readEnds e chosen).counter k =
      if k = .recordsRead then min (s.counter .recordsRead + chosen.length) Config.counterMax else s.counter k := by
  have answered {k : Counter} (control : k ≠ .controlOverflow) :
      (s.leaveExecution.respond e.request .done none (telemetryBody chosen)).counter k = s.counter k :=
    counter_respond _ _ _ _ _ control
  rw [← answered control, ← answered (k := .recordsRead) (by decide)]
  exact counter_bumpBy _ _ _ _

/-- An ended read is answered, and its records leave the ring (R178). -/
theorem readEnds_frame (s : State) (e : Execution) (chosen : List ChosenRecord) : let t := s.readEnds e chosen
    t.mgmt.executing = none ∧ t.telemetry = s.telemetry.dropOldest chosen.length ∧ t.events = s.events ∧ t.dram = s.dram
    ∧ t.trunk = (s.respond e.request .done none (telemetryBody chosen)).trunk :=
  ⟨congrArg Mgmt.executing (State_respond_mgmt _ _ _ _ _),
    congrArg (fun x : Telemetry => x.dropOldest _) (State_respond_telemetry _ _ _ _ _), State_respond_events _ _ _ _ _,
    State_respond_dram _ _ _ _ _, respond_trunk_congr _ _ _ _ rfl rfl⟩

section
variable {s : State} {e : Execution} {b : Burst} {chosen : List ChosenRecord} {u : Nat} (ks : List Strike)
  (executing : s.mgmt.executing = some e) (reads : e.transfer = .readTelemetry chosen) (job : b.job = .telemetryRead u)
  (kept : b.dropped = false)
include executing reads job kept

/-- The records before a failing one leave the ring, and the failing one with them (R179). -/
theorem telemetryRead_fails_readPos (fails : (s.burstEnded ks).burstFails b = true) :
    ((s.burstEnded ks).telemetryReadBurst b).telemetry.readPos = s.telemetry.config.ringStart
      + (s.telemetry.readPos - s.telemetry.config.ringStart
        + (s.telemetry.lengths.take ((chosen.takeWhile (fun k => k.unit != u)).length + 1)).sum) % s.telemetry.ringSize := by
  have same := (readFrom_checkRead s ks b).sameRing
  rw [telemetryReadBurst_eq ks executing reads job kept, if_pos fails, ← (dropOldest_sameRing same _).2]
  generalize (s.burstEnded ks).checkRead b = v
  refine congrArg (fun x : Telemetry => (x.dropOldest _).readPos) ((State_respond_telemetry _ _ _ _ _).trans ?_)
  simp

/-- The last burst of a read ends it: it is answered, and its records leave the ring (R178). -/
theorem telemetryRead_ends (clean : ¬(s.burstEnded ks).burstFails b = true) (last : b.last = true) :
    let t := (s.burstEnded ks).telemetryReadBurst b
    t.mgmt.executing = none ∧ s.corrects t ks b
    ∧ t.trunk = ((s.corrected ks b).respond e.request .done none
        (telemetryBody (joinChosen u (s.dramBytes b.address b.length) chosen))).trunk
    ∧ t.telemetry.lengths = s.telemetry.lengths.drop chosen.length
    ∧ t.telemetry.readPos = s.telemetry.config.ringStart + (s.telemetry.readPos - s.telemetry.config.ringStart
        + (s.telemetry.lengths.take chosen.length).sum) % s.telemetry.ringSize
    ∧ s.counted t .recordsRead chosen.length := by
  have read := readFrom_checkRead s ks b
  have own : b.job.uncorrectableCounter? ≠ some .recordsRead := by rw [job]; exact fun h => by cases h
  have before := read.counter (k := .recordsRead) rfl (ne_areaCounter _) own
  have size : (joinChosen u (s.dramBytes b.address b.length) chosen).length = chosen.length := List.length_map _
  rw [telemetryReadBurst_eq ks executing reads job kept, if_neg clean, if_pos last]
  generalize (s.burstEnded ks).checkRead b = v at read before ⊢
  generalize joinChosen u (s.dramBytes b.address b.length) chosen = joined at size ⊢
  have granted (k : Counter) : v.grantDram.counter k = v.counter k := counter_congr (State_grantDram_counters v) k
  obtain ⟨left, telemetry, events, dram, trunk⟩ := readEnds_frame v.grantDram e joined
  obtain ⟨lengths, readPos⟩ := dropOldest_sameRing read.sameRing chosen.length
  rw [State_grantDram_telemetry, size] at telemetry
  refine ⟨left, ?_, trunk.trans (read.answered (by simp) (by simp) _ _ _ _), by rw [telemetry, lengths],
    by rw [telemetry, readPos], ?_⟩
  · refine read.corrects_counting (events.trans (State_grantDram_events v)) (fun k hk => ?_) (.refl _)
      (dram.trans (State_grantDram_dram v))
    obtain ⟨overflow, records⟩ : k ≠ .controlOverflow ∧ k ≠ .recordsRead := by
      rcases hk with rfl | rfl
      · exact ⟨(ne_areaCounter _).symm, (ne_areaCounter _).symm⟩
      · decide
    rw [counter_readEnds _ _ _ overflow, if_neg records, granted]
  · rw [State.counted, counter_readEnds _ _ _ (by decide), if_pos rfl, granted, before, size]

end

/-- Settles O43: the commit by what it discards, the end of a read by whether its last burst fails. -/
theorem telemetryCommitAndReadEnd : Obligations.TelemetryCommitAndReadEnd := by
  intro s
  refine ⟨fun w b inFlight busy job last kept carries => ?_, fun ks e chosen b u executing reads busy job last kept => ?_⟩
  · refine ⟨_, telemetryRecordCommit_exec inFlight busy job last kept, ?_⟩
    rw [storeBurst_eq _ carries]
    generalize stored : ((s.setArbiter { s.arbiter with inProgress := none }).dramWrite b.address b.data).grantDram = v
    have telemetry : v.telemetry = s.telemetry := by rw [← stored, State_grantDram_telemetry]; rfl
    have counter (k : Counter) : v.counter k = s.counter k := by
      rw [← stored]
      exact counter_congr (State_grantDram_counters _) k
    have written (x : Nat) (inside : x < b.data.length) : (v.commitRecord w).dram.memory.read? (b.address + x) = b.data[x]? := by
      rw [← (commitRecord_moves v w).frame .memory (by decide), ← stored, State_grantDram_dram]
      exact dramWrite_read _ _ _ x inside
    have released : ((v.commitRecord w).ctx w.ctx).state = .free := by
      rw [commitRecord_eq]
      exact release_ctx_state _ _
    obtain ⟨n, commit⟩ := commitRecord_discards v w
    obtain ⟨landed, writePos, lengths, readPos⟩ := commit.ring
    obtain ⟨last, more, other⟩ := commit.capture
    have counted := commit.written
    have overwritten := commit.overwritten
    have stops := commit.stops
    have room := commit.makes_room
    unfold State.counted State.countedTimes State.raised at *
    simp only [counter, telemetry] at writePos lengths readPos last more other counted overwritten stops room
    refine ⟨written, counted, landed, writePos, released, fun stop => ?_, fun wraps large fits => ?_, last, more, other⟩
    · rw [lengths, readPos, overwritten, stops stop]
      exact ⟨rfl, rfl, rfl⟩
    · obtain ⟨within, free, needed, readPos⟩ := room wraps large fits
      exact ⟨n, within, lengths, free, needed, readPos, overwritten⟩
  · refine ⟨_, telemetryReadEnd_exec ks busy job last kept, ?_⟩
    simp only [← burstFails_iff]
    by_cases fails : (s.burstEnded ks).burstFails b = true
    · obtain ⟨left, corrects, -, trunk, lengths, read, media, uncorrectable⟩ :=
        telemetryRead_fails ks executing reads job kept fails
      refine ⟨left, corrects, ?_⟩
      rw [if_pos fails]
      exact fun before h => h ▸ ⟨trunk, lengths, telemetryRead_fails_readPos ks executing reads job kept fails, read, media,
        uncorrectable⟩
    · obtain ⟨left, corrects, trunk, ends⟩ := telemetryRead_ends ks executing reads job kept fails last
      refine ⟨left, corrects, ?_⟩
      rw [if_neg fails, ← telemetryBody_joinChosen]
      exact ⟨trunk, ends⟩

end Sys2Proof.Machine

namespace Sys2Proof.Machine

/-! ## The places of a record in the ring (R168, R174) -/

/-- The byte at place `x` of the ring counted from unit `u` on (R38, R168). -/
def ringByte (first last u x : Nat) : Nat :=
  201326592 + 32 * first + (32 * (u - first) + x) % (32 * (last - first))

/-- The addresses that places cover, in their order. -/
def placeAddresses (places : List (Nat × Nat)) : List Nat := places.flatMap fun p => (List.range p.2).map fun k => p.1 + k

/-- Places laid from unit `u` on follow the ring: after its last unit comes its first (R168, R174). -/
theorem placeAddresses_ringPlaces {first last : Nat} (fuel u units : Nat) (enough : units ≤ fuel) (begins : first ≤ u)
    (inside : u < last) : placeAddresses (ringPlaces first last (fuel + 1) u (32 * units))
      = (List.range (32 * units)).map (ringByte first last u) := by
  induction fuel generalizing u units with
  | zero =>
    obtain rfl : units = 0 := by omega
    rfl
  | succ fuel ih =>
    unfold ringPlaces
    dsimp only
    obtain ⟨k, size⟩ : ∃ k, min (min 1024 (32 * units)) (32 * (last - u)) = 32 * k :=
      ⟨min (min 32 units) (last - u), by omega⟩
    rw [size]
    by_cases none : k = 0
    · obtain rfl : units = 0 := by omega
      simp [none, placeAddresses]
    · rw [if_neg (by omega)]
      have rest : 32 * units - 32 * k = 32 * (units - k) := by omega
      rw [Nat.mul_div_cancel_left k (by decide), rest]
      show (List.range (32 * k)).map _ ++ placeAddresses (ringPlaces first last (fuel + 1) _ _) = _
      have split : List.range (32 * units) = List.range (32 * k) ++ (List.range (32 * (units - k))).map (32 * k + ·) := by
        rw [← List.range_add]; congr 1; omega
      rw [ih _ _ (by omega) (by split <;> omega) (by split <;> omega), split, List.map_append, List.map_map]
      congr 1
      · refine List.map_congr_left fun x hx => ?_
        have below := List.mem_range.mp hx
        unfold ringByte Config.telemetryBase
        rw [Nat.mod_eq_of_lt (by omega)]
        omega
      · refine List.map_congr_left fun x _ => ?_
        unfold ringByte
        simp only [Function.comp_apply]
        split
        · next wraps =>
          have turn : 32 * (u - first) + (32 * k + x) = x + 32 * (last - first) := by omega
          rw [turn, Nat.add_mod_right, Nat.sub_self]
          simp
        · next goesOn =>
          have along : 32 * (u + k - first) + x = 32 * (u - first) + (32 * k + x) := by omega
          rw [along]

theorem ringPlaces_le (first last : Nat) (fuel u n : Nat) : ∀ p ∈ ringPlaces first last fuel u n, p.2 ≤ 1024 := by
  induction fuel generalizing u n with
  | zero => simp [ringPlaces]
  | succ fuel ih =>
    unfold ringPlaces
    dsimp only
    split
    · simp
    · intro p hp
      rcases List.mem_cons.mp hp with rfl | later
      · dsimp only; omega
      · exact ih _ _ p later

/-! ## Bytes laid over places (R174) -/

theorem placeAddresses_length (places : List (Nat × Nat)) : (placeAddresses places).length = (places.map Prod.snd).sum := by
  simp [placeAddresses, List.length_flatMap]

theorem spread_le (places : List (Nat × Nat)) (bytes : List Byte) {most : Nat} (h : ∀ p ∈ places, p.2 ≤ most) :
    ∀ p ∈ spread places bytes, p.2.length ≤ most := by
  induction places generalizing bytes with
  | nil => simp [spread]
  | cons p rest ih =>
    obtain ⟨a, n⟩ := p
    intro q hq
    rcases List.mem_cons.mp hq with rfl | later
    · exact (List.length_take_le _ _).trans (h (a, n) List.mem_cons_self)
    · exact ih _ (fun p hp => h p (List.mem_cons_of_mem _ hp)) q later

/-- Bytes that fill the places stand in them in their order. -/
theorem spread_fills (places : List (Nat × Nat)) (bytes : List Byte) (fills : bytes.length = (places.map Prod.snd).sum) :
    (spread places bytes).flatMap Prod.snd = bytes
    ∧ (spread places bytes).map (fun p => (p.1, p.2.length)) = places := by
  induction places generalizing bytes with
  | nil => simpa [spread] using fills
  | cons p rest ih =>
    obtain ⟨a, n⟩ := p
    rw [List.map_cons, List.sum_cons] at fills
    obtain ⟨data, places⟩ := ih (bytes.drop n) (by rw [List.length_drop]; omega)
    unfold spread
    rw [List.flatMap_cons, data, List.map_cons, places, List.length_take, Nat.min_eq_left (by omega)]
    exact ⟨List.take_append_drop n bytes, rfl⟩

/-! ## The bursts of a write (R57, R174) -/

section
variable (job : BurstJob) (places : List (Nat × List Byte))

theorem writeBursts_map : (writeBursts job places).map (fun b => (b.address, b.data)) = places := by
  induction places with
  | nil => rfl
  | cons p rest ih =>
    obtain ⟨a, d⟩ := p
    cases rest with
    | nil => rfl
    | cons q rest => exact congrArg ((a, d) :: ·) ih

theorem writeBursts_form : ∀ b ∈ writeBursts job places, b.job = job ∧ b.length = b.data.length ∧ b.dropped = false := by
  induction places with
  | nil => simp [writeBursts]
  | cons p rest ih => cases rest <;> simp_all [writeBursts]

/-- Only the last burst is marked last (R57). -/
theorem writeBursts_last (k : Nat) (b : Burst) (at_k : (writeBursts job places)[k]? = some b) :
    b.last = true ↔ k + 1 = (writeBursts job places).length := by
  induction places generalizing k with
  | nil => simp [writeBursts] at at_k
  | cons p rest ih =>
    obtain ⟨a, d⟩ := p
    cases rest with
    | nil =>
      obtain ⟨rfl, rfl⟩ : k = 0 ∧ b = ⟨job, a, d.length, d, true, false⟩ := by
        cases k with
        | zero => exact ⟨rfl, (Option.some.inj at_k).symm⟩
        | succ k => simp [writeBursts] at at_k
      exact ⟨fun _ => rfl, fun _ => rfl⟩
    | cons q rest =>
      have more : writeBursts job (q :: rest) ≠ [] := by cases rest <;> simp [writeBursts]
      have form : writeBursts job ((a, d) :: q :: rest)
          = ⟨job, a, d.length, d, false, false⟩ :: writeBursts job (q :: rest) := rfl
      rw [form] at at_k ⊢
      rw [List.length_cons]
      cases k with
      | zero =>
        obtain rfl := Option.some.inj at_k
        simpa using more
      | succ k =>
        rw [ih k at_k]
        omega

variable {job}

/-- Where the bytes fill the places, the bursts carry them to the addresses of the places. -/
theorem writeBursts_carry (places : List (Nat × Nat)) (bytes : List Byte) (fills : bytes.length = (places.map Prod.snd).sum) :
    burstAddresses (writeBursts job (spread places bytes)) = placeAddresses places
    ∧ (writeBursts job (spread places bytes)).flatMap Burst.data = bytes := by
  obtain ⟨data, sizes⟩ := spread_fills places bytes fills
  have bursts := writeBursts_map job (spread places bytes)
  have covered : (writeBursts job (spread places bytes)).map (fun b => (b.address, b.length)) = places := by
    refine Eq.trans (List.map_congr_left fun b hb => ?_)
      ((List.map_map (f := fun b : Burst => (b.address, b.data)) (g := fun p => (p.1, p.2.length))).symm.trans
        ((congrArg _ bursts).trans sizes))
    rw [(writeBursts_form job _ b hb).2.1]
    rfl
  constructor
  · conv_rhs => rw [← covered]
    unfold burstAddresses placeAddresses
    rw [List.flatMap_map]
  · refine Eq.trans ?_ data
    conv_rhs => rw [← bursts]
    rw [List.flatMap_map]

end

/-! ## The bytes of a record (R170, R171, R202) -/

theorem leBytes_length (n v : Nat) : (leBytes n v).length = n := by
  induction n generalizing v with
  | zero => rfl
  | succ n ih => simp [leBytes, ih]

theorem sle16_length (v : Int) : (sle16 v).length = 2 := leBytes_length 2 _

theorem flatMap_sle16_length {α : Type} (f : α → Int) (xs : List α) :
    (xs.flatMap fun x => sle16 (f x)).length = 2 * xs.length := by
  simp [List.length_flatMap, sle16_length, Nat.mul_comm]

section
variable (s : State) (x : Context)

theorem sectionBytes_length : (s.sectionBytes x).length =
    (if (s.recordSections x).1 = true then 2 * s.slopeTotal else 0)
    + (if (s.recordSections x).2.1 = true then 2 * x.residuals.length else 0)
    + (if (s.recordSections x).2.2 = true then 2 * x.commands.length else 0) := by
  have slopes := flatMap_sle16_length (fun i => x.slopes.get i) (List.range s.slopeTotal)
  have residuals := flatMap_sle16_length (clampInt (-32768) 32767) x.residuals
  have commands : (sle16s x.commands).length = 2 * x.commands.length := flatMap_sle16_length id x.commands
  rw [List.length_range] at slopes
  unfold State.sectionBytes
  dsimp only
  rw [List.length_append, List.length_append, apply_ite List.length, apply_ite List.length, apply_ite List.length, slopes,
    residuals, commands]
  rfl

theorem recordHeader_length (number : BitVec 32) : (s.recordHeader x number).length = 32 := by
  unfold State.recordHeader
  simp only [List.length_append, leBytes_length]

/-- A record is a whole number of units (R171). -/
theorem recordBytes_length (number : BitVec 32) : (s.recordBytes x number).length = 32 * s.recordUnits x := by
  unfold State.recordBytes
  dsimp only
  rw [List.length_append, List.length_replicate, List.length_append, recordHeader_length, State.recordUnits, ceilDiv]
  omega

/-- Less than one unit of zero bytes follows the sections of a record (R171). -/
theorem recordBytes_padded (number : BitVec 32) : ∃ zeros : List Byte, (∀ z ∈ zeros, z = 0) ∧ zeros.length < 32
    ∧ s.recordBytes x number = s.recordHeader x number ++ s.sectionBytes x ++ zeros := by
  refine ⟨_, fun z hz => List.eq_of_mem_replicate hz, ?_, rfl⟩
  rw [List.length_replicate, List.length_append, recordHeader_length, State.recordUnits, ceilDiv]
  omega

end

end Sys2Proof.Machine

namespace Sys2Proof.Machine

/-! ## A record in flight is dropped (R176) -/

section
variable {s : State}

theorem dropRecord_none (idle : s.telemetry.inFlight = none) : s.dropRecord = s := by
  unfold State.dropRecord
  rw [idle]
  rfl

theorem dropRecord_some {o : RecordWrite} (inFlight : s.telemetry.inFlight = some o) :
    s.dropRecord = s.withdrawRecord.bump .telemetryDropped := by
  unfold State.dropRecord
  rw [inFlight]
  rfl

variable (s)

@[simp] theorem State_dropRecord_telemetry : s.dropRecord.telemetry = { s.telemetry with inFlight := none } := by
  cases inFlight : s.telemetry.inFlight with
  | none => rw [dropRecord_none inFlight, ← inFlight]
  | some o => rw [dropRecord_some inFlight, State_bump_telemetry, State_withdrawRecord_telemetry]

@[simp] theorem State_dropRecord_params : s.dropRecord.params = s.params :=
  ((dropRecord_moves s).frame .params (by decide)).symm

@[simp] theorem State_dropRecord_ports : s.dropRecord.ports = s.ports := by
  unfold State.dropRecord
  split
  · exact State_withdrawRecord_ports s
  · rfl

theorem counter_dropRecord {k : Counter} (other : k ≠ .telemetryDropped) : s.dropRecord.counter k = s.counter k := by
  unfold State.dropRecord
  split
  · rw [counter_bump, if_neg other]
    exact counter_congr (State_withdrawRecord_counters s) k
  · rfl

variable {s} {o : RecordWrite} (inFlight : s.telemetry.inFlight = some o)
include inFlight

theorem dropRecord_counted : s.counted s.dropRecord .telemetryDropped 1 := by
  rw [dropRecord_some inFlight]
  exact counted_bump_of (counter_congr (State_withdrawRecord_counters s) _)

theorem dropRecord_ctx : (s.dropRecord.ctx o.ctx).state = .free ∧ ∀ x, x ≠ o.ctx → s.dropRecord.ctx x = s.ctx x := by
  rw [dropRecord_some inFlight]
  exact withdrawRecord_ctx inFlight

theorem dropRecord_arbiter : s.dropRecord.arbiter = s.arbiter.withdraw BurstJob.isTelemetryWrite := by
  rw [dropRecord_some inFlight]
  exact withdrawRecord_arbiter inFlight

end

/-- The contexts that no record in flight is taken from stay when it is dropped. -/
theorem dropRecord_ctx_of {s : State} {c : Ix} (apart : ∀ o, s.telemetry.inFlight = some o → o.ctx ≠ c) :
    s.dropRecord.ctx c = s.ctx c := by
  cases inFlight : s.telemetry.inFlight with
  | none => rw [dropRecord_none inFlight]
  | some o => exact (dropRecord_ctx inFlight).2 c (apart o inFlight).symm

/-! ## The write of a due record (R174, R175) -/

/-- The bursts that write the record of a context to the ring (R174). -/
def State.recordBursts (s : State) (c : Ix) (number : BitVec 32) : List Burst :=
  writeBursts .telemetryWrite
    (spread (s.telemetry.places s.telemetry.writePos (s.recordUnits (s.ctx c))) (s.recordBytes (s.ctx c) number))

/-- The record of a context finds no room in STOP mode (R175). -/
def State.lacksRoom (s : State) (c : Ix) : Prop :=
  s.telemetry.config.fullMode = .stop ∧ s.telemetry.freeSize < s.recordUnits (s.ctx c)

section
variable {s : State} {c : Ix}

theorem beginRecord_refused (full : s.lacksRoom c) (number : BitVec 32) : s.beginRecord c number
    = ((State.raise { s with telemetry := { s.telemetry with state := .stopped } } .telemetryFull).bump .refusedFull).release c :=
  if_pos full

theorem beginRecord_written (room : ¬s.lacksRoom c) (number : BitVec 32) : s.beginRecord c number
    = State.queueBursts { s with telemetry := { s.telemetry with inFlight := some ⟨c, s.recordUnits (s.ctx c)⟩ } }
      (s.recordBursts c number) :=
  if_neg room

theorem beginRecord_refused_telemetry (full : s.lacksRoom c) (number : BitVec 32) :
    (s.beginRecord c number).telemetry = { s.telemetry with state := .stopped } := by
  rw [beginRecord_refused full, State_release_telemetry, State_bump_telemetry]
  exact (raise_untriggered fun on => absurd on.2.2 (by simp)).1

theorem beginRecord_written_telemetry (room : ¬s.lacksRoom c) (number : BitVec 32) : (s.beginRecord c number).telemetry
    = { s.telemetry with inFlight := some ⟨c, s.recordUnits (s.ctx c)⟩ } := by
  rw [beginRecord_written room, State_queueBursts_telemetry]

/-- No record moves the ring or its numbering as it begins or is refused (R174, R175). -/
theorem beginRecord_ring (s : State) (c : Ix) (number : BitVec 32) : let t := s.beginRecord c number
    t.telemetry.phase = s.telemetry.phase ∧ t.telemetry.nextRecord = s.telemetry.nextRecord
    ∧ t.telemetry.lengths = s.telemetry.lengths ∧ t.telemetry.readPos = s.telemetry.readPos
    ∧ t.telemetry.writePos = s.telemetry.writePos := by
  dsimp only
  by_cases full : s.lacksRoom c
  · rw [beginRecord_refused_telemetry full]
    exact ⟨rfl, rfl, rfl, rfl, rfl⟩
  · rw [beginRecord_written_telemetry full]
    exact ⟨rfl, rfl, rfl, rfl, rfl⟩

theorem beginRecord_ctx_ne (number : BitVec 32) {x : Ix} (other : x ≠ c) : (s.beginRecord c number).ctx x = s.ctx x := by
  by_cases full : s.lacksRoom c
  · rw [beginRecord_refused full, release_ctx_ne other]
    exact ctx_congr (State_raise_frames _ _) x
  · rw [beginRecord_written full]
    exact ctx_congr (State_queueBursts_frames _ _) x

theorem counter_beginRecord (number : BitVec 32) {k : Counter}
    (other : k ∉ [.refusedFull, .controlOverflow, .eventFrames, .triggers]) : (s.beginRecord c number).counter k = s.counter k := by
  simp only [List.mem_cons, List.not_mem_nil, or_false, not_or] at other
  obtain ⟨refused, control, reports, triggers⟩ := other
  by_cases full : s.lacksRoom c
  · rw [beginRecord_refused full, counter_congr (State_release_counters _ c), counter_bump, if_neg refused]
    exact counter_raise _ _ control reports triggers
  · rw [beginRecord_written full]
    exact counter_congr (State_queueBursts_counters _ _) k

/-- A refusal is counted, raises TELEMETRY_FULL and releases the context (R175). -/
theorem beginRecord_refuses (full : s.lacksRoom c) (held : (s.ctx c).state ≠ .free) (number : BitVec 32) :
    s.counted (s.beginRecord c number) .refusedFull 1 ∧ s.raised (s.beginRecord c number) .telemetryFull
    ∧ (s.beginRecord c number).ctx c = Context.free := by
  rw [beginRecord_refused full]
  generalize hv : State.raise { s with telemetry := { s.telemetry with state := .stopped } } .telemetryFull = v
  have frames : v.frames = s.frames := by rw [← hv]; exact State_raise_frames _ _
  refine ⟨?_, ?_, release_ctx_free (s := v.bump .refusedFull) (by rw [ctx_congr (t := v.bump .refusedFull) frames]; exact held)⟩
  · rw [State.counted, counter_congr (State_release_counters _ c)]
    refine counted_bump_of ?_
    rw [← hv]
    exact counter_raise _ _ (by decide) (by decide) (by decide)
  · refine raised_of_raise (u := { s with telemetry := { s.telemetry with state := .stopped } }) rfl ?_ ?_
    · rw [hv]
      exact State_release_events _ _
    · rw [hv, counter_congr (State_release_counters _ c), counter_bump, if_neg (by decide)]

theorem push_telemetryWrite (bs : List Burst) (a : Arbiter) (h : ∀ b ∈ bs, b.job = .telemetryWrite) :
    bs.foldl Arbiter.push a = { a with telemetryWrite := a.telemetryWrite ++ bs } := by
  induction bs generalizing a with
  | nil => simp
  | cons b bs ih =>
    have first : a.push b = { a with telemetryWrite := a.telemetryWrite ++ [b] } := by
      unfold Arbiter.push
      rw [h b List.mem_cons_self]
    rw [List.foldl_cons, first, ih _ fun x hx => h x (List.mem_cons_of_mem _ hx)]
    simp

/-- A grant takes bursts out of the telemetry-write queue only (R58). -/
theorem completed_telemetryWrite (a : Arbiter) : ∀ b ∈ a.completed.telemetryWrite, b ∈ a.telemetryWrite := by
  obtain ⟨column, poke, write, read, management, busy⟩ := a
  intro b hb
  unfold Arbiter.completed at hb
  split at hb
  all_goals simp_all

/-- The bursts of a record join the telemetry-write queue, and an idle DRAM begins the next one (R57, R58). -/
theorem beginRecord_written_arbiter (room : ¬s.lacksRoom c) (number : BitVec 32) :
    (s.arbiter.inProgress.isSome = true → (s.beginRecord c number).arbiter
      = { s.arbiter with telemetryWrite := s.arbiter.telemetryWrite ++ s.recordBursts c number })
    ∧ ∀ b ∈ (s.beginRecord c number).arbiter.telemetryWrite, b ∈ s.arbiter.telemetryWrite ++ s.recordBursts c number := by
  have jobs : ∀ b ∈ s.recordBursts c number, b.job = .telemetryWrite := writeBursts_job _ _
  have queued : (s.beginRecord c number).arbiter = (State.grantDram (State.setArbiter s
      { s.arbiter with telemetryWrite := s.arbiter.telemetryWrite ++ s.recordBursts c number })).arbiter := by
    rw [beginRecord_written room]
    unfold State.queueBursts
    rw [push_telemetryWrite _ _ jobs, arbiter_grantDram, arbiter_grantDram]
    rfl
  rw [queued, arbiter_grantDram]
  refine ⟨fun busy => if_pos busy, fun b hb => ?_⟩
  split at hb
  · exact hb
  · exact completed_telemetryWrite _ b hb

end

/-! ## What the bursts of a record carry (R170, R171, R174, R202) -/

section
variable (s : State) (c : Ix) (number : BitVec 32)

theorem recordBursts_form : ∀ b ∈ s.recordBursts c number,
    b.job = .telemetryWrite ∧ b.length ≤ 1024 ∧ b.length = b.data.length ∧ b.dropped = false := by
  intro b hb
  obtain ⟨job, length, kept⟩ := writeBursts_form _ _ b hb
  have carried : (b.address, b.data) ∈ (s.recordBursts c number).map fun b => (b.address, b.data) := List.mem_map_of_mem hb
  rw [State.recordBursts, writeBursts_map] at carried
  have small := spread_le _ _ (ringPlaces_le _ _ _ _ _) _ carried
  exact ⟨job, length.trans_le small, length, kept⟩

/-- From the write position on around the ring, the bursts carry the record whole (R168, R174). -/
theorem recordBursts_carry (begins : s.telemetry.config.ringStart ≤ s.telemetry.writePos)
    (inside : s.telemetry.writePos < s.telemetry.config.ringEnd) :
    burstAddresses (s.recordBursts c number)
      = ringAddresses s.telemetry.config s.telemetry.writePos (s.recordUnits (s.ctx c))
    ∧ (s.recordBursts c number).flatMap Burst.data = s.recordBytes (s.ctx c) number := by
  have around := placeAddresses_ringPlaces (s.recordUnits (s.ctx c)) _ (s.recordUnits (s.ctx c)) (Nat.le_refl _) begins inside
  have fills : (s.recordBytes (s.ctx c) number).length
      = ((s.telemetry.places s.telemetry.writePos (s.recordUnits (s.ctx c))).map Prod.snd).sum := by
    rw [← placeAddresses_length, Telemetry.places, around, recordBytes_length, List.length_map, List.length_range]
  obtain ⟨addresses, data⟩ := writeBursts_carry (job := .telemetryWrite) _ _ fills
  exact ⟨addresses.trans around, data⟩

variable (x : Context)

theorem recordUnits_eq : s.recordUnits x =
    (32 + (if (s.recordSections x).1 = true then 2 * s.slopeTotal else 0)
      + (if (s.recordSections x).2.1 = true then 2 * x.residuals.length else 0)
      + (if (s.recordSections x).2.2 = true then 2 * x.commands.length else 0) + 31) / 32 := by
  rw [State.recordUnits, sectionBytes_length, ceilDiv]
  congr 1
  omega

/-- The header of a record field by field; under the IDLE mark the poke record is a free value (R202, log entry 9). -/
theorem recordHeader_fields : s.recordHeader x number =
    leBytes 4 number.toNat ++ leBytes 2 (s.recordUnits x)
    ++ leBytes 1 ((if (s.recordSections x).1 = true then 1 else 0) + (if (s.recordSections x).2.1 = true then 2 else 0)
      + (if (s.recordSections x).2.2 = true then 4 else 0) + 128 * x.bank.toNat)
    ++ leBytes 1 ((match x.cls with | .none => 0 | .good => 1 | .late => 2 | .incomplete => 3)
      + if x.applied = true then 128 else 0)
    ++ leBytes 2 x.tag.toNat
    ++ leBytes 1 (match x.finishLoop with | .off => 0 | .opened => 1 | .closed => 2 | .held => 3 | .safe => 4)
    ++ leBytes 1 (match x.poke with
      | .idle => 2
      | .active _ .push withheld => if withheld = true then 128 else 0
      | .active _ .pull withheld => if withheld = true then 129 else 1)
    ++ leBytes 4 x.openTime.toNat ++ leBytes 4 x.finishTime.toNat ++ leBytes 2 x.flags.toNat
    ++ leBytes 1 x.frameMask.toNat ++ leBytes 1 x.segFlags.toNat ++ leBytes 2 x.label.toNat
    ++ leBytes 2 s.slopeTotal ++ leBytes 2 s.params.actuators
    ++ (match x.poke with | .idle => leBytes 2 PokeMark.idle.recordField | .active k _ _ => leBytes 2 k) := by
  have sections : boolCode (s.recordSections x).1 + 2 * boolCode (s.recordSections x).2.1 + 4 * boolCode (s.recordSections x).2.2
      = (if (s.recordSections x).1 = true then 1 else 0) + (if (s.recordSections x).2.1 = true then 2 else 0)
        + (if (s.recordSections x).2.2 = true then 4 else 0) := by
    simp [boolCode]
  have applied : 128 * boolCode x.applied = if x.applied = true then 128 else 0 := by simp [boolCode]
  have cls : x.cls.code = match x.cls with | .none => 0 | .good => 1 | .late => 2 | .incomplete => 3 := by
    cases x.cls <;> rfl
  have finish : x.finishLoop.code = match x.finishLoop with | .off => 0 | .opened => 1 | .closed => 2 | .held => 3 | .safe => 4 := by
    cases x.finishLoop <;> rfl
  have mark : x.poke.code = match x.poke with
      | .idle => 2
      | .active _ .push withheld => if withheld = true then 128 else 0
      | .active _ .pull withheld => if withheld = true then 129 else 1 := by
    rcases x.poke with _ | ⟨k, phase, withheld⟩
    · rfl
    · cases phase <;> rfl
  have poke : leBytes 2 x.poke.recordField
      = match x.poke with | .idle => leBytes 2 PokeMark.idle.recordField | .active k _ _ => leBytes 2 k := by
    cases x.poke <;> rfl
  unfold State.recordHeader
  dsimp only
  rw [sections, applied, cls, finish, mark, poke]

theorem sectionBytes_fields : s.sectionBytes x =
    (if (s.recordSections x).1 = true then
      (List.range s.slopeTotal).flatMap (fun i => leBytes 2 (BitVec.ofInt 16 (x.slopes.get i)).toNat) else [])
    ++ (if (s.recordSections x).2.1 = true then x.residuals.flatMap
      (fun e => leBytes 2 (BitVec.ofInt 16 (max (-32768) (min 32767 e))).toNat) else [])
    ++ (if (s.recordSections x).2.2 = true then
      x.commands.flatMap (fun p => leBytes 2 (BitVec.ofInt 16 p).toNat) else []) := by
  have clamped : (fun e => sle16 (clampInt (-32768) 32767 e))
      = fun e => leBytes 2 (BitVec.ofInt 16 (max (-32768) (min 32767 e))).toNat := by
    funext e
    rw [clampInt_eq_max_min (by decide)]
    rfl
  unfold State.sectionBytes
  dsimp only
  rw [clamped]
  rfl

end

end Sys2Proof.Machine

namespace Sys2Proof.Machine

/-! ## The offer of a finished frame (R173) -/

/-- The capture takes part in the offer of frames: RUNNING or TRIGGERED (R172, R173). -/
def Telemetry.captures (t : Telemetry) : Prop := t.state = .running ∨ t.state = .triggered

/-- The Telemetry Unit once a frame in phase 0 has taken the next record number (R170, R173). -/
def Telemetry.numbered (t : Telemetry) : Telemetry := { t with phase := t.nextPhase, nextRecord := t.nextRecord + 1 }

/-- The state in which a record is due: the frame has its number, and a record still in flight has been dropped (R173, R176). -/
def State.recordDue (s : State) : State := State.dropRecord { s with telemetry := s.telemetry.numbered }

section
variable {s : State} {c : Ix}

theorem offer_rests (rests : ¬s.telemetry.captures) : s.offer c = s.release c := if_neg rests

theorem offer_skips (captures : s.telemetry.captures) (skips : s.telemetry.phase ≠ 0) :
    s.offer c = State.release { s with telemetry := { s.telemetry with phase := s.telemetry.nextPhase } } c :=
  (if_pos captures).trans (if_neg skips)

theorem offer_records (captures : s.telemetry.captures) (due : s.telemetry.phase = 0) :
    s.offer c = s.recordDue.beginRecord c s.telemetry.nextRecord :=
  (if_pos captures).trans (if_pos due)

theorem recordDue_telemetry (s : State) : s.recordDue.telemetry = { s.telemetry.numbered with inFlight := none } :=
  State_dropRecord_telemetry _

theorem counter_recordDue (s : State) {k : Counter} (other : k ≠ .telemetryDropped) : s.recordDue.counter k = s.counter k :=
  counter_dropRecord _ other

theorem recordDue_idle (idle : s.telemetry.inFlight = none) : s.recordDue = { s with telemetry := s.telemetry.numbered } :=
  dropRecord_none idle

theorem recordDue_sections (s : State) (x : Context) : s.recordDue.recordSections x = s.recordSections x := by
  unfold State.recordSections State.isTail
  rw [recordDue_telemetry, State.recordDue, State_dropRecord_params]
  rfl

theorem recordDue_slopeTotal (s : State) : s.recordDue.slopeTotal = s.slopeTotal := by
  have ports : s.recordDue.ports = s.ports := State_dropRecord_ports _
  unfold State.slopeTotal
  rw [port_congr ports, port_congr ports]

theorem recordDue_sectionBytes (s : State) (x : Context) : s.recordDue.sectionBytes x = s.sectionBytes x := by
  unfold State.sectionBytes
  dsimp only
  rw [recordDue_sections, recordDue_slopeTotal]

theorem recordDue_recordUnits (s : State) (x : Context) : s.recordDue.recordUnits x = s.recordUnits x := by
  unfold State.recordUnits
  rw [recordDue_sectionBytes]

/-- The dropping of another record leaves the bytes of a record that is due (R171, R176). -/
theorem recordDue_recordBytes (s : State) (x : Context) (number : BitVec 32) :
    s.recordDue.recordBytes x number = s.recordBytes x number := by
  have params : s.recordDue.params = s.params := State_dropRecord_params _
  unfold State.recordBytes State.recordHeader
  dsimp only
  rw [recordDue_sections, recordDue_slopeTotal, recordDue_recordUnits, recordDue_sectionBytes, params]

theorem recordDue_ctx (apart : ∀ o, s.telemetry.inFlight = some o → o.ctx ≠ c) : s.recordDue.ctx c = s.ctx c :=
  dropRecord_ctx_of (s := { s with telemetry := s.telemetry.numbered }) apart

theorem recordDue_lacksRoom (apart : ∀ o, s.telemetry.inFlight = some o → o.ctx ≠ c) : s.recordDue.lacksRoom c
    ↔ s.telemetry.config.fullMode = .stop ∧ s.telemetry.ringSize - s.telemetry.lengths.sum < s.recordUnits (s.ctx c) := by
  unfold State.lacksRoom
  rw [recordDue_ctx apart, recordDue_recordUnits, recordDue_telemetry]
  rfl

/-- What an offer in phase 0 does whether its record finds room or not (R173, R174, R176). -/
theorem offer_due (captures : s.telemetry.captures) (due : s.telemetry.phase = 0) :
    (s.offer c).telemetry.phase = s.telemetry.nextPhase
    ∧ (s.offer c).telemetry.nextRecord = s.telemetry.nextRecord + 1 ∧ (s.offer c).telemetry.lengths = s.telemetry.lengths
    ∧ (s.offer c).telemetry.readPos = s.telemetry.readPos ∧ (s.offer c).telemetry.writePos = s.telemetry.writePos
    ∧ (s.telemetry.inFlight = none → (s.offer c).counter .telemetryDropped = s.counter .telemetryDropped)
    ∧ ∀ o, s.telemetry.inFlight = some o →
      s.counted (s.offer c) .telemetryDropped 1 ∧ (o.ctx ≠ c → ((s.offer c).ctx o.ctx).state = .free) := by
  rw [offer_records captures due]
  obtain ⟨phase, number, lengths, readPos, writePos⟩ := beginRecord_ring s.recordDue c s.telemetry.nextRecord
  rw [recordDue_telemetry] at phase number lengths readPos writePos
  refine ⟨phase, number, lengths, readPos, writePos, fun idle => ?_, fun o inFlight => ⟨?_, fun other => ?_⟩⟩
  · rw [counter_beginRecord _ (by decide), recordDue_idle idle]
    rfl
  · rw [State.counted, counter_beginRecord _ (by decide)]
    exact dropRecord_counted (s := { s with telemetry := s.telemetry.numbered }) inFlight
  · rw [beginRecord_ctx_ne _ other]
    exact (dropRecord_ctx (s := { s with telemetry := s.telemetry.numbered }) inFlight).1

end

/-- A record of `n` units is in flight: its bursts have joined the telemetry-write queue in place of those of a record dropped, and
carry its bytes from the write position on around the ring (R170, R174, R176). -/
structure State.WritesRecord (s t : State) (n : Nat) (bytes : List Byte) (bs : List Burst) : Prop where
  joined : s.telemetry.inFlight = none → s.arbiter.inProgress.isSome = true →
    t.arbiter = { s.arbiter with telemetryWrite := s.arbiter.telemetryWrite ++ bs }
  replaced : ∀ b ∈ t.arbiter.telemetryWrite, s.telemetry.inFlight ≠ none → b.job = .telemetryWrite → b ∈ bs
  form : ∀ b ∈ bs, b.job = .telemetryWrite ∧ b.length ≤ 1024 ∧ b.length = b.data.length ∧ b.dropped = false
  last : ∀ k b, bs[k]? = some b → (b.last = true ↔ k + 1 = bs.length)
  carries : s.telemetry.config.ringStart ≤ s.telemetry.writePos → s.telemetry.writePos < s.telemetry.config.ringEnd →
    burstAddresses bs = ringAddresses s.telemetry.config s.telemetry.writePos n ∧ bs.flatMap Burst.data = bytes

section
variable {s : State} {c : Ix} (captures : s.telemetry.captures) (due : s.telemetry.phase = 0)
  (apart : ∀ o, s.telemetry.inFlight = some o → o.ctx ≠ c)
include captures due apart

/-- A due record for which the ring has no room in STOP mode (R175). -/
theorem offer_refuses (held : (s.ctx c).state ≠ .free) (full : s.telemetry.config.fullMode = .stop
    ∧ s.telemetry.ringSize - s.telemetry.lengths.sum < s.recordUnits (s.ctx c)) :
    (s.offer c).telemetry.state = .stopped ∧ (s.offer c).telemetry.inFlight = none ∧ s.counted (s.offer c) .refusedFull 1
    ∧ s.raised (s.offer c) .telemetryFull ∧ (s.offer c).ctx c = Context.free := by
  have full := (recordDue_lacksRoom apart).mpr full
  rw [← recordDue_ctx apart] at held
  obtain ⟨counted, raised, released⟩ := beginRecord_refuses full held s.telemetry.nextRecord
  unfold State.counted State.raised at *
  rw [counter_recordDue s (by decide)] at counted raised
  rw [offer_records captures due]
  refine ⟨?_, ?_, counted, raised, released⟩
  · rw [beginRecord_refused_telemetry full]
  · rw [beginRecord_refused_telemetry full, recordDue_telemetry]

/-- A due record that finds room is in flight, and its context is kept (R174). -/
theorem offer_writes (room : ¬(s.telemetry.config.fullMode = .stop
    ∧ s.telemetry.ringSize - s.telemetry.lengths.sum < s.recordUnits (s.ctx c))) :
    (s.offer c).telemetry.state = s.telemetry.state ∧ (s.offer c).telemetry.inFlight = some ⟨c, s.recordUnits (s.ctx c)⟩
    ∧ (s.offer c).ctx c = s.ctx c ∧ ∃ bs, s.WritesRecord (s.offer c) (s.recordUnits (s.ctx c))
      (s.recordBytes (s.ctx c) s.telemetry.nextRecord) bs := by
  have room := mt (recordDue_lacksRoom apart).mp room
  have ctx := recordDue_ctx apart
  have telemetry := beginRecord_written_telemetry room s.telemetry.nextRecord
  have queued := beginRecord_written_arbiter room s.telemetry.nextRecord
  rw [offer_records captures due]
  rw [recordDue_telemetry, ctx, recordDue_recordUnits] at telemetry
  refine ⟨by rw [telemetry]; rfl, by rw [telemetry], ?_, s.recordDue.recordBursts c s.telemetry.nextRecord, ?_⟩
  · rw [beginRecord_written room, ← ctx]
    exact ctx_congr (State_queueBursts_frames _ _) c
  · refine ⟨fun idle busy => ?_, fun b hb inFlight job => ?_, recordBursts_form _ _ _, writeBursts_last _ _, fun begins inside => ?_⟩
    · have arbiter : s.recordDue.arbiter = s.arbiter := by rw [recordDue_idle idle]
      rw [arbiter] at queued
      exact queued.1 busy
    · obtain ⟨o, inFlight⟩ := Option.ne_none_iff_exists'.mp inFlight
      have arbiter : s.recordDue.arbiter = s.arbiter.withdraw BurstJob.isTelemetryWrite :=
        dropRecord_arbiter (s := { s with telemetry := s.telemetry.numbered }) inFlight
      refine (List.mem_append.mp (queued.2 b hb)).resolve_left fun kept => ?_
      rw [arbiter] at kept
      simpa [BurstJob.isTelemetryWrite, job] using (List.mem_filter.mp kept).2
    · have carry := recordBursts_carry s.recordDue c s.telemetry.nextRecord
      rw [recordDue_telemetry, ctx, recordDue_recordUnits, recordDue_recordBytes] at carry
      exact carry begins inside

end

/-- Settles O60: the offer by capture state, phase and room, the trigger by its three conditions. -/
theorem telemetryOfferIsRecordedDroppedOrRefused : Obligations.TelemetryOfferIsRecordedDroppedOrRefused := by
  refine ⟨fun s c done => ⟨_, rfl, ?_⟩, fun s e => ?_⟩
  · have held : (s.ctx c).state ≠ .free := by rw [done]; decide
    split
    · next rests =>
      rw [offer_rests rests]
      exact ⟨State_release_telemetry s c, release_ctx_free held, State_release_arbiter s c⟩
    next captures =>
    have captures : s.telemetry.captures := not_not.mp captures
    by_cases due : s.telemetry.phase = 0
    · obtain ⟨phase, number, lengths, readPos, writePos, idle, dropped⟩ := offer_due (c := c) captures due
      refine ⟨phase, ?_⟩
      rw [if_neg (not_not.mpr due)]
      refine ⟨number, lengths, readPos, writePos, idle, dropped, ?_⟩
      intro apart x slopes residuals commands n ofContext slopes_eq residuals_eq commands_eq size
      subst ofContext
      have sections : s.recordSections (s.ctx c) = (slopes, residuals, commands) := by
        rw [slopes_eq, residuals_eq, commands_eq]; rfl
      have units : n = s.recordUnits (s.ctx c) := by rw [size, recordUnits_eq, sections]
      subst units
      split
      · next full => exact offer_refuses captures due apart held full
      · next room =>
        obtain ⟨state, inFlight, ctx, bs, writes⟩ := offer_writes captures due apart room
        refine ⟨state, inFlight, ctx, bs, writes.joined, writes.replaced, writes.form, writes.last, fun begins inside => ?_⟩
        obtain ⟨addresses, data⟩ := writes.carries begins inside
        obtain ⟨zeros, zero, short, bytes⟩ := recordBytes_padded s (s.ctx c) s.telemetry.nextRecord
        refine ⟨addresses, leBytes 2 PokeMark.idle.recordField, zeros, leBytes_length _ _, zero, short, ?_⟩
        rw [data, bytes, recordHeader_fields, sectionBytes_fields, sections]
        simp only [List.append_assoc] <;> rfl
    · refine ⟨?_, ?_⟩
      · rw [offer_skips captures due, State_release_telemetry]
        rfl
      · rw [if_pos due, offer_skips captures due, State_release_telemetry]
        exact ⟨rfl, release_ctx_free held, State_release_arbiter _ c⟩
  · split
    · next triggers =>
      obtain ⟨telemetry, counted, raised⟩ := raise_triggers triggers
      rw [telemetry]
      exact ⟨counted, rfl, fun none => ⟨if_pos none, raised none⟩, fun some => if_neg some⟩
    · next untriggered => exact raise_untriggered untriggered

end Sys2Proof.Machine

/-! SUPPORT. The proofs of the statements about the Management Unit (chapter 11): counters and power-on reset, the raising of
events, the watchdogs and the holdoff, CLEAR FAULT and the common refusals, node parameters, the requests that need the Memory
Arbiter, and reads. -/

namespace Sys2Proof.Machine

-- One theorem after the other, so that checking the whole package keeps to few threads.
set_option Elab.async false

/-! ## Counters, and power-on reset (R193, R196) -/

/-- Settles O6: each command but those two is a chain of moves by which no counter falls. -/
theorem countersNeverFall : Obligations.CountersNeverFall := by
  intro i s laws notReset notClear
  obtain ⟨t, step, moves⟩ := exec_movesBy i s notReset notClear
  exact ⟨t, step, fun c => moves.rise laws c.number⟩

/-- Settles O3: the power-on state meets each law, with any straps. -/
theorem powerOnStateMeetsTheLaws : Obligations.PowerOnStateMeetsTheLaws := ⟨powerOn_inv, powerOn_inv 0 0⟩

section
variable (n : BitVec 3) (e : Nat) (waiting : List Instr)

theorem powerOn_port (p : Ix) : State.port { State.powerOn n e with pending := waiting } p = Port.powerOn := by cases p <;> rfl

theorem powerOn_ctx (c : Ix) : State.ctx { State.powerOn n e with pending := waiting } c = Context.free := by cases c <;> rfl

theorem powerOn_bank (b : Ix) : State.bank { State.powerOn n e with pending := waiting } b = Bank.powerOn := by cases b <;> rfl

end

/-- Settles O8: the node is in the power-on state, in which both ports, contexts and banks are alike. -/
theorem powerOnResetSetsPowerOnValues : Obligations.PowerOnResetSetsPowerOnValues := by
  intro n s
  refine ⟨{ State.powerOn n (s.dram.epoch + 1) with pending := s.pending }, rfl, rfl, rfl, rfl, fun _ => rfl, rfl, rfl, rfl, rfl,
    rfl, rfl, rfl, rfl, rfl, rfl, fun _ => rfl, fun p => ?_, fun c => ?_, fun b => ?_, rfl, rfl, rfl, rfl, rfl, rfl, rfl, rfl, rfl,
    rfl, rfl, rfl, rfl, rfl, rfl, rfl, rfl, rfl, rfl, rfl⟩
  · rw [powerOn_port]; exact ⟨rfl, rfl, rfl, rfl, rfl, rfl, rfl⟩
  · rw [powerOn_ctx]; rfl
  · rw [powerOn_bank]; exact ⟨rfl, rfl⟩

end Sys2Proof.Machine

namespace Sys2Proof.Machine

-- One theorem after the other, so that checking the whole package keeps to few threads.
set_option Elab.async false

/-! ## The raising and reporting of an event (R190, R191, R195) -/

theorem Event_bit_lt (e : Event) : e.bit < 32 := by cases e <;> decide

theorem hasEvent_and (a b : EventSet) (e : Event) : hasEvent (a &&& b) e = (hasEvent a e && hasEvent b e) := by simp [hasEvent]

theorem hasEvent_not (a : EventSet) (e : Event) : hasEvent (~~~a) e = !hasEvent a e := by simp [hasEvent, Event_bit_lt e]

theorem ne_zero_of_hasEvent {a : EventSet} {e : Event} (h : hasEvent a e = true) : a ≠ 0 := by
  rintro rfl
  simp [hasEvent] at h

section
variable (s : State) (e : Event)

/-- What makes an event reportable (R191). -/
theorem hasEvent_reportable : hasEvent s.reportable e =
    (hasEvent s.events.pending e && hasEvent s.events.enabled e && !(hasEvent s.events.reported e && hasEvent fatalSet e)
      && (s.poke.isNone || hasEvent s.events.critical e)) := by
  unfold State.reportable
  cases s.poke <;> simp [hasEvent_and, hasEvent_not]

/-- The event side once an EVENT frame has been placed (R191). -/
theorem placeEvent_events : s.placeEvent.events = { s.events with
    pending := s.events.pending &&& ~~~(s.reportable &&& transientSet)
    reported := s.events.reported ||| (s.reportable &&& fatalSet)
    frameNumber := s.events.frameNumber + 1
    holdoff := if s.params.eventHoldoff = 0 then none else some s.now } := by
  simp [State.placeEvent, State.now]

/-- The state once an event's indication is set and the capture triggered, before the report test (R177, R190). -/
def State.indicated : State :=
  if s.isPending e then s.setPending e else ((s.setPending e).joinLaterCauses e).triggerCapture e

theorem raise_eq_reportTest : s.raise e = (s.indicated e).reportTest := rfl

/-- The trigger of the capture may make one more event pending, and changes nothing else of the events (R177). -/
theorem triggerCapture_events : ∃ more, (s.triggerCapture e).events = { s.events with pending := s.events.pending ||| more } := by
  unfold State.triggerCapture
  split
  · dsimp only
    split
    · exact ⟨_, rfl⟩
    · exact ⟨0, by simp⟩
  · exact ⟨0, by simp⟩

theorem indicated_events :
    ∃ more, (s.indicated e).events = { s.events with pending := s.events.pending ||| e.single ||| more } := by
  unfold State.indicated
  split
  · exact ⟨0, by simp [State.setPending]⟩
  · obtain ⟨more, events⟩ := triggerCapture_events ((s.setPending e).joinLaterCauses e) e
    exact ⟨more, by rw [events]; simp [State.setPending]⟩

theorem indicated_mgmt : (s.indicated e).mgmt = s.mgmt := by
  unfold State.indicated; split
  · rfl
  · simp

theorem indicated_poke : (s.indicated e).poke = s.poke := by
  unfold State.indicated; split
  · rfl
  · simp

theorem indicated_isPending : (s.indicated e).isPending e = true := by
  obtain ⟨more, events⟩ := indicated_events s e
  simp [State.isPending, events, hasEvent_or, hasEvent_single]

/-- What the trigger adds to the pending events leaves the raised event reportable. -/
theorem indicated_reportable : hasEvent (s.indicated e).reportable e = hasEvent (s.setPending e).reportable e := by
  obtain ⟨more, events⟩ := indicated_events s e
  have poke : (s.setPending e).poke = s.poke := rfl
  rw [hasEvent_reportable, hasEvent_reportable, indicated_poke, events, poke]
  simp [State.setPending, hasEvent_or, hasEvent_single]

end

section
variable {s : State}

/-- Nothing is reported while report enable is off, the holdoff runs, or a NODE RESET waits (R191, R195). -/
theorem reportTest_held (h : s.events.reportEnable = false ∨ s.events.holdoff.isSome = true ∨ s.mgmt.reset ≠ .none) :
    s.reportTest = s := by
  rcases h with off | runs | waits
  · exact reportTest_silent (.inl off)
  · exact reportTest_silent (.inr runs)
  · exact if_neg (by simp [waits])

theorem reportTest_places (enabled : s.events.reportEnable = true) (expired : s.events.holdoff = none)
    (noReset : s.mgmt.reset = .none) (some : s.reportable ≠ 0) : s.reportTest = s.placeEvent :=
  if_pos (by simpa [enabled, expired, noReset] using some)

/-- An event that an EVENT frame reports leaves pending if transient, and has its reported mark if fatal. -/
theorem placeEvent_reports {e : Event} (reported : hasEvent s.reportable e = true) :
    (hasEvent fatalSet e = false → s.placeEvent.isPending e = false)
    ∧ (hasEvent fatalSet e = true → hasEvent s.placeEvent.events.reported e = true) := by
  have transient := hasEvent_fatal_or_transient e
  rw [State.isPending, placeEvent_events]
  exact ⟨fun fatal => by simp [hasEvent_and, hasEvent_not, reported, transient, fatal],
    fun fatal => by simp [hasEvent_or, hasEvent_and, reported, fatal]⟩

end

/-- Settles O11: the event is indicated, and the report test then places a frame or does nothing. -/
theorem raisedEventPendsOrIsReported : Obligations.RaisedEventPendsOrIsReported := by
  intro s e
  obtain ⟨raised, latched⟩ := raise_raised s e
  obtain ⟨more, events⟩ := indicated_events s e
  refine ⟨latched, raised, fun held => ?_, fun enabled expired noReset reportable => ?_⟩
  · have silent : (s.indicated e).reportTest = s.indicated e := reportTest_held (by rw [events, indicated_mgmt]; exact held)
    rw [raise_eq_reportTest, silent]
    exact ⟨indicated_isPending s e, by rw [events]⟩
  · rw [← indicated_reportable] at reportable
    have places : (s.indicated e).reportTest = (s.indicated e).placeEvent := reportTest_places
      (by rw [events]; exact enabled) (by rw [events]; exact expired) (by rw [indicated_mgmt]; exact noReset)
      (ne_zero_of_hasEvent reportable)
    rw [raise_eq_reportTest, places]
    exact ⟨by rw [placeEvent_events, events], placeEvent_reports reportable⟩

end Sys2Proof.Machine

namespace Sys2Proof.Machine

-- One theorem after the other, so that checking the whole package keeps to few threads.
set_option Elab.async false

/-- Placing an EVENT frame counts it and places its bytes (R191, R193). -/
theorem placeEvent_counted (s : State) : s.counted s.placeEvent .eventFrames 1 :=
  counted_bump_of (counter_placeControl s _ (by decide))

theorem placeEvent_trunk (s : State) : s.placeEvent.trunk = (s.placeControl ⟨s.eventFrame s.reportable, false⟩).trunk := rfl

/-! ## Request watchdogs and the event holdoff (R46, R188, R191) -/

section
variable (s : State)

theorem mem_withdraw {a : Arbiter} {p : BurstJob → Bool} {b : Burst}
    (mem : b ∈ (a.withdraw p).telemetryRead ++ (a.withdraw p).management) : p b.job = false := by
  simp only [Arbiter.withdraw, List.mem_append, List.mem_filter, Bool.not_eq_true'] at mem
  rcases mem with ⟨-, left⟩ | ⟨-, left⟩ <;> exact left

/-- A request in execution that its watchdog withdraws: counted, answered, and none of its bursts queued any more (R46, R188). -/
theorem withdrawExecution_spec (e : Execution) : (s.withdrawExecution e).mgmt.executing = none
    ∧ s.counted (s.withdrawExecution e) .timedOut 1 ∧ s.countedIf (s.withdrawExecution e) e.transfer.isLoad .loadsTimedOut
    ∧ (s.withdrawExecution e).trunk = (s.respond e.request .timedOut none []).trunk
    ∧ ∀ b ∈ (s.withdrawExecution e).arbiter.telemetryRead ++ (s.withdrawExecution e).arbiter.management,
        b.job.isRequest = false := by
  unfold State.withdrawExecution
  dsimp only
  refine ⟨by simp, ?_, ?_, respond_trunk_congr _ _ _ _ (by simp) (by simp), fun b mem => ?_⟩
  · unfold State.counted
    rw [counter_respond _ _ _ _ _ (by decide), counter_bumpIf, if_neg (by simp)]
    exact counted_bump_of rfl
  · unfold State.countedIf
    rw [counter_respond _ _ _ _ _ (by decide), counter_bumpIf]
    have same : ((s.withdraw BurstJob.isRequest).leaveExecution.bump .timedOut).counter .loadsTimedOut
        = s.counter .loadsTimedOut := (counter_bump _ _ _).trans (if_neg (by decide))
    rw [same]
    simp
  · rw [State_respond_arbiter, State_bumpIf_arbiter] at mem
    exact mem_withdraw (a := s.arbiter) mem

/-- A staged entry that its watchdog has taken out of its queue (R188). -/
theorem stagedTimedOut_spec {α : Type} (e : StagedEntry α) : s.counted (s.stagedTimedOut e) .timedOut 1
    ∧ (s.stagedTimedOut e).trunk = (s.respond e.request .timedOut none []).trunk := by
  refine ⟨?_, respond_trunk_congr _ _ _ _ rfl rfl⟩
  unfold State.counted State.stagedTimedOut
  rw [counter_respond _ _ _ _ _ (by decide)]
  exact counted_bump s .timedOut

/-- The request in execution at its watchdog's end: once begun nothing happens to it (R188). -/
theorem executionWatchdog_spec (e : Execution) (executing : s.mgmt.executing = some e) :
    (e.begun = true → exec (.requestWatchdogExpiry .execution) s = .next s)
    ∧ (e.begun = false → exec (.requestWatchdogExpiry .execution) s = .next ((s.advanceTo e.moment).withdrawExecution e)) := by
  have step : exec (.requestWatchdogExpiry .execution) s
      = .next (if e.begun then s else (s.advanceTo e.moment).withdrawExecution e) := by
    show execRequestWatchdogExpiry .execution s = _
    unfold execRequestWatchdogExpiry
    rw [executing]
  exact ⟨fun begun => by rw [step, if_pos begun], fun waits => by rw [step, if_neg (by simp [waits])]⟩

theorem slopeWatchdog_exec {e : StagedEntry SlopeWrite} {rest : List (StagedEntry SlopeWrite)}
    (first : takeSoonest s.now StagedEntry.moment s.mgmt.slopeQueue = some (e, rest)) :
    exec (.requestWatchdogExpiry .slopeSide) s
      = .next (State.stagedTimedOut { s.advanceTo e.moment with mgmt := { s.mgmt with slopeQueue := rest } } e) := by
  show execRequestWatchdogExpiry .slopeSide s = _
  unfold execRequestWatchdogExpiry
  rw [first]

theorem actuatorWatchdog_exec {e : StagedEntry ActuatorWrite} {rest : List (StagedEntry ActuatorWrite)}
    (first : takeSoonest s.now StagedEntry.moment s.mgmt.actuatorQueue = some (e, rest)) :
    exec (.requestWatchdogExpiry .actuatorSide) s
      = .next (State.stagedTimedOut { s.advanceTo e.moment with mgmt := { s.mgmt with actuatorQueue := rest } } e) := by
  show execRequestWatchdogExpiry .actuatorSide s = _
  unfold execRequestWatchdogExpiry
  rw [first]

/-- The state in which the holdoff has expired at its moment, before the report test (R191, log entry 14). -/
def State.holdoffOver (m : Time) : State := { s.advanceTo m with events := { s.events with holdoff := none } }

theorem eventHoldoffExpiry_exec {u : Time} (runs : s.events.holdoff = some u) : exec .eventHoldoffExpiry s
    = .next (s.holdoffOver (after u (1000 * s.params.eventHoldoff))).reportTest := by
  show execEventHoldoffExpiry s = _
  unfold execEventHoldoffExpiry State.holdoffMoment?
  rw [runs]
  rfl

theorem holdoffOver_eq (m : Time) : s.holdoffOver m = { s with
    frames := { s.frames with timebase := if hasReached s.now m = true then s.now else m }
    events := { s.events with holdoff := none } } := by
  rw [State.holdoffOver, advanceTo_eq]

/-- The report test at the end of the holdoff (R191, R195). -/
theorem holdoffOver_reportTest (m : Time) : (s.holdoffOver m).reportTest
    = if s.events.reportEnable = true ∧ s.mgmt.reset = .none ∧ s.reportable ≠ 0 then (s.holdoffOver m).placeEvent
      else s.holdoffOver m := by
  have reportable : (s.holdoffOver m).reportable = s.reportable := by rw [holdoffOver_eq]; rfl
  have enable : (s.holdoffOver m).events.reportEnable = s.events.reportEnable := rfl
  have reset : (s.holdoffOver m).mgmt.reset = s.mgmt.reset := by rw [holdoffOver_eq]
  unfold State.reportTest
  rw [reportable, enable, reset]
  refine if_congr ?_ rfl rfl
  simp [State.holdoffOver, and_assoc]

end

/-- Settles O45, watchdog by watchdog, and the holdoff by what is reportable at its end. -/
theorem watchdogsWithdrawAndTheHoldoffReports : Obligations.WatchdogsWithdrawAndTheHoldoffReports := by
  intro s
  refine ⟨fun e executing => ?_, fun e rest first => ?_, fun e rest first => ?_, fun u m runs moment => ?_⟩
  · obtain ⟨begun, waits⟩ := executionWatchdog_spec s e executing
    obtain ⟨gone, timedOut, loads, trunk, bursts⟩ := withdrawExecution_spec (s.advanceTo e.moment) e
    refine ⟨begun, fun waiting => ⟨_, waits waiting, gone, ?_, ?_, trunk.trans ?_, bursts⟩⟩
    · rwa [State.counted, counter_congr (advanceTo_counters s _)] at timedOut
    · rwa [State.countedIf, counter_congr (advanceTo_counters s _)] at loads
    · exact respond_trunk_congr _ _ _ _ (advanceTo_trunk s _) (by rw [advanceTo_eq])
  · obtain ⟨timedOut, trunk⟩ :=
      stagedTimedOut_spec { s.advanceTo e.moment with mgmt := { s.mgmt with slopeQueue := rest } } e
    refine ⟨_, slopeWatchdog_exec s first, ?_⟩
    rw [advanceTo_eq] at timedOut trunk ⊢
    exact ⟨by simp [State.stagedTimedOut], timedOut, trunk.trans (respond_trunk_congr _ _ _ _ rfl rfl),
      by simp [State.stagedTimedOut], by simp [State.stagedTimedOut]⟩
  · obtain ⟨timedOut, trunk⟩ :=
      stagedTimedOut_spec { s.advanceTo e.moment with mgmt := { s.mgmt with actuatorQueue := rest } } e
    refine ⟨_, actuatorWatchdog_exec s first, ?_⟩
    rw [advanceTo_eq] at timedOut trunk ⊢
    exact ⟨by simp [State.stagedTimedOut], timedOut, trunk.trans (respond_trunk_congr _ _ _ _ rfl rfl),
      by simp [State.stagedTimedOut]⟩
  · have step := eventHoldoffExpiry_exec s runs
    rw [← moment] at step
    have now : (s.holdoffOver m).reportTest.now = if hasReached s.now m = true then s.now else m := by
      rw [State.now, State_reportTest_frames]
      exact advanceTo_now s m
    refine ⟨_, step, now, ?_⟩
    rw [now, holdoffOver_reportTest, holdoffOver_eq]
    split
    · refine ⟨placeEvent_events _, placeEvent_counted _, (placeEvent_trunk _).trans ?_⟩
      rw [advanceTo_eq]
      exact placeControl_trunk_congr _ rfl
    · exact ⟨rfl, rfl⟩

end Sys2Proof.Machine

namespace Sys2Proof.Machine

-- One theorem after the other, so that checking the whole package keeps to few threads.
set_option Elab.async false

/-! ## CLEAR FAULT (R3, R145, R146, R154, R194) -/

section
variable (s : State)

/-- What an accepted CLEAR FAULT leaves before its answer (R194). -/
def State.faultsCleared : State := s.accepted.clearLatches.restartPorts.clearTail

theorem clearFault_exec {r : Request} (oldest : s.oldest? .clearFault = some r) (form : r.form = 0) (empty : r.body = []) :
    exec .clearFault s = .next (s.faultsCleared.done r []).reportTest := by
  show execClearFault s = _
  unfold execClearFault
  rw [serve_eq _ oldest, State.clearFault, judge_passed _ _ _ _ (by simp [Request.plain, form]),
    judge_passed _ _ _ _ (by simp [Request.bodyIs, empty]), judge_nil]
  rfl

/-- While no fatal event is latched, a report marks none, and the latches stay clear (R191). -/
theorem reportTest_unlatched (latches : s.events.pending &&& fatalSet = 0) (marks : s.events.reported = 0) :
    s.reportTest.events.pending &&& fatalSet = 0 ∧ s.reportTest.events.reported = 0 := by
  have reportable : ∃ x, s.reportable = s.events.pending &&& x := by
    unfold State.reportable
    cases s.poke
    · exact ⟨_, BitVec.and_assoc _ _ _⟩
    · exact ⟨_, by simp only [Option.isSome_some, if_true, BitVec.and_assoc]; rfl⟩
  have masked (x : EventSet) : s.events.pending &&& x &&& fatalSet = 0 := by
    rw [BitVec.and_assoc, BitVec.and_comm x, ← BitVec.and_assoc, latches]
    exact BitVec.zero_and
  obtain ⟨x, reportable⟩ := reportable
  unfold State.reportTest
  split
  · rw [placeEvent_events, marks, reportable]
    exact ⟨masked _, by dsimp only; rw [masked]; rfl⟩
  · exact ⟨latches, marks⟩

theorem restartPorts_port (p : Ix) : s.restartPorts.port p = (s.port p).restart := by
  unfold State.restartPorts State.completionTests
  rw [State_port_completionTest, State_port_completionTest]
  cases p <;> rfl

theorem restart_state (x : Port) : x.restart.state = if x.state = .stopped then .running else x.state := by
  unfold Port.restart; split <;> rfl

/-- What the restart of the ports leaves alone. -/
theorem restartPorts_frame : s.restartPorts.loop = s.loop ∧ s.restartPorts.mirror = s.mirror
    ∧ s.restartPorts.safeOut = s.safeOut ∧ s.restartPorts.params = s.params ∧ s.restartPorts.events = s.events
    ∧ s.restartPorts.mgmt = s.mgmt ∧ s.restartPorts.trunk = s.trunk ∧ s.restartPorts.nodeNumber = s.nodeNumber := by
  simp [State.restartPorts, State.completionTests]

theorem leaveSafe_releaseSnapshot_eq (l : Loop) : l.leaveSafe.releaseSnapshot = { l with
    state := if l.state = .safe then .off else l.state
    parkRefresh := if l.state = .safe then none else l.parkRefresh
    snapshotState := if l.snapshotState = .held then .released else l.snapshotState } := by
  unfold Loop.releaseSnapshot Loop.leaveSafe
  split <;> split <;> simp_all

/-- At a tail the misses are forgotten, SAFE is left and the snapshot released; elsewhere nothing of the loop changes (R145, R146,
R154). -/
theorem clearTail_eq : s.clearTail = if s.isTail = true then
    { s with
      mirror := { s.mirror with misses := 0 }
      loop := { s.loop with
        state := if s.loop.state = .safe then .off else s.loop.state
        parkRefresh := if s.loop.state = .safe then none else s.loop.parkRefresh
        snapshotState := if s.loop.snapshotState = .held then .released else s.loop.snapshotState }
      safeOut := if s.loop.state = .safe then false else s.safeOut }
    else s := by
  unfold State.clearTail
  rw [leaveSafe_releaseSnapshot_eq]

/-- What a CLEAR FAULT leaves of the loop, its pins and the mirror link (R145, R146, R154). -/
theorem faultsCleared_loop (t : State) (loop : t.loop = s.faultsCleared.loop) (mirror : t.mirror = s.faultsCleared.mirror)
    (safeOut : t.safeOut = s.faultsCleared.safeOut) : if s.isTail = true then
      t.mirror = { s.mirror with misses := 0 } ∧ t.loop.snapshot = s.loop.snapshot
      ∧ t.loop.snapshotState = (if s.loop.snapshotState = .held then .released else s.loop.snapshotState)
      ∧ (s.loop.state = .safe → t.loop.state = .off ∧ t.safeOut = false ∧ t.loop.parkRefresh = none)
      ∧ (s.loop.state ≠ .safe → t.loop.state = s.loop.state ∧ t.safeOut = s.safeOut)
    else t.loop = s.loop ∧ t.safeOut = s.safeOut ∧ t.mirror = s.mirror := by
  obtain ⟨keptLoop, keptMirror, keptSafeOut, params, -⟩ := restartPorts_frame s.accepted.clearLatches
  have tail : s.accepted.clearLatches.restartPorts.isTail = s.isTail := by unfold State.isTail; rw [params]; rfl
  rw [loop, mirror, safeOut, State.faultsCleared, clearTail_eq, tail]
  split
  · dsimp only
    rw [keptLoop, keptMirror, keptSafeOut]
    exact ⟨rfl, rfl, rfl, fun safe => ⟨if_pos safe, if_pos safe, if_pos safe⟩, fun other => ⟨if_neg other, if_neg other⟩⟩
  · exact ⟨keptLoop, keptSafeOut, keptMirror⟩

theorem clearTail_frame : s.clearTail.ports = s.ports ∧ s.clearTail.events = s.events ∧ s.clearTail.mgmt = s.mgmt
    ∧ s.clearTail.trunk = s.trunk ∧ s.clearTail.nodeNumber = s.nodeNumber := by
  rw [clearTail_eq]; split <;> exact ⟨rfl, rfl, rfl, rfl, rfl⟩

/-- What a CLEAR FAULT makes of events and ports, and what of its answer (R194). -/
theorem faultsCleared_frame : s.faultsCleared.events
      = { s.events with pending := s.events.pending &&& ~~~fatalSet, reported := 0 }
    ∧ (∀ p, s.faultsCleared.port p = (s.port p).restart) ∧ s.faultsCleared.mgmt = s.dequeue.mgmt
    ∧ s.faultsCleared.trunk = s.trunk ∧ s.faultsCleared.nodeNumber = s.nodeNumber := by
  obtain ⟨-, -, -, -, events, mgmt, trunk, node⟩ := restartPorts_frame s.accepted.clearLatches
  obtain ⟨ports', events', mgmt', trunk', node'⟩ := clearTail_frame s.accepted.clearLatches.restartPorts
  refine ⟨events'.trans events, fun p => ?_, mgmt'.trans mgmt, trunk'.trans trunk, node'.trans node⟩
  exact (port_congr ports' p).trans (restartPorts_port _ p)

end

section
variable {s : State} {r : Request}

theorem clearFault_spec (oldest : s.oldest? .clearFault = some r) (form : r.form = 0) (empty : r.body = []) :
    ∃ t, exec .clearFault s = .next t
      ∧ t.events.pending &&& fatalSet = 0 ∧ t.events.reported = 0 ∧ t.events.enabled = s.events.enabled
      ∧ t.events.critical = s.events.critical ∧ t.events.reportEnable = s.events.reportEnable
      ∧ (∀ p : Ix, (t.port p).state = if (s.port p).state = .stopped then .running else (s.port p).state)
      ∧ (if s.isTail = true then
          t.mirror = { s.mirror with misses := 0 } ∧ t.loop.snapshot = s.loop.snapshot
          ∧ t.loop.snapshotState = (if s.loop.snapshotState = .held then .released else s.loop.snapshotState)
          ∧ (s.loop.state = .safe → t.loop.state = .off ∧ t.safeOut = false ∧ t.loop.parkRefresh = none)
          ∧ (s.loop.state ≠ .safe → t.loop.state = s.loop.state ∧ t.safeOut = s.safeOut)
        else t.loop = s.loop ∧ t.safeOut = s.safeOut ∧ t.mirror = s.mirror)
      ∧ (s.events.reportEnable = false ∨ s.events.holdoff.isSome = true → s.answered t r .done none []) := by
  obtain ⟨events, ports, mgmt, trunk, node⟩ := faultsCleared_frame s
  have answerEvents : (s.faultsCleared.done r []).events = _ := (State_respond_events _ _ _ _ _).trans events
  obtain ⟨enabled, critical, reportEnable⟩ := reportTest_settings (s.faultsCleared.done r [])
  obtain ⟨latches, marks⟩ := reportTest_unlatched (s.faultsCleared.done r [])
    (by rw [answerEvents]; dsimp only; rw [BitVec.and_assoc]; simp [fatalSet]) (by rw [answerEvents])
  rw [answerEvents] at enabled critical reportEnable
  refine ⟨_, clearFault_exec s oldest form empty, latches, marks, enabled, critical, reportEnable, fun p => ?_,
    faultsCleared_loop s _ (by simp [State.done]) (by simp [State.done]) (by simp [State.done]), fun quiet => ?_⟩
  · rw [← restart_state, ← ports]
    exact congrArg Port.state (port_congr (by simp [State.done]) p)
  · have silent : (s.faultsCleared.done r []).reportTest = s.faultsCleared.done r [] :=
      reportTest_silent (by rw [answerEvents]; exact quiet)
    rw [silent]
    exact done_answered r [] mgmt trunk node

/-! ## Refusals (R184, R201) -/

/-- A refused request is answered and counted, and leaves the loop, the Poke Engine and the tables alone (R183). -/
theorem refuse_spec (s : State) (r : Request) (st : Status) : s.answered (s.dequeue.refuse r st) r st none []
    ∧ s.counted (s.dequeue.refuse r st) .requestsRefused 1 ∧ (s.dequeue.refuse r st).loop = s.loop
    ∧ (s.dequeue.refuse r st).poke = s.poke ∧ (s.dequeue.refuse r st).tables = s.tables := by
  obtain ⟨answered, -⟩ := refuse_answered s r st
  obtain ⟨loop, tables⟩ := refuse_loop s r st
  obtain ⟨-, poke, -⟩ := refuse_sparesPoke s r st
  exact ⟨answered, (counter_respond _ _ _ _ _ (by decide)).trans (counted_bump s.dequeue .requestsRefused), loop, poke, tables⟩

/-- Off the tail the requests of the tail fail at their first check (R184). -/
theorem serve_offTail {i : Instr} {f : State → Request → State} {rest : List (Bool × Status)} {g : State → State}
    (oldest : s.oldest? i = some r) (offTail : s.isTail = false)
    (judged : f s.dequeue r = s.dequeue.judge r (s.dequeue.atTail :: rest) g) :
    s.serve i f = s.dequeue.refuse r .notTail := by
  rw [serve_eq f oldest, judged]
  exact judge_failed _ _ _ _ offTail

theorem tailRequest_refused {i : Instr} (offTail : s.isTail = false) (i_mem : i = .loopOff ∨ i = .loopOpen ∨ i = .loopClose
      ∨ i = .loopHold ∨ i = .resetIntegrators ∨ (i = .pokeStop ∧ r.form = 0))
    (oldest : s.oldest? i = some r) : exec i s = .next (s.dequeue.refuse r .notTail) := by
  rcases i_mem with rfl | rfl | rfl | rfl | rfl | ⟨rfl, form⟩
  · exact congrArg Host.Outcome.next (serve_offTail (f := State.loopOff) oldest offTail rfl)
  · exact congrArg Host.Outcome.next (serve_offTail (f := State.loopOpen) oldest offTail rfl)
  · exact congrArg Host.Outcome.next (serve_offTail (f := State.loopClose) oldest offTail rfl)
  · exact congrArg Host.Outcome.next (serve_offTail (f := State.loopHold) oldest offTail rfl)
  · exact congrArg Host.Outcome.next (serve_offTail (f := State.resetIntegrators) oldest offTail rfl)
  · exact congrArg Host.Outcome.next (serve_offTail (f := State.pokeStop) oldest offTail
      (judge_passed _ _ _ _ (by simp [Request.plain, form])))

theorem object?_isSome_iff (r : Request) : r.object?.isSome = true ↔ 4 < r.payload.length := by
  unfold Request.object? Request.body
  cases tail : r.payload.drop 4 with
  | nil => simpa using List.drop_eq_nil_iff.mp tail
  | cons b bs =>
    have length := congrArg List.length tail
    simp only [List.length_drop, List.length_cons] at length
    simp
    omega

theorem otherStatus_eq (r : Request) : r.otherStatus
    = if 4 < r.payload.length ∧ r.kind = 2 ∧ r.form = 0 then .badObject else .badRequest := by
  unfold Request.otherStatus
  refine if_congr ?_ rfl rfl
  rw [object?_isSome_iff]
  constructor
  · rintro ⟨-, kind, form, long⟩
    exact ⟨long, kind, form⟩
  · rintro ⟨long, kind, form⟩
    exact ⟨long.le, kind, form, long⟩

theorem writeObjectOther_exec (oldest : s.oldest? .writeObjectOther = some r) :
    exec .writeObjectOther s = .next (s.dequeue.refuse r r.otherStatus) :=
  congrArg Host.Outcome.next (serve_eq _ oldest)

end

/-- Settles O58: CLEAR FAULT by what it clears, and the refusals by their first failing check. -/
theorem clearFaultAndRefusals : Obligations.ClearFaultAndRefusals := by
  intro s r
  refine ⟨clearFault_spec, fun i offTail i_mem oldest => ?_, fun oldest => ?_⟩
  · exact ⟨_, tailRequest_refused ((isTail_eq_false_iff s).mpr offTail) i_mem oldest, refuse_spec s r .notTail⟩
  · obtain ⟨answered, counted, -⟩ := refuse_spec s r r.otherStatus
    rw [otherStatus_eq] at answered
    refine ⟨_, writeObjectOther_exec oldest, counted, ?_⟩
    rwa [otherStatus_eq]

end Sys2Proof.Machine

namespace Sys2Proof.Machine

-- One theorem after the other, so that checking the whole package keeps to few threads.
set_option Elab.async false

/-- A request some of whose checks fail is refused with the status of the first of them (R183, R184). -/
theorem judge_of_failure (s : State) (r : Request) {checks : List (Bool × Status)} (f : State → State) {st : Status}
    (failed : firstFailure checks = some st) : s.judge r checks f = s.refuse r st := by unfold State.judge; rw [failed]

/-- The oldest request is carried out where all its checks pass (R183). -/
theorem dequeue_judge_of_none (s : State) (r : Request) {checks : List (Bool × Status)} (f : State → State)
    (passed : firstFailure checks = none) : s.dequeue.judge r checks f = f s.accepted := by
  unfold State.judge; rw [passed]; rfl

/-! ## Node parameters (R31, R76, R150, R186) -/

section
variable (s : State) (new : Params)

/-- The state with new parameters in force, before a scheduled swap is looked at again (R150, R186). -/
def State.parametersSet : State :=
  { s with
    params := new
    mirror := if s.isTail && !({ s with params := new } : State).isTail then s.mirror.silenced else s.mirror }

theorem setParams_eq : s.setParams new =
    if new.actuators = s.params.actuators then s.parametersSet new else (s.parametersSet new).recheckSwap := by
  have set : (if s.isTail && !({ s with params := new } : State).isTail then
      { s with params := new, mirror := s.mirror.silenced } else { s with params := new }) = s.parametersSet new := by
    unfold State.parametersSet
    split <;> rfl
  unfold State.setParams
  dsimp only
  rw [set]

/-- New parameters change besides themselves the mirror link, and, with A changed, a scheduled swap (R49, R150). -/
theorem setParams_spec : (s.setParams new).params = new ∧ (s.setParams new).mirror = (s.parametersSet new).mirror
    ∧ (s.setParams new).mgmt = s.mgmt ∧ (s.setParams new).trunk = s.trunk ∧ (s.setParams new).nodeNumber = s.nodeNumber
    ∧ (∀ k, k ≠ .swapsCancelled → (s.setParams new).counter k = s.counter k)
    ∧ (new.actuators = s.params.actuators → (s.setParams new).bankStore = s.bankStore) := by
  rw [setParams_eq]
  split
  · exact ⟨rfl, rfl, rfl, rfl, rfl, fun _ _ => rfl, fun _ => rfl⟩
  · next changed =>
    obtain ⟨-, counters, banks, table, eq⟩ := recheckSwap_sameButSwap (s.parametersSet new)
    refine ⟨?_, ?_, ?_, ?_, ?_, counters, fun same => absurd same changed⟩ <;> rw [eq] <;> rfl

end

section
variable {s : State} {r : Request}

theorem writeNodeParameters_exec (oldest : s.oldest? .writeNodeParameters = some r) : exec .writeNodeParameters s
    = .next (s.dequeue.judge r (s.paramChecks r) fun t => (t.setParams (t.params.setItems r.items)).done r []) :=
  congrArg Host.Outcome.next (serve_eq _ oldest)

/-- An accepted write of the node parameters (R186). -/
theorem setParams_answers (new : Params) : let t := (s.accepted.setParams new).done r []
    s.answered t r .done none [] ∧ s.counted t .requestsAccepted 1 ∧ t.params = new
    ∧ t.mirror = (if s.isTail = true ∧ t.isTail = false then { s.mirror with
        sending := s.mirror.sending.map (fun f => { f with makesEntry := false }), waiting := none, echoes := [] }
      else s.mirror)
    ∧ (new.actuators = s.params.actuators → t.bankStore = s.bankStore) := by
  obtain ⟨params, mirror, mgmt, trunk, node, counters, banks⟩ := setParams_spec s.accepted new
  dsimp only
  have params' : ((s.accepted.setParams new).done r []).params = new := (State_respond_params _ _ _ _ _).trans params
  have tail : ((s.accepted.setParams new).done r []).isTail = ({ s with params := new } : State).isTail := by
    unfold State.isTail; rw [params']
  refine ⟨done_answered r [] mgmt trunk node, ?_, params', ?_, fun same => ?_⟩
  · rw [State.counted, State.done, counter_respond _ _ _ _ _ (by decide), counters _ (by decide)]
    exact counted_bump s.dequeue .requestsAccepted
  · rw [tail, State.done, State_respond_mirror, mirror]
    refine if_congr ?_ rfl rfl
    rw [Bool.and_eq_true, Bool.not_eq_true']
    rfl
  · exact (State_respond_bankStore _ _ _ _ _).trans (banks same)

/-- Role and A are as they were, or the node is quiet, where the checks have passed (R186). -/
theorem paramChecks_passed (passed : firstFailure (s.paramChecks r) = none) :
    r.items.all (fun i => paramInRange i.1 i.2) = true ∧ (s.params.setItems r.items).dAsm < (s.params.setItems r.items).dDel
    ∧ (s.quiet = false → (s.params.setItems r.items).role = s.params.role
        ∧ (s.params.setItems r.items).actuators = s.params.actuators) := by
  have checks := firstFailure_none passed
  simp only [State.paramChecks, List.mem_cons, forall_eq_or_imp, Bool.and_eq_true, decide_eq_true_eq] at checks
  obtain ⟨-, -, -, ⟨inRange, order⟩, allowed, -⟩ := checks
  refine ⟨inRange, order, fun busy => ?_⟩
  simpa [State.paramsAllowed, busy] using allowed

end

/-- Settles O48, by the first check that fails and by what an accepted write leaves. -/
theorem nodeParameterWritesAreCheckedWhole : Obligations.NodeParameterWritesAreCheckedWhole := by
  intro s r oldest
  refine ⟨_, writeNodeParameters_exec oldest, ?_⟩
  cases passed : firstFailure (s.paramChecks r) with
  | some st =>
    obtain ⟨answered, counted, -⟩ := refuse_spec s r st
    obtain ⟨params, mirror⟩ : (s.dequeue.refuse r st).params = s.params ∧ (s.dequeue.refuse r st).mirror = s.mirror := by
      simp [State.refuse]
    rw [judge_of_failure _ r _ passed]
    exact ⟨⟨answered, counted, params, mirror⟩, fun _ => by rw [params]; exact ⟨rfl, rfl⟩⟩
  | none =>
    obtain ⟨inRange, order, kept⟩ := paramChecks_passed passed
    obtain ⟨answered, counted, params, mirror, banks⟩ := setParams_answers (s := s) (r := r) (s.params.setItems r.items)
    rw [dequeue_judge_of_none _ r _ passed]
    rw [show s.accepted.params = s.params from rfl, params]
    exact ⟨⟨answered, counted, order, fun k => Params.setItems_values _ _ _ inRange, mirror, banks⟩, kept⟩

end Sys2Proof.Machine

namespace Sys2Proof.Machine

-- One theorem after the other, so that checking the whole package keeps to few threads.
set_option Elab.async false

/-! ## The command that executes a request (R183, R199) -/

section
variable {s : State} {i : Instr} {r : Request}

theorem oldest?_some (oldest : s.oldest? i = some r) : r.instr = i ∧ s.mgmt.executing = none := by
  unfold State.oldest? at oldest
  split at oldest
  · split at oldest
    · next ready =>
      obtain ⟨executing, -, command⟩ := ready
      obtain rfl := Option.some.inj oldest
      exact ⟨command, executing⟩
    · cases oldest
  · cases oldest

/-- The commands that execute a READ OBJECT. -/
def isRead : Instr → Bool
  | .readObject | .readCounters | .readMatrixColumnSegment | .readPokeRecords => true
  | _ => false

theorem isRead_writeInstr (o : Option Nat) : isRead (writeInstr o) = false := by unfold writeInstr; split <;> rfl

theorem isRead_loopInstr (k : Nat) : isRead (loopInstr k) = false := by unfold loopInstr; split <;> rfl

theorem isRead_telemetryInstr (k : Nat) : isRead (telemetryInstr k) = false := by unfold telemetryInstr; split <;> rfl

/-- Such a command executes no request but a READ OBJECT. -/
theorem instr_of_isRead (h : isRead r.instr = true) : r.instr = readInstr r.object? := by
  unfold Request.instr at h ⊢
  split
  · next short => rw [if_pos short] at h; exact absurd h (by decide)
  · next long =>
    rw [if_neg long] at h
    generalize r.kind = kind at h ⊢
    split at h
    · rfl
    all_goals first | cases h | simp [isRead_writeInstr, isRead_loopInstr, isRead_telemetryInstr] at h

/-- The objects that each command reads (R185). -/
theorem readInstr_object (o : Option Nat) : match readInstr o with
    | .readPokeRecords => o = some 10
    | .readMatrixColumnSegment => o = some 12
    | .readCounters => o = some 18
    | _ => o ≠ some 10 ∧ o ≠ some 12 ∧ o ≠ some 18 := by
  by_cases poke : o = some 10
  · subst poke; rfl
  by_cases matrix : o = some 12
  · subst matrix; rfl
  by_cases counters : o = some 18
  · subst counters; rfl
  have other : readInstr o = .readObject := by unfold readInstr; split <;> simp_all
  rw [other]
  exact ⟨poke, matrix, counters⟩

theorem oldest?_read (oldest : s.oldest? i = some r) (reads : isRead i = true) : readInstr r.object? = i := by
  obtain ⟨command, -⟩ := oldest?_some oldest
  rw [← command, instr_of_isRead (by rw [command]; exact reads)]

theorem object?_of_counters (oldest : s.oldest? .readCounters = some r) : r.object? = some 18 := by
  have object := readInstr_object r.object?
  rwa [oldest?_read oldest rfl] at object

theorem object?_of_readback (oldest : s.oldest? .readMatrixColumnSegment = some r) : r.object? = some 12 := by
  have object := readInstr_object r.object?
  rwa [oldest?_read oldest rfl] at object

theorem object?_of_pokeRecords (oldest : s.oldest? .readPokeRecords = some r) : r.object? = some 10 := by
  have object := readInstr_object r.object?
  rwa [oldest?_read oldest rfl] at object

theorem object?_of_object (oldest : s.oldest? .readObject = some r) :
    r.object? ≠ some 10 ∧ r.object? ≠ some 12 ∧ r.object? ≠ some 18 := by
  have object := readInstr_object r.object?
  rwa [oldest?_read oldest rfl] at object

/-- The first byte of the body names the object of a read. -/
theorem object?_eq_field (r : Request) : r.object? = if r.body = [] then none else some (r.field 0 1) := by
  unfold Request.object? Request.field fieldAt
  cases r.body with
  | nil => rfl
  | cons b bs => simp [leNat]

end

/-! ## Bursts of a request (R57, R58, R178) -/

/-- A burst with its mark as the last one set or clear. -/
def Burst.marked (b : Burst) (last : Bool) : Burst := { b with last := last }

theorem markLast_getElem? (bs : List Burst) (k : Nat) :
    (markLast bs)[k]? = bs[k]?.map (fun b => b.marked (decide (k + 1 = bs.length))) := by
  induction bs generalizing k with
  | nil => rfl
  | cons b rest ih =>
    cases rest with
    | nil => cases k <;> rfl
    | cons x rest =>
      rw [markLast]
      · cases k with
        | zero => rfl
        | succ k => simp [ih k]
      · rintro ⟨⟩

theorem markLast_range (n : Nat) (f : Nat → Burst) :
    markLast ((List.range n).map f) = (List.range n).map (fun k => (f k).marked (decide (k + 1 = n))) := by
  refine List.ext_getElem? fun k => ?_
  rw [markLast_getElem?]
  by_cases inside : k < n
  · simp [inside]
  · simp [Nat.not_lt.mp inside]

theorem writeBursts_eq_markLast (job : BurstJob) (places : List (Nat × List Byte)) :
    writeBursts job places = markLast (places.map fun p => ⟨job, p.1, p.2.length, p.2, false, false⟩) := by
  induction places with
  | nil => rfl
  | cons p rest ih =>
    cases rest with
    | nil => rfl
    | cons q rest => exact congrArg _ ih

theorem readBursts_eq_markLast (job : BurstJob) (places : List (Nat × Nat)) :
    readBursts job places = markLast (places.map fun p => ⟨job, p.1, p.2, [], false, false⟩) := by
  induction places with
  | nil => rfl
  | cons p rest ih =>
    cases rest with
    | nil => rfl
    | cons q rest => exact congrArg _ ih

theorem writeBursts_range (job : BurstJob) (n : Nat) (f : Nat → Nat × List Byte) : writeBursts job ((List.range n).map f)
    = (List.range n).map (fun k => ⟨job, (f k).1, (f k).2.length, (f k).2, k + 1 = n, false⟩) := by
  rw [writeBursts_eq_markLast, List.map_map]
  exact markLast_range n _

theorem readBursts_range (job : BurstJob) (n : Nat) (f : Nat → Nat × Nat) : readBursts job ((List.range n).map f)
    = (List.range n).map (fun k => ⟨job, (f k).1, (f k).2, [], k + 1 = n, false⟩) := by
  rw [readBursts_eq_markLast, List.map_map]
  exact markLast_range n _

/-- A burst of the management-transfer requester (R57). -/
def BurstJob.isTransfer : BurstJob → Bool
  | .loadColumn | .readback | .pokeRecordWrite | .pokeRecordRead => true
  | _ => false

theorem push_transfers (bs : List Burst) (a : Arbiter) (h : ∀ b ∈ bs, b.job.isTransfer = true) :
    bs.foldl Arbiter.push a = { a with management := a.management ++ bs } := by
  induction bs generalizing a with
  | nil => simp
  | cons b bs ih =>
    have pushed : a.push b = { a with management := a.management ++ [b] } := by
      have transfer := h b List.mem_cons_self
      unfold Arbiter.push
      cases job : b.job <;> simp [job, BurstJob.isTransfer] at transfer ⊢
    rw [List.foldl_cons, pushed, ih _ fun x mem => h x (List.mem_cons_of_mem _ mem)]
    simp

theorem push_recordReads (bs : List Burst) (a : Arbiter) (h : ∀ b ∈ bs, b.job.isTelemetryRead = true) :
    bs.foldl Arbiter.push a = { a with telemetryRead := a.telemetryRead ++ bs } := by
  induction bs generalizing a with
  | nil => simp
  | cons b bs ih =>
    have pushed : a.push b = { a with telemetryRead := a.telemetryRead ++ [b] } := by
      have read := h b List.mem_cons_self
      unfold Arbiter.push
      cases job : b.job <;> simp [job, BurstJob.isTelemetryRead] at read ⊢
    rw [List.foldl_cons, pushed, ih _ fun x mem => h x (List.mem_cons_of_mem _ mem)]
    simp

/-! ## A request goes into execution (R183, R188) -/

section
variable (s : State) (r : Request) (x : Transfer) (bs : List Burst)

theorem execute_arbiter : (s.accepted.execute r x bs).arbiter
    = if (bs.foldl Arbiter.push s.arbiter).inProgress.isSome then bs.foldl Arbiter.push s.arbiter
      else (bs.foldl Arbiter.push s.arbiter).completed := arbiter_grantDram _

/-- A grant changes nothing of the requests but the mark that the one in execution has begun (R188). -/
theorem grantDram_mgmt : s.grantDram.mgmt = s.mgmt ∨ s.grantDram.mgmt = s.markBegun.mgmt := by
  unfold State.grantDram
  split
  · exact .inl rfl
  · split
    · exact .inl rfl
    · unfold State.beginBurst
      split
      · exact .inr (by rw [State_beginLoad_mgmt]; rfl)
      · exact .inr rfl
      · exact .inr rfl
      · exact .inr rfl
      · exact .inr rfl
      · exact .inl rfl

theorem execute_executes : s.executes (s.accepted.execute r x bs) r x := by
  unfold State.execute State.queueBursts
  dsimp only
  generalize entered : (State.setArbiter _ _ : State) = u
  obtain ⟨executing, queue, trunk, counters⟩ : u.mgmt.executing = some ⟨r, s.now, 1000 * s.params.requestWatchdog, false, x⟩
      ∧ u.mgmt.queue = s.mgmt.queue.drop 1 ∧ u.trunk = s.trunk ∧ u.counters = s.accepted.counters := by
    rw [← entered]; exact ⟨rfl, rfl, rfl, rfl⟩
  refine ⟨?_, ?_, by rw [State_grantDram_trunk, trunk], ?_⟩
  · rcases grantDram_mgmt u with same | begun
    · exact ⟨_, by rw [same, executing], rfl, rfl, rfl, rfl⟩
    · exact ⟨_, by rw [begun, State.markBegun, executing]; rfl, rfl, rfl, rfl, rfl⟩
  · rw [(grantDram_held u).2, queue]
  · rw [State.counted, counter_congr ((State_grantDram_counters u).trans counters)]
    exact counted_bump s.dequeue .requestsAccepted

theorem execute_placesTransfers (transfers : ∀ b ∈ bs, b.job.isTransfer = true) :
    s.placesTransfers (s.accepted.execute r x bs) bs := by
  unfold State.placesTransfers
  rw [execute_arbiter, push_transfers bs _ transfers]
  refine ⟨fun busy => if_pos busy, fun idle => ?_⟩
  rw [idle]
  cases bs <;> rfl

theorem execute_placesRecordReads (reads : ∀ b ∈ bs, b.job.isTelemetryRead = true) :
    s.placesRecordReads (s.accepted.execute r x bs) bs := by
  unfold State.placesRecordReads
  rw [execute_arbiter, push_recordReads bs _ reads]
  refine ⟨fun busy => if_pos busy, fun idle => ?_⟩
  rw [idle]
  cases bs <;> rfl

end

end Sys2Proof.Machine

namespace Sys2Proof.Machine

-- One theorem after the other, so that checking the whole package keeps to few threads.
set_option Elab.async false

/-! ## The records chosen by a READ TELEMETRY (R168, R178) -/

namespace Telemetry

theorem advance_advance (t : Telemetry) (u m n : Nat) : t.advance (t.advance u m) n = t.advance u (m + n) := by
  unfold advance
  rw [Nat.add_sub_cancel_left, Nat.mod_add_mod, Nat.add_assoc]

/-- Held records of these lengths, one behind the other from unit `u` on, of which nothing has been read yet. -/
def recordsFrom (t : Telemetry) (u : Nat) : List Nat → List ChosenRecord
  | [] => []
  | len :: rest => ⟨u, len, []⟩ :: t.recordsFrom (t.advance u len) rest

/-- The unit at which record `k` begins, where the first begins at unit `u`. -/
def unitFrom (t : Telemetry) (u : Nat) (lengths : List Nat) (k : Nat) : Nat :=
  if k = 0 then u else t.advance u (lengths.take k).sum

theorem recordsFrom_eq (t : Telemetry) (u : Nat) (lengths : List Nat) : t.recordsFrom u lengths
    = (List.range lengths.length).map (fun k => ⟨t.unitFrom u lengths k, lengths.getD k 0, []⟩) := by
  induction lengths generalizing u with
  | nil => rfl
  | cons len rest ih =>
    rw [recordsFrom, ih, List.length_cons, List.range_succ_eq_map, List.map_cons, List.map_map]
    refine congrArg _ (List.map_congr_left fun k _ => ?_)
    have unit : t.unitFrom (t.advance u len) rest k = t.unitFrom u (len :: rest) (k + 1) := by
      unfold unitFrom
      rw [if_neg (Nat.succ_ne_zero k), List.take_succ_cons, List.sum_cons, ← advance_advance]
      split
      · next first => simp [first, advance]
      · rfl
    simp [unit]

/-- A READ TELEMETRY chooses the longest run from the oldest record on that its count allows and that fits (R178). -/
theorem choose_spec (t : Telemetry) (n u room : Nat) (lengths : List Nat) : ∃ m, m ≤ n ∧ m ≤ lengths.length
    ∧ 32 * (lengths.take m).sum ≤ room
    ∧ (m = n ∨ m = lengths.length ∨ room < 32 * (lengths.take (m + 1)).sum)
    ∧ t.choose n u room lengths = t.recordsFrom u (lengths.take m) := by
  induction lengths generalizing n u room with
  | nil => exact ⟨0, Nat.zero_le _, Nat.le_refl _, Nat.zero_le _, .inr (.inl rfl), by cases n <;> rfl⟩
  | cons len rest ih =>
    cases n with
    | zero => exact ⟨0, Nat.le_refl _, Nat.zero_le _, Nat.zero_le _, .inl rfl, rfl⟩
    | succ n =>
      unfold choose
      by_cases fits : 32 * len ≤ room
      · obtain ⟨m, count, held, within, longest, chosen⟩ := ih n (t.advance u len) (room - 32 * len)
        refine ⟨m + 1, by omega, Nat.succ_le_succ held, ?_, ?_, ?_⟩
        · rw [List.take_succ_cons, List.sum_cons]; omega
        · rw [List.take_succ_cons, List.sum_cons, List.length_cons]; omega
        · rw [if_pos fits, chosen]; rfl
      · exact ⟨0, Nat.zero_le _, Nat.zero_le _, Nat.zero_le _, .inr (.inr (by simpa using fits)), if_neg fits⟩

/-- The places of records one behind the other follow the ring (R168). -/
theorem placeAddresses_recordsFrom (t : Telemetry) (u : Nat) (lengths : List Nat) (begins : t.config.ringStart ≤ u)
    (inside : u < t.config.ringEnd) :
    (t.recordsFrom u lengths).flatMap (fun k => placeAddresses (t.places k.unit k.units))
      = (List.range (32 * lengths.sum)).map (ringByte t.config.ringStart t.config.ringEnd u) := by
  induction lengths generalizing u with
  | nil => rfl
  | cons len rest ih =>
    have size : 0 < t.ringSize := by unfold ringSize; omega
    have turn := Nat.mod_lt (u - t.config.ringStart + len) size
    have next : t.config.ringStart ≤ t.advance u len ∧ t.advance u len < t.config.ringEnd := by
      unfold advance
      unfold ringSize at turn ⊢
      omega
    rw [recordsFrom, List.flatMap_cons, ih _ next.1 next.2, List.sum_cons, Nat.mul_add, List.range_add, List.map_append,
      List.map_map]
    refine congrArg₂ _ (placeAddresses_ringPlaces len u len (Nat.le_refl _) begins inside) (List.map_congr_left fun x _ => ?_)
    show ringByte _ _ (t.config.ringStart + (u - t.config.ringStart + len) % (t.config.ringEnd - t.config.ringStart)) x
      = ringByte _ _ u (32 * len + x)
    unfold ringByte
    rw [Nat.add_sub_cancel_left, ← Nat.mul_mod_mul_left, Nat.mod_add_mod, Nat.mul_add, Nat.add_assoc _ (32 * len) x]

end Telemetry

/-! ## The bursts of a READ TELEMETRY (R178) -/

theorem markLast_length (bs : List Burst) : (markLast bs).length = bs.length := by
  induction bs with
  | nil => rfl
  | cons b rest ih =>
    cases rest with
    | nil => rfl
    | cons x rest => exact congrArg (· + 1) ih

/-- Marking the last of the bursts changes only their marks. -/
theorem mem_markLast {bs : List Burst} {x : Burst} (mem : x ∈ markLast bs) : ∃ b ∈ bs, ∃ last, x = b.marked last := by
  obtain ⟨k, at_k⟩ := List.mem_iff_getElem?.mp mem
  rw [markLast_getElem?, Option.map_eq_some_iff] at at_k
  obtain ⟨b, at_k, rfl⟩ := at_k
  exact ⟨b, List.mem_of_getElem? at_k, _, rfl⟩

theorem burstAddresses_eq (bs : List Burst) : burstAddresses bs = placeAddresses (bs.map fun b => (b.address, b.length)) := by
  unfold placeAddresses
  rw [List.flatMap_map]
  rfl

theorem burstAddresses_markLast (bs : List Burst) : burstAddresses (markLast bs) = burstAddresses bs := by
  rw [burstAddresses_eq, burstAddresses_eq]
  refine congrArg _ (List.ext_getElem? fun k => ?_)
  rw [List.getElem?_map, markLast_getElem?, List.getElem?_map, Option.map_map]
  rfl

section
variable (t : Telemetry) (chosen : List ChosenRecord)

theorem recordReads_addresses : burstAddresses (t.readBursts chosen)
    = chosen.flatMap (fun k => placeAddresses (t.places k.unit k.units)) := by
  unfold Telemetry.readBursts
  rw [burstAddresses_markLast]
  unfold burstAddresses placeAddresses
  rw [List.flatMap_assoc]
  exact List.flatMap_congr fun k _ => List.flatMap_map _ _ _

/-- Each of the bursts reads at most 1 KiB of one of the chosen records. -/
theorem recordReads_form {x : Burst} (mem : x ∈ t.readBursts chosen) : x.length ≤ 1024 ∧ x.data = [] ∧ x.dropped = false
    ∧ ∃ k ∈ chosen, x.job = .telemetryRead k.unit := by
  obtain ⟨b, among, last, rfl⟩ := mem_markLast mem
  obtain ⟨k, choice, among⟩ := List.mem_flatMap.mp among
  obtain ⟨p, place, rfl⟩ := List.mem_map.mp among
  exact ⟨ringPlaces_le _ _ _ _ _ p place, rfl, rfl, k, choice, rfl⟩

theorem recordReads_last {k : Nat} {x : Burst} (at_k : (t.readBursts chosen)[k]? = some x) :
    x.last = true ↔ k + 1 = (t.readBursts chosen).length := by
  unfold Telemetry.readBursts at at_k ⊢
  rw [markLast_getElem?, Option.map_eq_some_iff] at at_k
  obtain ⟨b, -, rfl⟩ := at_k
  rw [markLast_length]
  exact decide_eq_true_iff

end

/-! ## The requests that need the Memory Arbiter (R44, R51, R158, R178) -/

theorem firstFailure_append (xs ys : List (Bool × Status)) :
    firstFailure (xs ++ ys) = (firstFailure xs).or (firstFailure ys) := by
  induction xs with
  | nil => rfl
  | cons c rest ih =>
    rw [List.cons_append, firstFailure, firstFailure]
    split
    · exact ih
    · rfl

theorem segmentCount_eq (a : Nat) : segmentCount a = (a + 511) / 512 := by
  unfold segmentCount ceilDiv Config.segmentSize; omega

theorem loadable_iff (b : BankState) : b.loadable = true ↔ b = .loading ∨ b = .ready := by cases b <;> decide

theorem plain_passes {r : Request} (form : r.form = 0) : r.plain.1 = true := beq_iff_eq.mpr form

theorem bodyIs_passes {r : Request} {n : Nat} (length : r.body.length = n) : (r.bodyIs n).1 = true := beq_iff_eq.mpr length

section
variable {s : State} {r : Request}

/-- A read of a known object whose form, length and clear byte are right (R184, R199). -/
theorem readChecks_pass {o : Nat} (object : r.object? = some o) (known : o ≤ 19) (form : r.form = 0) (length : r.body.length = 12)
    (keeps : r.field 1 1 = 0) : firstFailure r.readChecks = none :=
  check_passes (plain_passes form) (check_passes (by simp [object]) (check_passes (by simp [Request.objectNumber, object, known])
    (check_passes (bodyIs_passes length) (check_passes (by simp [keeps]) (check_passes (by simp [Request.clears, keeps]) rfl)))))

/-! ### LOAD COLUMN (R38, R44, R45) -/

theorem loadColumn_exec {b : Ix} (oldest : s.oldest? .loadColumn = some r) (form : r.form = 0)
    (length : r.body.length = 8 + 2 * r.loadCount) (bank : r.bank? = some b)
    (loads : (s.bank b).state = .loading ∨ (s.bank b).state = .ready) (unused : (s.bank b).useCount = 0)
    (unmarked : (s.bank b).swapMark = none) (fits : r.loadFits (s.bank b) = true) : exec .loadColumn s
      = .next (s.accepted.execute r (.loadColumn b r.loadIndex (r.loadFirst / 512) (segmentCount r.loadCount))
        (writeBursts .loadColumn (r.loadPieces b))) := by
  have notLive : (s.bank b).state ≠ .live := by rcases loads with state | state <;> rw [state] <;> decide
  show execLoadColumn s = _
  unfold execLoadColumn
  rw [serve_eq _ oldest, State.loadBank, State.withBank,
    check_passes (plain_passes form) (check_passes (by simp [length]) rfl), bank]
  dsimp only
  rw [show s.dequeue.bank b = s.bank b from rfl, dequeue_judge_of_none]
  · rfl
  · exact check_passes ((loadable_iff _).mpr loads) (check_passes ((not_inUse_iff _).mpr (by simp [notLive, unused]))
      (check_passes (by simp [unmarked]) (check_passes fits rfl)))

/-- One write per covered segment, in rising order. -/
theorem loadBursts_eq (b : Ix) : writeBursts .loadColumn (r.loadPieces b)
    = (List.range ((r.field 6 2 + 511) / 512)).map (fun k =>
        let d := ((r.body.drop 8).drop (1024 * k)).take 1024
        let e := d ++ List.replicate (8 * ((d.length + 7) / 8) - d.length) 0
        ⟨.loadColumn, 100663296 * b.toNat + 12288 * r.field 2 2 + 1024 * (r.field 4 2 / 512 + k), e.length, e,
          k + 1 = (r.field 6 2 + 511) / 512, false⟩) := by
  unfold Request.loadPieces
  rw [← segmentCount_eq]
  exact writeBursts_range _ _ _

/-! ### Readbacks (R38, R51) -/

theorem readback_exec {b : Ix} (oldest : s.oldest? .readMatrixColumnSegment = some r) (form : r.form = 0)
    (length : r.body.length = 12) (keeps : r.field 1 1 = 0) (bank : Ix.ofNat? (r.field 4 4) = some b)
    (held : (s.bank b).state ≠ .empty) (column : r.readColumn < (s.bank b).nb)
    (segment : r.readSegment < segmentCount (s.bank b).ab) : exec .readMatrixColumnSegment s
      = .next (if (s.bank b).covered r.readColumn r.readSegment = true then s.accepted.execute r
          (.readback b r.readColumn r.readSegment) (readBursts .readback [s.segmentPlace b r.readColumn r.readSegment])
        else (s.accepted.bump .readbacks).done r (readbackBody false [])) := by
  show execReadMatrixColumnSegment s = _
  unfold execReadMatrixColumnSegment
  rw [serve_eq _ oldest, readChecks_pass (object?_of_readback oldest) (by decide) form length keeps,
    show r.readBank? = some b from bank]
  dsimp only
  unfold State.readback
  dsimp only
  rw [show s.dequeue.bank b = s.bank b from rfl, dequeue_judge_of_none]
  · rfl
  · exact check_passes (by simpa using held) (check_passes (by simp [column, segment]) rfl)

/-! ### Poke records (R38, R157, R158) -/

theorem readPokeRecords_exec (oldest : s.oldest? .readPokeRecords = some r) (form : r.form = 0) (length : r.body.length = 12)
    (keeps : r.field 1 1 = 0) (some : 1 ≤ r.field 8 4) (room : 8 + 128 * r.field 8 4 ≤ 49152)
    (inTable : r.field 4 4 + r.field 8 4 ≤ 1024) : exec .readPokeRecords s = .next (s.accepted.execute r (.pokeRead [])
      (readBursts .pokeRecordRead (pokePlaces (r.field 4 4) (r.field 8 4)))) := by
  have object := object?_of_pokeRecords oldest
  have run : r.runChecks = [(decide (8 + 128 * r.field 8 4 ≤ 49152), .badRange), (r.field 8 4 != 0, .badRange),
      (decide (r.field 4 4 + r.field 8 4 ≤ 1024), .badRange)] := by
    unfold Request.runChecks Request.objectNumber; rw [object]; rfl
  show execReadPokeRecords s = _
  unfold execReadPokeRecords
  rw [serve_eq _ oldest, State.readPoke, dequeue_judge_of_none]
  · rfl
  · rw [firstFailure_append, readChecks_pass object (by decide) form length keeps, run, Option.none_or]
    exact check_passes (decide_eq_true room) (check_passes (by simp; omega) (check_passes (decide_eq_true inTable) rfl))

theorem elementsOf_length (skip size : Nat) : (r.elementsOf skip size).length = (r.body.length - skip) / size := by
  unfold Request.elementsOf elements
  rw [length_splitElements, List.length_drop]

theorem writePokeRecords_exec (oldest : s.oldest? .writePokeRecords = some r) (form : r.form = 0) (long : 8 < r.body.length)
    (whole : (r.body.length - 8) % 128 = 0) (inTable : r.first + (r.elementsOf 8 128).length ≤ 1024)
    (values : (r.elementsOf 8 128).all recordValuesHold = true)
    (actuators : (r.elementsOf 8 128).all recordActuatorsHold = true)
    (free : s.pokeRunFree r.first (r.elementsOf 8 128).length = true) : exec .writePokeRecords s
      = .next (s.accepted.execute r .pokeWrite (writeBursts .pokeRecordWrite
        ((List.range (r.elementsOf 8 128).length).zipWith (fun k e => (pokeAddress (r.first + k), e)) (r.elementsOf 8 128)))) := by
  show execWritePokeRecords s = _
  unfold execWritePokeRecords
  rw [serve_eq _ oldest, State.writePoke, dequeue_judge_of_none]
  exact check_passes (plain_passes form) (check_passes (by simp [Request.holdsRun, long, whole])
    (check_passes (by simp [Request.runWithin, inTable]) (check_passes values (check_passes actuators (check_passes free rfl)))))

/-- One write of 128 bytes per record, in rising order. -/
theorem pokeBursts_eq : writeBursts .pokeRecordWrite ((List.range (r.elementsOf 8 128).length).zipWith
      (fun k e => (pokeAddress (r.first + k), e)) (r.elementsOf 8 128))
    = (List.range ((r.body.length - 8) / 128)).map (fun k =>
        ⟨.pokeRecordWrite, 469762048 + 128 * (r.field 4 4 + k), 128, ((r.body.drop 8).drop (128 * k)).take 128,
          k + 1 = (r.body.length - 8) / 128, false⟩) := by
  have places : (List.range (r.elementsOf 8 128).length).zipWith (fun k e => (pokeAddress (r.first + k), e)) (r.elementsOf 8 128)
      = (List.range ((r.body.length - 8) / 128)).map
        (fun k => (469762048 + 128 * (r.field 4 4 + k), ((r.body.drop 8).drop (128 * k)).take 128)) := by
    rw [← elementsOf_length]
    refine List.ext_getElem (by simp) fun k inside _ => ?_
    simp only [List.length_zipWith, List.length_range, Nat.min_self] at inside
    rw [elementsOf_length] at inside
    simp only [List.getElem_zipWith, List.getElem_range, List.getElem_map]
    exact congrArg _ (getElem_splitElements _ _ _ _ _)
  rw [places, writeBursts_range]
  refine List.map_congr_left fun k mem => ?_
  have inside := List.mem_range.mp mem
  have full : (((r.body.drop 8).drop (128 * k)).take 128).length = 128 := by
    simp only [List.length_take, List.length_drop]; omega
  rw [full]

/-! ### READ TELEMETRY (R178) -/

theorem readTelemetry_exec (oldest : s.oldest? .readTelemetry = some r) (form : r.form = 0) (length : r.body.length = 4)
    (count : 1 ≤ r.field 0 2) {chosen : List ChosenRecord}
    (choice : s.telemetry.choose (r.field 0 2) s.telemetry.readPos 49140 s.telemetry.lengths = chosen) :
    exec .readTelemetry s = .next (if chosen = [] then s.accepted.done r (telemetryBody [])
      else s.accepted.execute r (.readTelemetry chosen) (s.telemetry.readBursts chosen)) := by
  show execReadTelemetry s = _
  unfold execReadTelemetry
  rw [serve_eq _ oldest, State.readRecords, dequeue_judge_of_none]
  · dsimp only
    rw [show s.accepted.telemetry = s.telemetry from rfl, show recordRoom = 49140 from rfl, choice]
    cases chosen <;> rfl
  · exact check_passes (plain_passes form) (check_passes (bodyIs_passes length) (check_passes (decide_eq_true count) rfl))

end

end Sys2Proof.Machine

namespace Sys2Proof.Machine

-- One theorem after the other, so that checking the whole package keeps to few threads.
set_option Elab.async false

/-! ## Requests go into execution with their bursts (R183) -/

section
variable {s : State} {r : Request}

theorem execute_writes (x : Transfer) (job : BurstJob) (places : List (Nat × List Byte)) (transfer : job.isTransfer = true) :
    s.executes (s.accepted.execute r x (writeBursts job places)) r x
    ∧ s.placesTransfers (s.accepted.execute r x (writeBursts job places)) (writeBursts job places) :=
  ⟨execute_executes s r x _, execute_placesTransfers s r x _ fun b mem => by rwa [writeBursts_job _ _ b mem]⟩

theorem execute_reads (x : Transfer) (job : BurstJob) (places : List (Nat × Nat)) (transfer : job.isTransfer = true) :
    s.executes (s.accepted.execute r x (readBursts job places)) r x
    ∧ s.placesTransfers (s.accepted.execute r x (readBursts job places)) (readBursts job places) :=
  ⟨execute_executes s r x _, execute_placesTransfers s r x _ fun b mem => by rwa [readBursts_job _ _ b mem]⟩

/-- One read of 128 bytes per record, in rising order. -/
theorem pokeReads_eq (first count : Nat) : readBursts .pokeRecordRead (pokePlaces first count)
    = (List.range count).map (fun k => ⟨.pokeRecordRead, 469762048 + 128 * (first + k), 128, [], k + 1 = count, false⟩) :=
  readBursts_range _ _ _

/-- With no record held nothing is chosen (R178). -/
theorem choose_nil (t : Telemetry) (n u room : Nat) : t.choose n u room [] = [] := by cases n <;> rfl

/-- A READ TELEMETRY chooses at least the oldest record, which always fits (R178). -/
theorem choose_some (t : Telemetry) {n room l : Nat} {rest : List Nat} (u : Nat) (count : 1 ≤ n) (fits : 32 * l ≤ room) :
    ∃ m, 1 ≤ m ∧ m ≤ n ∧ m ≤ (l :: rest).length ∧ 32 * ((l :: rest).take m).sum ≤ room
      ∧ (m = n ∨ m = (l :: rest).length ∨ room < 32 * ((l :: rest).take (m + 1)).sum)
      ∧ t.choose n u room (l :: rest) = t.recordsFrom u ((l :: rest).take m) := by
  obtain ⟨m, most, held, within, longest, chosen⟩ := t.choose_spec n u room (l :: rest)
  refine ⟨m, Nat.pos_of_ne_zero ?_, most, held, within, longest, chosen⟩
  rintro rfl
  rcases longest with fewest | empty | beyond
  · omega
  · cases empty
  · simp at beyond; omega

theorem recordsFrom_take (t : Telemetry) (u : Nat) {m : Nat} {lengths : List Nat} (held : m ≤ lengths.length) :
    t.recordsFrom u (lengths.take m) = (List.range m).map (fun k => ⟨t.unitFrom u lengths k, lengths.getD k 0, []⟩) := by
  rw [t.recordsFrom_eq, List.length_take, Nat.min_eq_left held]
  refine List.map_congr_left fun k mem => ?_
  have inside := List.mem_range.mp mem
  have unit : t.unitFrom u (lengths.take m) k = t.unitFrom u lengths k := by
    unfold Telemetry.unitFrom
    rw [List.take_take, Nat.min_eq_left (Nat.le_of_lt inside)]
  rw [unit, List.getD_eq_getElem?_getD, List.getElem?_take_of_lt inside, ← List.getD_eq_getElem?_getD]

end

/-- Settles O47: each request's checks pass, and `State.execute` then places its bursts, which are marked as a run. -/
theorem arbiterRequestsGoIntoExecution : Obligations.ArbiterRequestsGoIntoExecution := by
  intro s r form
  refine ⟨fun b oldest _ length bank loads unused unmarked fits => ?load, fun b oldest length keeps bank held column segment
    covered => ?readback, fun oldest length keeps any room inTable => ?pokeRead, fun oldest long whole inTable values actuators
    free => ?pokeWrite, fun oldest length count => ⟨fun none => ?empty, fun l rest unit held fits units => ?telemetry⟩⟩
  case load =>
    refine ⟨_, loadColumn_exec oldest form length bank loads unused unmarked fits, ?_⟩
    rw [segmentCount_eq, ← loadBursts_eq]
    exact execute_writes _ .loadColumn _ rfl
  case readback =>
    have exec := readback_exec oldest form length keeps bank held column segment
    rw [if_pos (show (s.bank b).covered r.readColumn r.readSegment = true from covered)] at exec
    refine ⟨_, exec, ?_⟩
    exact execute_reads _ .readback [s.segmentPlace b r.readColumn r.readSegment] rfl
  case pokeRead =>
    refine ⟨_, readPokeRecords_exec oldest form length keeps any room inTable, ?_⟩
    rw [← pokeReads_eq]
    exact execute_reads _ .pokeRecordRead _ rfl
  case pokeWrite =>
    refine ⟨_, writePokeRecords_exec oldest form long whole inTable values actuators free, ?_⟩
    rw [← pokeBursts_eq]
    exact execute_writes _ .pokeRecordWrite _ rfl
  case empty =>
    have nothing : s.telemetry.choose (r.field 0 2) s.telemetry.readPos 49140 s.telemetry.lengths = [] := by
      rw [none]; exact choose_nil _ _ _ _
    exact ⟨_, readTelemetry_exec oldest form length count nothing, done_answered r (telemetryBody []) rfl rfl rfl⟩
  case telemetry =>
    obtain ⟨m, some, most, all, within, longest, choice⟩ :=
      choose_some s.telemetry (rest := rest) s.telemetry.readPos count fits
    rw [← held] at all within longest choice
    obtain rfl : unit = s.telemetry.unitFrom s.telemetry.readPos s.telemetry.lengths := funext units
    have chosen := recordsFrom_take s.telemetry s.telemetry.readPos all
    have nonempty : s.telemetry.recordsFrom s.telemetry.readPos (s.telemetry.lengths.take m) ≠ [] := by
      rw [chosen]; simp; omega
    have reads := readTelemetry_exec oldest form length count choice
    rw [if_neg nonempty] at reads
    refine ⟨_, m, _, reads, some, most, all, within, longest, ?_, execute_placesRecordReads s r _ _ fun x mem => ?_,
      fun begins inside => ?_, fun x mem => ?_, fun k x => recordReads_last _ _⟩
    · rw [← chosen]
      exact execute_executes s r _ _
    · obtain ⟨-, -, -, k, -, job⟩ := recordReads_form _ _ mem
      rw [job]; rfl
    · rw [recordReads_addresses]
      exact s.telemetry.placeAddresses_recordsFrom _ _ begins inside
    · obtain ⟨long, data, kept, c, among, job⟩ := recordReads_form _ _ mem
      rw [chosen] at among
      obtain ⟨k, inside, rfl⟩ := List.mem_map.mp among
      exact ⟨long, data, kept, k, List.mem_range.mp inside, job⟩

end Sys2Proof.Machine

namespace Sys2Proof.Machine

-- One theorem after the other, so that checking the whole package keeps to few threads.
set_option Elab.async false

/-! ## Codes that the specification leaves open (log entry 9)

`State.openCodes s o` lists, in the order of an answer to a READ OBJECT of object `o`, the values that the model sends where no
code is stated; `openField` gives the bytes of the field of a number, 0 for the two bytes of an absent last applied tag. -/

/-- The open codes of a bank header: its state, no unmarked segment, its swap mark. -/
def Bank.openCodes (k : Bank) : List (BitVec 32) :=
  [Config.unstatedCode .bankState k.state.ordinal, Config.unstatedCode .noUnmarked 0,
   Config.unstatedCode .swapMark (swapOrdinal k.swapMark)]

/-- The open codes of the last uncorrectable location. -/
def lastBadCodes : Option (DramPlace × Time) → List (BitVec 32)
  | some (.bank _ _ _, _) => [Config.unstatedCode .dramArea 0, Config.unstatedCode .noUncorrectable 4]
  | some (.telemetry _, _) => Config.unstatedCode .dramArea 1 :: [1, 2, 3].map (Config.unstatedCode .noUncorrectable)
  | some (.poke _, _) => Config.unstatedCode .dramArea 2 :: [1, 2, 3].map (Config.unstatedCode .noUncorrectable)
  | none => [0, 1, 2, 3, 4, 5].map (Config.unstatedCode .noUncorrectable)

/-- The open codes of a Poke Engine: its state, and what stands for the fields that do not apply. -/
def pokeCodes : Option PokeRun → List (BitVec 32)
  | none => Config.unstatedCode .pokeState 0 :: [0, 1, 2, 3].map (Config.unstatedCode .pokeItemWhileIdle)
  | some _ => [Config.unstatedCode .pokeState 1, 0, 0, Config.unstatedCode .framesAwaiting 0, Config.unstatedCode .noPrefetched 0]

/-- The open codes of a fault snapshot: its first cause, no driver status code, no LIVE bank, no poke record. -/
def snapshotCodes : Option Snapshot → List (BitVec 32)
  | none => []
  | some x => [Config.unstatedCode .firstCause x.cause.ordinal, Config.unstatedCode .absentDriverStatus 0,
      Config.unstatedCode .noLiveBank 0, Config.unstatedCode .noLiveBank 0, Config.unstatedCode .pokeItemWhileIdle 0]

/-- The open codes of the loop state with a Poke Engine: the states of both contexts, no finished frame, no driver status, the
state of the snapshot, and those of the engine. -/
def State.loopCodes (s : State) (e : Option PokeRun) : List (BitVec 32) :=
  [Config.unstatedCode .contextState (s.ctx .zero).state.ordinal, Config.unstatedCode .contextState (s.ctx .one).state.ordinal,
   Config.unstatedCode .absentInterval 0, Config.unstatedCode .absentDriverStatus 0,
   Config.unstatedCode .snapshotState s.loop.snapshotState.ordinal] ++ pokeCodes e

/-- The open codes of an object, in the order of its fields. -/
def State.openCodes (s : State) : Nat → List (BitVec 32)
  | 11 => (s.bank .zero).openCodes ++ (s.bank .one).openCodes ++ lastBadCodes s.bankStore.lastBad
  | 15 => s.loopCodes (if s.isTail then s.poke else none)
  | 19 => Config.unstatedCode .snapshotState s.loop.snapshotState.ordinal :: snapshotCodes s.loop.snapshot
  | _ => []

/-- The bytes of open field `i`, which are two for `i = 0` and four otherwise. -/
def openField (codes : List (BitVec 32)) (i : Nat) : List Byte :=
  if i = 0 then leBytes 2 (Config.unstatedCode .absentEffectiveTag 1).toNat else word (codes.getD (i - 1) 0).toNat

theorem openField_length (codes : List (BitVec 32)) (i : Nat) : (openField codes i).length = if i = 0 then 2 else 4 := by
  unfold openField
  split
  · exact leBytes_length 2 _
  · exact leBytes_length 4 _

/-! ## The encodings of R199 -/

theorem numberItems_eq (k : Nat) (vs : List Nat) : numberItems k vs = (vs.zipIdx k).map fun x => (x.2, x.1) := by
  induction vs generalizing k with
  | nil => rfl
  | cons v vs ih => exact congrArg _ (ih (k + 1))

theorem itemRun_eq (vs : List Nat) : itemRun vs = vs.zipIdx.flatMap fun x => leBytes 2 x.2 ++ leBytes 2 0 ++ leBytes 4 x.1 := by
  unfold itemRun
  rw [numberItems_eq, List.flatMap_map]
  rfl

/-- The hold entries of a port are those of its run of local slope indices (R1, R16). -/
theorem holdBytes_eq (s : State) (p : Ix) : s.holdBytes p = (List.range (s.port p).config.slopeCount).flatMap fun k =>
    match s.engine.hold.get ((if p = .one then (s.port .zero).config.slopeCount else 0) + k) with
    | some h => sle16 h.value ++ leBytes 1 h.age ++ leBytes 1 0
    | none => sle16 0 ++ leBytes 1 (s.port p).config.holdLimit ++ leBytes 1 0 := by
  refine List.flatMap_congr fun k mem => ?_
  have inside := List.mem_range.mp mem
  have place : s.localIndex p k = (if p = .one then (s.port .zero).config.slopeCount else 0) + k := by
    cases p
    · exact (Nat.zero_add k).symm
    · rfl
  have owner : s.ownerOf (s.localIndex p k) = p := by
    cases p
    · exact if_pos inside
    · exact if_neg (by simp [State.localIndex])
  dsimp only
  unfold State.holdEntry
  rw [owner, place]
  cases s.engine.hold.get _ <;> rfl

/-- The four places of masters of a slave record (log entry 46). -/
theorem flatMap_masters (masters : List Nat) : ((masters ++ [0, 0, 0, 0]).take 4).flatMap (leBytes 2)
    = (List.range 4).flatMap fun i => leBytes 2 (masters.getD i 0) := by
  have places : (masters ++ [0, 0, 0, 0]).take 4 = (List.range 4).map fun i => masters.getD i 0 := by
    match masters with
    | [] | [_] | [_, _] | [_, _, _] => rfl
    | _ :: _ :: _ :: _ :: _ => rfl
  rw [places, List.flatMap_map]

/-- The first unmarked segment, in column order and then segment order (R40). -/
theorem unmarked_eq (k : Bank) : k.unmarked = (List.range k.nb).flatMap fun c =>
    ((List.range (segmentCount k.ab)).filter fun m => !k.covered c m).map fun m => (c, m) := by
  unfold Bank.unmarked Bank.places
  rw [List.filter_flatMap]
  refine List.flatMap_congr fun c _ => ?_
  rw [List.filter_map]
  rfl

theorem header_eq (k : Bank) {state complete mark : List Byte} (openState : state = unstated .bankState k.state.ordinal)
    (noUnmarked : complete = unstated .noUnmarked 0) (openMark : mark = unstated .swapMark (swapOrdinal k.swapMark)) :
    k.header = state ++ word k.nb ++ word k.ab ++ word k.scale ++ word k.label.toNat
      ++ word ((List.range k.nb).map fun c => (List.range (segmentCount k.ab)).countP fun m => !k.covered c m).sum
      ++ (match ((List.range k.nb).flatMap fun c =>
            ((List.range (segmentCount k.ab)).filter fun m => !k.covered c m).map fun m => (c, m)).head? with
        | some (c, m) => leBytes 2 c ++ leBytes 1 m ++ leBytes 1 0
        | none => complete)
      ++ mark ++ word k.useCount := by
  subst openState noUnmarked openMark
  unfold Bank.header
  rw [length_unmarked, unmarked_eq]
  generalize List.head? _ = first
  cases first <;> rfl

theorem stateBytes_eq (x : Context) {state : List Byte} (openState : state = unstated .contextState x.state.ordinal) :
    x.stateBytes = state ++ (if x.state = .free then []
      else word x.tag.toNat ++ word x.bank.toNat ++ word x.label.toNat ++ word x.openTime.toNat ++ word x.flags.toNat) := by
  subst openState
  unfold Context.stateBytes Context.isOpen
  cases x.state <;> rfl

theorem isTail_iff (s : State) : s.isTail = true ↔ s.params.role = .tail ∨ s.params.role = .solo := by
  unfold State.isTail; cases s.params.role <;> decide

theorem lastBadBytes_eq (k l : Bank) (x : Option (DramPlace × Time)) :
    let f := openField (k.openCodes ++ l.openCodes ++ lastBadCodes x)
    lastBadBytes x = match x with
      | some (.bank b i g, u) => f 7 ++ word b.toNat ++ word i ++ word g ++ f 8 ++ word u.toNat
      | some (.telemetry o, u) => f 7 ++ f 8 ++ f 9 ++ f 10 ++ word o ++ word u.toNat
      | some (.poke o, u) => f 7 ++ f 8 ++ f 9 ++ f 10 ++ word o ++ word u.toNat
      | none => f 7 ++ f 8 ++ f 9 ++ f 10 ++ f 11 ++ f 12 := by
  rcases x with _ | ⟨_ | _ | _, u⟩ <;> rfl

theorem active_code (k : Nat) (g : PokePhase) : (PokeMark.active k g false).code = match g with | .push => 0 | .pull => 1 := by
  cases g <;> rfl

theorem pokeBytes_some (e : PokeRun) : pokeBytes (some e) = unstated .pokeState 1 ++ word e.current
    ++ word (match e.phase with | .push => 0 | .pull => 1)
    ++ (if e.copy = none then unstated .framesAwaiting 0 else word e.remaining)
    ++ (match e.prefetched with | some x => word x.1 | none => unstated .noPrefetched 0) := by
  have awaiting : orUnstated .framesAwaiting (e.copy.map fun _ => e.remaining)
      = if e.copy = none then unstated .framesAwaiting 0 else word e.remaining := by cases e.copy <;> simp [orUnstated]
  unfold pokeBytes
  dsimp only
  rw [awaiting, active_code]
  cases e.prefetched <;> rfl

/-- The items of the loop state object that belong to the tail, at a tail. -/
theorem tailItems_eq (s : State) : let f := openField (s.loopCodes s.poke)
    s.tailItems = tagWord s.lastApplied ++ word s.loop.state.code ++ word s.loop.badFrames ++ word s.loop.satRun
      ++ (match s.loop.lastFinish with | some u => word (s.now - u).toNat | none => f 3)
      ++ word (boolCode s.mirror.up) ++ word s.mirror.echoes.length ++ word s.mirror.misses
      ++ (match s.mirror.lastDriverStatus with | some x => word x | none => f 4) ++ f 5
      ++ (match s.poke with
        | none => f 6 ++ f 7 ++ f 8 ++ f 9 ++ f 10
        | some e => f 6 ++ word e.current ++ word (match e.phase with | .push => 0 | .pull => 1)
            ++ (if e.copy = none then f 9 else word e.remaining)
            ++ (match e.prefetched with | some x => word x.1 | none => f 10)) := by
  intro f
  have finish : orUnstated .absentInterval (s.loop.lastFinish.map (interval s.now))
      = match s.loop.lastFinish with | some u => word (s.now - u).toNat | none => f 3 := by cases s.loop.lastFinish <;> rfl
  have status : orUnstated .absentDriverStatus s.mirror.lastDriverStatus
      = match s.mirror.lastDriverStatus with | some x => word x | none => f 4 := by cases s.mirror.lastDriverStatus <;> rfl
  have snapshot : unstated .snapshotState s.loop.snapshotState.ordinal = f 5 := rfl
  unfold State.tailItems
  rw [finish, status, snapshot]
  refine congrArg _ ?_
  subst f
  cases s.poke with
  | none => rfl
  | some e => exact pokeBytes_some e

/-- The same items at a HEAD or MIDDLE node (log entry 29). -/
theorem resetItems_eq (s : State) : let f := openField (s.loopCodes none)
    s.resetItems = word 4294967295 ++ word 0 ++ word 0 ++ word 0 ++ f 3 ++ word 0 ++ word 0 ++ word 0 ++ f 4 ++ f 5
      ++ f 6 ++ f 7 ++ f 8 ++ f 9 ++ f 10 := by
  dsimp only
  unfold State.resetItems pokeBytes
  simp only [← List.append_assoc]
  rfl

/-- The fields of a fault snapshot (R153, R154). -/
theorem snapshot_bytes_eq (x : Snapshot) (c : BitVec 32) : let f := openField (c :: snapshotCodes (some x))
    x.bytes = f 2 ++ (match x.cause with | .driverFault k => word k | _ => f 3) ++ tagWord x.lastFinished
      ++ tagWord x.lastApplied ++ word x.loopBefore.code ++ word x.badFrames ++ word x.satRun ++ word x.lastClampCount
      ++ (match x.liveBank with | some (b, l) => word b.toNat ++ word l.toNat | none => f 4 ++ f 5)
      ++ (match x.poke with
        | some (k, g) => word k ++ word (match g with | .push => 0 | .pull => 1)
        | none => f 6 ++ word 2)
      ++ word x.latches.toNat ++ word x.timestamp.toNat ++ word x.later.toNat := by
  intro f
  have cause : orUnstated .absentDriverStatus x.cause.code? = match x.cause with | .driverFault k => word k | _ => f 3 := by
    cases x.cause <;> rfl
  have live : orUnstated .noLiveBank (x.liveBank.map fun b => b.1.toNat)
      ++ orUnstated .noLiveBank (x.liveBank.map fun b => b.2.toNat)
      = match x.liveBank with | some (b, l) => word b.toNat ++ word l.toNat | none => f 4 ++ f 5 := by
    cases x.liveBank <;> rfl
  have poke : orUnstated .pokeItemWhileIdle (x.poke.map Prod.fst)
      ++ word ((x.poke.map fun k => (PokeMark.active k.1 k.2 false).code).getD PokeMark.idle.code)
      = match x.poke with
        | some (k, g) => word k ++ word (match g with | .push => 0 | .pull => 1)
        | none => f 6 ++ word 2 := by
    rcases x.poke with _ | ⟨k, _ | _⟩ <;> rfl
  unfold Snapshot.bytes
  rw [cause, ← live, ← poke]
  simp only [List.append_assoc]
  rfl

end Sys2Proof.Machine

namespace Sys2Proof.Machine

-- One theorem after the other, so that checking the whole package keeps to few threads.
set_option Elab.async false

/-! ## The checks of a READ OBJECT (R184) -/

theorem firstFailure_cons (passes : Bool) (st : Status) (rest : List (Bool × Status)) :
    firstFailure ((passes, st) :: rest) = if passes = false then some st else firstFailure rest := by
  cases passes <;> rfl

theorem readChecks_failure (r : Request) : firstFailure r.readChecks
    = if r.form ≠ 0 ∨ r.body = [] then some .badRequest
      else if 19 < r.field 0 1 then some .badObject
      else if r.body.length ≠ 12 then some .badRequest
      else if 1 < r.field 1 1 then some .badValue
      else if r.field 1 1 = 1 ∧ r.field 0 1 ≠ 18 then some .badObject
      else none := by
  unfold Request.readChecks Request.plain Request.bodyIs Request.objectNumber Request.clears
  rw [object?_eq_field, firstFailure_cons, firstFailure_cons]
  by_cases named : r.body = []
  · simp [named]
  · rw [if_neg named, Option.getD_some, Option.isSome_some, if_neg (by decide : ¬true = false)]
    simp only [firstFailure_cons, named, or_false]
    refine if_congr (by simp) rfl (if_congr (by simp) rfl (if_congr (by simp) rfl (if_congr (by simp) rfl (if_congr ?_ rfl rfl))))
    simp

/-- The run of a table is checked by the size of the response, for a count of 0, and by its end. -/
theorem runChecks_failure (r : Request) : firstFailure r.runChecks
    = if (tableEntries r.objectNumber).getD 0 ≠ 0 ∧ (49152 < 8 + tableBody r.objectNumber r.readCount ∨ r.readCount = 0
          ∨ (tableEntries r.objectNumber).getD 0 < r.readFirst + r.readCount) then some .badRange else none := by
  have nonempty : tableEntries r.objectNumber ≠ some 0 := by unfold tableEntries; split <;> exact fun eq => by cases eq
  unfold Request.runChecks
  cases table : tableEntries r.objectNumber with
  | none => rfl
  | some entries =>
    have positive : entries ≠ 0 := by rintro rfl; exact nonempty table
    simp only [Option.getD_some, ne_eq, positive, not_false_eq_true, true_and]
    simp only [firstFailure_cons, decide_eq_false_iff_not, bne_eq_false_iff_eq, Nat.not_le, ite_or]
    rfl

/-- What a judged request leaves: `refused` of the status of the failing check, or `passed`. -/
def Judged (refused : Status → Prop) (passed : Prop) : Option Status → Prop
  | some st => refused st
  | none => passed

theorem Judged.ite {refused : Status → Prop} {passed final : Prop} {c : Prop} [Decidable c] {st : Status} {rest : Option Status}
    (outcome : Judged refused passed (if c then some st else rest)) (next : ¬c → Judged refused passed rest → final) :
    if c then refused st else final := by
  split
  · next failed => rwa [if_pos failed] at outcome
  · next passes => rw [if_neg passes] at outcome; exact next passes outcome

section
variable {s : State} {r : Request}

theorem objectNumber_eq (named : r.body ≠ []) : r.objectNumber = r.field 0 1 := by
  unfold Request.objectNumber; rw [object?_eq_field, if_neg named]; rfl

/-- The first failing check of a READ OBJECT that names an object, and of its run. -/
theorem read_failure {o entries : Nat} (named : r.body ≠ []) (number : r.objectNumber = o)
    (table : (tableEntries o).getD 0 = entries) : firstFailure (r.readChecks ++ r.runChecks)
      = if r.form ≠ 0 ∨ r.body = [] then some .badRequest
        else if 19 < o then some .badObject
        else if r.body.length ≠ 12 then some .badRequest
        else if 1 < r.field 1 1 then some .badValue
        else if r.field 1 1 = 1 ∧ o ≠ 18 then some .badObject
        else if entries ≠ 0 ∧ (49152 < 8 + tableBody o (r.field 8 4) ∨ r.field 8 4 = 0
          ∨ entries < r.field 4 4 + r.field 8 4) then some .badRange else none := by
  rw [firstFailure_append, readChecks_failure, runChecks_failure, ← objectNumber_eq named, number, table]
  unfold Request.readCount Request.readFirst
  split_ifs <;> rfl

theorem judge_refuses {checks : List (Bool × Status)} {f : State → State} {st : Status}
    (failed : firstFailure checks = some st) : s.answered (s.dequeue.judge r checks f) r st none [] ∧ s.counted (s.dequeue.judge r checks f) .requestsRefused 1 := by
  rw [judge_of_failure _ _ _ failed]
  obtain ⟨answered, counted, -⟩ := refuse_spec s r st
  exact ⟨answered, counted⟩

/-- Acceptance changes nothing that a READ OBJECT answers, but a counter. -/
theorem objectBody_accepted {o : Nat} (noCounters : o ≠ 18) (a n : Nat) :
    s.accepted.objectBody o a n = s.objectBody o a n := by
  unfold State.objectBody
  split
  case h_17 => exact absurd rfl noCounters
  all_goals rfl

theorem readObject_exec (oldest : s.oldest? .readObject = some r) : exec .readObject s
    = .next (s.dequeue.judge r (r.readChecks ++ r.runChecks) fun t =>
        t.done r (t.objectBody r.objectNumber r.readFirst r.readCount)) :=
  congrArg Host.Outcome.next (serve_eq _ oldest)

/-- A READ OBJECT of anything but counters is answered with the first failing check, or with the object (R183, R185). -/
theorem readObject_outcome (noCounters : r.objectNumber ≠ 18) :
    let t := s.dequeue.judge r (r.readChecks ++ r.runChecks) fun t =>
      t.done r (t.objectBody r.objectNumber r.readFirst r.readCount)
    Judged (fun st => s.answered t r st none [] ∧ s.counted t .requestsRefused 1)
      (s.counted t .requestsAccepted 1 ∧ s.answered t r .done none (s.objectBody r.objectNumber r.readFirst r.readCount))
      (firstFailure (r.readChecks ++ r.runChecks)) := by
  intro t
  cases failure : firstFailure (r.readChecks ++ r.runChecks) with
  | some st => exact judge_refuses failure
  | none =>
    have same : t = s.accepted.done r (s.objectBody r.objectNumber r.readFirst r.readCount) := by
      subst t
      rw [dequeue_judge_of_none _ _ _ failure, objectBody_accepted noCounters]
    rw [same]
    exact ⟨(counter_respond _ _ _ _ _ (by decide)).trans (counted_bump s.dequeue .requestsAccepted),
      done_answered r _ rfl rfl rfl⟩

theorem answered_congr {t : State} {st : Status} {e : Option Tag} {body bytes : List Byte} (answered : s.answered t r st e body)
    (same : body = bytes) : s.answered t r st e bytes := same ▸ answered

/-! ## READ COUNTERS (R193) -/

theorem readCounters_failure (object : r.object? = some 18) : firstFailure (r.readChecks ++ r.runChecks)
    = if r.form ≠ 0 then some .badRequest
      else if r.body.length ≠ 12 then some .badRequest
      else if 1 < r.field 1 1 then some .badValue
      else if 49152 < 16 + 4 * r.field 8 4 ∨ r.field 8 4 = 0 ∨ 142 < r.field 4 4 + r.field 8 4 then some .badRange
      else none := by
  have named : r.body ≠ [] := fun empty => by rw [object?_eq_field, if_pos empty] at object; cases object
  have number : r.objectNumber = 18 := by unfold Request.objectNumber; rw [object]; rfl
  have size : (142 ≠ 0 ∧ (49152 < 8 + tableBody 18 (r.field 8 4) ∨ r.field 8 4 = 0 ∨ 142 < r.field 4 4 + r.field 8 4))
      ↔ 49152 < 16 + 4 * r.field 8 4 ∨ r.field 8 4 = 0 ∨ 142 < r.field 4 4 + r.field 8 4 := by
    rw [show tableBody 18 (r.field 8 4) = 8 + 4 * r.field 8 4 from rfl]; omega
  rw [read_failure named number (entries := 142) rfl, if_neg (by decide : ¬19 < 18),
    if_neg (by simp : ¬(r.field 1 1 = 1 ∧ 18 ≠ 18))]
  exact if_congr (or_iff_left named) rfl (if_congr Iff.rfl rfl (if_congr Iff.rfl rfl (if_congr size rfl rfl)))

/-- What a READ COUNTERS leaves behind when it is accepted, before its answer. -/
def State.afterRead (s : State) (r : Request) : State :=
  if r.clears then s.accepted.clearCounters r.readFirst r.readCount else s.accepted

theorem readCounters_exec (oldest : s.oldest? .readCounters = some r) : exec .readCounters s
    = .next (s.dequeue.judge r (r.readChecks ++ r.runChecks) fun t =>
        (if r.clears then t.clearCounters r.readFirst r.readCount else t).done r (t.objectBody 18 r.readFirst r.readCount)) :=
  congrArg Host.Outcome.next (serve_eq _ oldest)

theorem readCounters_outcome :
    let t := s.dequeue.judge r (r.readChecks ++ r.runChecks) fun t =>
      (if r.clears then t.clearCounters r.readFirst r.readCount else t).done r (t.objectBody 18 r.readFirst r.readCount)
    Judged (fun st => s.answered t r st none [] ∧ s.counted t .requestsRefused 1)
      (t = (s.afterRead r).done r (s.accepted.objectBody 18 r.readFirst r.readCount))
      (firstFailure (r.readChecks ++ r.runChecks)) := by
  intro t
  cases failure : firstFailure (r.readChecks ++ r.runChecks) with
  | some st => exact judge_refuses failure
  | none => exact dequeue_judge_of_none _ _ _ failure

theorem accepted_get (k : Nat) : s.accepted.counters.get k
    = if k = Counter.requestsAccepted.number then min (s.counters.get k + 1) 4294967295 else s.counters.get k := by
  refine (Table_get_set _ _ _ _).trans ?_
  split
  · next same => rw [same]; rfl
  · rfl

/-- The counters that are answered, with the acceptance of this very request among them (R193). -/
theorem counterBody_eq (a n : Nat) : s.accepted.objectBody 18 a n
    = s.trunkHead ++ runBytes a n fun k => leBytes 4
      (if k = Counter.requestsAccepted.number then min (s.counters.get k + 1) 4294967295 else s.counters.get k) :=
  congrArg (s.trunkHead ++ ·) (List.flatMap_congr fun k _ => congrArg (leBytes 4) (accepted_get (a + k)))

/-- An answer changes no counter but the overflow of the control queue (R68). -/
theorem respond_get (u : State) (st : Status) (e : Option Tag) (body : List Byte) {k : Nat}
    (other : k ≠ Counter.controlOverflow.number) : (u.respond r st e body).counters.get k = u.counters.get k := by
  unfold State.respond State.placeControl
  split
  · exact Table_get_set_ne _ other _
  · rw [State_grantTo_counters]

/-- A clearing read leaves its run at 0 (R193). -/
theorem afterRead_clears (clears : r.field 1 1 = 1) {k : Nat} (begins : r.readFirst ≤ k)
    (inside : k < r.readFirst + r.readCount) : (s.afterRead r).counters.get k = 0 := by
  have clearing : r.clears = true := by simp [Request.clears, clears]
  unfold State.afterRead State.clearCounters
  rw [if_pos clearing, Table_get_clearWhere, if_pos (by simp [begins, inside])]

theorem afterRead_keeps (keeps : r.field 1 1 = 0) : s.afterRead r = s.accepted :=
  if_neg (by simp [Request.clears, keeps])

theorem afterRead_answered (body : List Byte) : s.answered ((s.afterRead r).done r body) r .done none body := by
  unfold State.afterRead
  split <;> exact done_answered r body rfl rfl rfl

end

/-- Settles O46: each check in its order, then the encodings of R199 object by object, with the values of `openCodes` where no code
is stated. -/
theorem readsAnswerTheValuesInEffect : Obligations.ReadsAnswerTheValuesInEffect := by
  intro s r o a n object first count w v bit items run tag cls state phase port
  refine ⟨fun oldest => ⟨_, openField (s.openCodes o), readObject_exec oldest, openField_length _, ?object⟩,
    fun oldest => ?counters, fun b oldest form length keeps bank held column segment unmarked => ?readback⟩
  case object =>
    obtain ⟨noPoke, noMatrix, noCounters⟩ := object?_of_object oldest
    intro entries size applied header context refused
    by_cases named : r.body = []
    · rw [if_pos (.inr named)]
      exact judge_refuses (by rw [firstFailure_append, readChecks_failure, if_pos (.inr named)]; rfl)
    have number : r.objectNumber = o := (objectNumber_eq named).trans object.symm
    rw [object?_eq_field, if_neg named, ← object, ne_eq, Option.some_inj] at noPoke noMatrix noCounters
    have outcome := readObject_outcome (s := s) (r := r) (number ▸ noCounters)
    have entries_eq : (tableEntries o).getD 0 = entries := by
      subst entries
      unfold tableEntries
      split
      case h_8 => contradiction
      case h_11 => contradiction
      case h_12 => split <;> first | contradiction | rfl
      all_goals rfl
    have size_eq : tableBody o n = size := by
      subst size
      unfold tableBody
      split
      case h_8 => contradiction
      case h_11 => contradiction
      case h_12 => split <;> first | contradiction | rfl
      all_goals rfl
    rw [read_failure named number entries_eq, ← count, size_eq, ← first] at outcome
    refine outcome.ite fun _ outcome => outcome.ite fun known outcome => outcome.ite fun _ outcome => outcome.ite
      fun _ outcome => (if_congr (and_iff_left noCounters) rfl rfl).mp (outcome.ite fun _ outcome => outcome.ite
      fun _ ⟨counted, answered⟩ => ⟨counted, answered_congr answered ?_⟩)
    rw [number, show r.readFirst = a from first.symm, show r.readCount = n from count.symm]
    subst applied header context
    match o, known with
    | 0, _ | 16, _ | 17, _ => exact itemRun_eq _
    | 1, _ => exact congrArg₂ (· ++ ·) (itemRun_eq _) (holdBytes_eq s .zero)
    | 2, _ => exact congrArg₂ (· ++ ·) (itemRun_eq _) (holdBytes_eq s .one)
    | 3, _ | 4, _ | 5, _ | 6, _ | 8, _ | 9, _ | 13, _ | 14, _ => rfl
    | 7, _ => exact List.flatMap_congr fun k _ => congrArg (_ ++ ·) (flatMap_masters _)
    | 10, _ | 12, _ | 18, _ => contradiction
    | 11, _ =>
      refine congrArg₂ (· ++ ·) (congrArg₂ (· ++ ·) ?_ ?_) (lastBadBytes_eq _ _ _)
      · exact header_eq _ rfl rfl rfl
      · exact header_eq _ rfl rfl rfl
    | 15, _ =>
      refine congrArg₂ (· ++ ·) (congrArg₂ (· ++ ·) (congrArg₂ (· ++ ·) rfl ?_) ?_) ?_
      · exact stateBytes_eq _ rfl
      · exact stateBytes_eq _ rfl
      by_cases tail : s.isTail = true
      · have codes : s.openCodes 15 = s.loopCodes s.poke := congrArg s.loopCodes (if_pos tail)
        rw [if_pos tail, if_pos ((isTail_iff s).mp tail), codes]
        exact tailItems_eq s
      · have codes : s.openCodes 15 = s.loopCodes none := congrArg s.loopCodes (if_neg tail)
        rw [if_neg tail, if_neg fun role => tail ((isTail_iff s).mpr role), codes]
        exact resetItems_eq s
    | 19, _ =>
      refine congrArg (unstated .snapshotState s.loop.snapshotState.ordinal ++ ·) ?_
      rw [show s.openCodes 19 = _ :: snapshotCodes s.loop.snapshot from rfl]
      refine if_congr Iff.rfl rfl ?_
      cases s.loop.snapshot with
      | none => rfl
      | some x => exact snapshot_bytes_eq x _
    | _ + 20, far => exact absurd (by omega) far
  case counters =>
    subst a n
    refine ⟨_, readCounters_exec oldest, ?_⟩
    intro refused
    have outcome := readCounters_outcome (s := s) (r := r)
    rw [readCounters_failure (object?_of_counters oldest)] at outcome
    refine outcome.ite fun _ outcome => outcome.ite fun _ outcome => outcome.ite fun _ outcome => outcome.ite fun _ same => ?_
    rw [same, counterBody_eq]
    refine ⟨afterRead_answered _, fun clears k begins inside other => ?_, fun keeps => ?_⟩
    · exact (respond_get _ _ _ _ other).trans (afterRead_clears clears begins inside)
    · rw [afterRead_keeps keeps]
      refine ⟨(counter_respond _ _ _ _ _ (by decide)).trans (counted_bump s.dequeue .requestsAccepted), ?_⟩
      exact fun c accepted overflow => (counter_respond _ _ _ _ _ overflow).trans ((counter_bump s.dequeue _ c).trans (if_neg accepted))
  case readback =>
    subst a n
    have exec := readback_exec oldest form length keeps bank held column segment
    rw [if_neg (by rw [show (s.bank b).covered r.readColumn r.readSegment = false from unmarked]; decide)] at exec
    refine ⟨_, exec, done_answered r (readbackBody false []) rfl rfl rfl, ?_, ?_⟩
    · exact (counter_respond _ _ _ _ _ (by decide)).trans
        (counted_bump_of ((counter_bump s.dequeue .requestsAccepted .readbacks).trans (if_neg (by decide))))
    · obtain ⟨-, free⟩ := oldest?_some oldest
      exact (congrArg Mgmt.executing (State_respond_mgmt _ _ _ _ _)).trans free

end Sys2Proof.Machine

namespace Sys2Proof.Machine

-- One theorem after the other, so that checking the whole package keeps to few threads.
set_option Elab.async false

/-! ## Step and frame (95_what_each_step_holds.md) -/

/-- Settles O1: taking the command from the front leaves the state that it was put on. -/
theorem stepRunsFrontCommand : Obligations.StepRunsFrontCommand := fun _ _ => rfl

/-- A command goes on to a state that differs from `s` in its parts alone. -/
def StaysWithin (i : Instr) (s : State) : Prop := ∃ t, exec i s = .next t ∧ ∀ p : Part, p ∉ partsOf i → p.same s t

theorem MovesBy.staysWithin {i : Instr} {s : State} (h : MovesBy i s) : StaysWithin i s := by
  obtain ⟨t, step, moves⟩ := h
  exact ⟨t, step, moves.frame⟩

/-- What power-on reset leaves as it was is the queue of waiting commands alone (R196). -/
theorem partsOf_powerOnReset (n : BitVec 3) {p : Part} (outside : p ∉ partsOf (.powerOnReset n)) : p = .pending := by
  cases p with
  | pending => rfl
  | _ => exact absurd (by decide : _ ∈ partsOf (.powerOnReset 0)) outside

theorem powerOnReset_staysWithin (n : BitVec 3) (s : State) : StaysWithin (.powerOnReset n) s := by
  refine ⟨{ State.powerOn n (s.dram.epoch + 1) with pending := s.pending }, rfl, fun p outside => ?_⟩
  rw [partsOf_powerOnReset n outside]
  exact rfl

theorem clearCounters_frame (s : State) (first count : Nat) {p : Part} (other : p ≠ .counters) :
    p.same s (s.clearCounters first count) := by
  cases p with
  | counters => exact absurd rfl other
  | _ => rfl

/-- A clearing read changes counters beside what every answer changes (R193). -/
theorem readCounters_staysWithin (s : State) : StaysWithin .readCounters s := by
  refine ⟨_, rfl, serve_frame s _ _ rfl fun t r => judge_frame t r _ _ rfl fun u p outside => ?_⟩
  have answered (v : State) (body : List Byte) : p.same v (v.done r body) := (done_moves v r body).widen.frame p outside
  refine Part_same_trans ?_ (answered _ _)
  split
  · exact clearCounters_frame u _ _ fun counters => outside (counters ▸ by decide)
  · exact Part_same_refl p u

/-- Settles O5: a command that brings no counter down moves within its parts, and the other two have their frames by themselves. -/
theorem everyCommandStaysWithinItsParts : Obligations.EveryCommandStaysWithinItsParts := by
  intro i s
  by_cases reset : ∃ n, i = .powerOnReset n
  · obtain ⟨n, rfl⟩ := reset
    exact powerOnReset_staysWithin n s
  by_cases clear : i = .readCounters
  · rw [clear]
    exact readCounters_staysWithin s
  exact (exec_movesBy i s (fun n eq => reset ⟨n, eq⟩) clear).staysWithin

end Sys2Proof.Machine
